-- ==== Sys2Proof/Word.lean ====
section
/-! DEFINITION. The word types of the Rhabor M8 (R2, R42, R44) and the small enumerations that operands of
Instr name: the two contexts of a core (R8) and the agents behind the host and peer ports (R366, R376). -/

namespace Sys2Proof

/-- The content of a general register (R44). -/
abbrev Word := BitVec 64

/-- One byte of memory. -/
abbrev Byte := BitVec 8

/-- The kind of a thread context: normal or urgent (R8). -/
inductive Cx where
  | n
  | u
deriving DecidableEq, Repr

/-- An agent outside the module that reaches device memory on the HX path (R325, R367). -/
inductive HxAgent where
  /-- The host on host port p (R366). -/
  | host (p : BitVec 1)
  /-- The module on peer port k (R376). -/
  | peer (k : BitVec 2)
deriving DecidableEq, Repr

/-- A function of the module and the host port that it is reached through, or is to be enabled on (R366, R368). -/
structure PortFn where
  fn   : BitVec 5
  port : BitVec 1
deriving DecidableEq, Repr

/-- A thread's identity: its core and its context (R7, R8). -/
structure Tid where
  core : BitVec 6
  cx   : Cx
deriving DecidableEq, Repr

end Sys2Proof
end

