-- ==== Sys2Proof/Syntax.lean ====
section
/-! DEFINITION. Every row of spec/opcode_table.json as one constructor of Instr: the 214 instructions of
the Floroth instruction set, their operands being the encoded fields under the table's letters (long forms:
the fields of R170, R251, R268, R274, R314), and the 94 steps of the other agents of the module, whose
operands the model chose (DESIGN CHOICE, log 59). -/

namespace Sys2Proof

/-- The steps of the Rhabor M8: instructions of a thread, and steps of the device, the executive and the hosts. -/
inductive Instr where
  /-- ADD (R96): Writes G(a) + G(b) to G(d). -/
  | add (d : BitVec 5) (a : BitVec 5) (b : BitVec 5)
  /-- SUB (R96): Writes G(a) - G(b) to G(d). -/
  | sub (d : BitVec 5) (a : BitVec 5) (b : BitVec 5)
  /-- AND (R96): Writes the bitwise AND of G(a) and G(b) to G(d). -/
  | and (d : BitVec 5) (a : BitVec 5) (b : BitVec 5)
  /-- OR (R96): Writes the bitwise OR of G(a) and G(b) to G(d). -/
  | or (d : BitVec 5) (a : BitVec 5) (b : BitVec 5)
  /-- XOR (R96): Writes the bitwise XOR of G(a) and G(b) to G(d). -/
  | xor (d : BitVec 5) (a : BitVec 5) (b : BitVec 5)
  /-- ANDN (R96): Writes G(a) AND NOT G(b) to G(d). -/
  | andn (d : BitVec 5) (a : BitVec 5) (b : BitVec 5)
  /-- SLL (R96): Shifts G(a) left by G(b)<5:0> and writes the result to G(d). -/
  | sll (d : BitVec 5) (a : BitVec 5) (b : BitVec 5)
  /-- SRL (R96): Shifts G(a) right by G(b)<5:0>, with zeros entering, and writes the result to G(d). -/
  | srl (d : BitVec 5) (a : BitVec 5) (b : BitVec 5)
  /-- SRA (R96): Shifts G(a) right by G(b)<5:0>, with copies of bit 63 entering, and writes the result to G(d). -/
  | sra (d : BitVec 5) (a : BitVec 5) (b : BitVec 5)
  /-- SLT (R96): Writes 1 to G(d) if G(a) < G(b) as signed integers, else 0. -/
  | slt (d : BitVec 5) (a : BitVec 5) (b : BitVec 5)
  /-- SLTU (R96): Writes 1 to G(d) if G(a) < G(b) as unsigned integers, else 0. -/
  | sltu (d : BitVec 5) (a : BitVec 5) (b : BitVec 5)
  /-- MIN (R96): Writes the signed minimum of G(a) and G(b) to G(d). -/
  | min (d : BitVec 5) (a : BitVec 5) (b : BitVec 5)
  /-- MAX (R96): Writes the signed maximum of G(a) and G(b) to G(d). -/
  | max (d : BitVec 5) (a : BitVec 5) (b : BitVec 5)
  /-- MINU (R96): Writes the unsigned minimum of G(a) and G(b) to G(d). -/
  | minu (d : BitVec 5) (a : BitVec 5) (b : BitVec 5)
  /-- MAXU (R96): Writes the unsigned maximum of G(a) and G(b) to G(d). -/
  | maxu (d : BitVec 5) (a : BitVec 5) (b : BitVec 5)
  /-- CLZ (R96): Writes the count of leading zero bits of G(a) to G(d). -/
  | clz (d : BitVec 5) (a : BitVec 5)
  /-- CTZ (R96): Writes the count of trailing zero bits of G(a) to G(d). -/
  | ctz (d : BitVec 5) (a : BitVec 5)
  /-- POP (R96): Writes the number of one bits of G(a) to G(d). -/
  | pop (d : BitVec 5) (a : BitVec 5)
  /-- SEXT_B (R96): Writes G(a)<7:0>, sign-extended, to G(d). -/
  | sextB (d : BitVec 5) (a : BitVec 5)
  /-- SEXT_H (R96): Writes G(a)<15:0>, sign-extended, to G(d). -/
  | sextH (d : BitVec 5) (a : BitVec 5)
  /-- SEXT_W (R96): Writes G(a)<31:0>, sign-extended, to G(d). -/
  | sextW (d : BitVec 5) (a : BitVec 5)
  /-- ZEXT_W (R96): Writes G(a)<31:0>, zero-extended, to G(d). -/
  | zextW (d : BitVec 5) (a : BitVec 5)
  /-- ADDI (R97): Writes G(a) plus the sign-extended immediate to G(d). -/
  | addi (d : BitVec 5) (a : BitVec 5) (i : BitVec 16)
  /-- ANDI (R97): Writes G(a) AND the sign-extended immediate to G(d). -/
  | andi (d : BitVec 5) (a : BitVec 5) (i : BitVec 16)
  /-- ORI (R97): Writes G(a) OR the sign-extended immediate to G(d). -/
  | ori (d : BitVec 5) (a : BitVec 5) (i : BitVec 16)
  /-- XORI (R97): Writes G(a) XOR the sign-extended immediate to G(d). -/
  | xori (d : BitVec 5) (a : BitVec 5) (i : BitVec 16)
  /-- SLTI (R97): Writes 1 to G(d) if G(a) is below the immediate as signed integers, else 0. -/
  | slti (d : BitVec 5) (a : BitVec 5) (i : BitVec 16)
  /-- SLTIU (R97): Writes 1 to G(d) if G(a) is below the sign-extended immediate as unsigned integers, else 0. -/
  | sltiu (d : BitVec 5) (a : BitVec 5) (i : BitVec 16)
  /-- SLLI (R98): Shifts G(a) left by the immediate amount n and writes the result to G(d). -/
  | slli (d : BitVec 5) (a : BitVec 5) (n : BitVec 6)
  /-- SRLI (R98): Shifts G(a) right by n, with zeros entering, and writes the result to G(d). -/
  | srli (d : BitVec 5) (a : BitVec 5) (n : BitVec 6)
  /-- SRAI (R98): Shifts G(a) right by n, with the sign entering, and writes the result to G(d). -/
  | srai (d : BitVec 5) (a : BitVec 5) (n : BitVec 6)
  /-- LUI (R99): Writes sext(imm16) × 65,536 to G(d). -/
  | lui (d : BitVec 5) (i : BitVec 16)
  /-- PCHI (R99): Writes PC + sext(imm16) × 65,536 to G(d). -/
  | pchi (d : BitVec 5) (i : BitVec 16)
  /-- MUL (R100): Writes the low 64 bits of the product of G(a) and G(b) to G(d). -/
  | mul (d : BitVec 5) (a : BitVec 5) (b : BitVec 5)
  /-- MULH (R100): Writes the high 64 bits of the signed product to G(d). -/
  | mulh (d : BitVec 5) (a : BitVec 5) (b : BitVec 5)
  /-- MULHU (R100): Writes the high 64 bits of the unsigned product to G(d). -/
  | mulhu (d : BitVec 5) (a : BitVec 5) (b : BitVec 5)
  /-- MULHSU (R100): Writes the high 64 bits of the product of signed G(a) and unsigned G(b) to G(d). -/
  | mulhsu (d : BitVec 5) (a : BitVec 5) (b : BitVec 5)
  /-- DIV (R101): Writes the signed quotient, truncated toward zero, to G(d), with the fixed results for the edge cases. -/
  | div (d : BitVec 5) (a : BitVec 5) (b : BitVec 5)
  /-- DIVU (R101): Writes the unsigned quotient to G(d), with the fixed result for a zero divisor. -/
  | divu (d : BitVec 5) (a : BitVec 5) (b : BitVec 5)
  /-- REM (R101): Writes the signed remainder, with the sign of G(a), to G(d). -/
  | rem (d : BitVec 5) (a : BitVec 5) (b : BitVec 5)
  /-- REMU (R101): Writes the unsigned remainder to G(d). -/
  | remu (d : BitVec 5) (a : BitVec 5) (b : BitVec 5)
  /-- FADD (R104): Computes the IEEE addition of type T once rounded under RM, and writes G(d) and the fcsr flags. -/
  | fadd (d : BitVec 5) (a : BitVec 5) (b : BitVec 5) (t : BitVec 3)
  /-- FSUB (R104): Computes the IEEE subtraction of type T and writes G(d) and the flags. -/
  | fsub (d : BitVec 5) (a : BitVec 5) (b : BitVec 5) (t : BitVec 3)
  /-- FMUL (R104): Computes the IEEE multiplication of type T and writes G(d) and the flags. -/
  | fmul (d : BitVec 5) (a : BitVec 5) (b : BitVec 5) (t : BitVec 3)
  /-- FMA (R104): Computes G(a) × G(b) + G(d) with one rounding and writes G(d) and the flags. -/
  | fma (d : BitVec 5) (a : BitVec 5) (b : BitVec 5) (t : BitVec 3)
  /-- FDIV (R104): Computes the IEEE division of type T and writes G(d) and the flags. -/
  | fdiv (d : BitVec 5) (a : BitVec 5) (b : BitVec 5) (t : BitVec 3)
  /-- FSQRT (R104): Computes the correctly rounded square root of type T and writes G(d) and the flags. -/
  | fsqrt (d : BitVec 5) (a : BitVec 5) (t : BitVec 3)
  /-- FMIN (R104): Writes minimumNumber of the two type-T operands to G(d). -/
  | fmin (d : BitVec 5) (a : BitVec 5) (b : BitVec 5) (t : BitVec 3)
  /-- FMAX (R104): Writes maximumNumber of the two type-T operands to G(d). -/
  | fmax (d : BitVec 5) (a : BitVec 5) (b : BitVec 5) (t : BitVec 3)
  /-- FCMP_EQ (R104): Writes 1 or 0 to G(d) by compareQuietEqual of the type-T operands. -/
  | fcmpEq (d : BitVec 5) (a : BitVec 5) (b : BitVec 5) (t : BitVec 3)
  /-- FCMP_LT (R104): Writes 1 or 0 to G(d) by compareSignalingLess of the type-T operands. -/
  | fcmpLt (d : BitVec 5) (a : BitVec 5) (b : BitVec 5) (t : BitVec 3)
  /-- FCMP_LE (R104): Writes 1 or 0 to G(d) by compareSignalingLessEqual of the type-T operands. -/
  | fcmpLe (d : BitVec 5) (a : BitVec 5) (b : BitVec 5) (t : BitVec 3)
  /-- FCVT (R106): Converts G(a) read as type S to type T with one rounding, writing G(d) and the flags. -/
  | fcvt (d : BitVec 5) (a : BitVec 5) (t : BitVec 3) (s : BitVec 3)
  /-- BEQ (R107): Branches to PC + disp16 × 4 when G(a) = G(b). -/
  | beq (a : BitVec 5) (b : BitVec 5) (i : BitVec 16)
  /-- BNE (R107): Branches when G(a) ≠ G(b). -/
  | bne (a : BitVec 5) (b : BitVec 5) (i : BitVec 16)
  /-- BLT (R107): Branches when G(a) < G(b), signed. -/
  | blt (a : BitVec 5) (b : BitVec 5) (i : BitVec 16)
  /-- BGE (R107): Branches when G(a) ≥ G(b), signed. -/
  | bge (a : BitVec 5) (b : BitVec 5) (i : BitVec 16)
  /-- BLTU (R107): Branches when G(a) < G(b), unsigned. -/
  | bltu (a : BitVec 5) (b : BitVec 5) (i : BitVec 16)
  /-- BGEU (R107): Branches when G(a) ≥ G(b), unsigned. -/
  | bgeu (a : BitVec 5) (b : BitVec 5) (i : BitVec 16)
  /-- JAL (R108): Writes PC + 4 to G(d) and jumps to PC + disp21 × 4. -/
  | jal (d : BitVec 5) (i : BitVec 21)
  /-- JALR (R109): Jumps to G(a) + disp, trapping MISALIGN on an unaligned target, and links PC + 4 into G(d). -/
  | jalr (d : BitVec 5) (a : BitVec 5) (i : BitVec 16)
  /-- LD (R112): Loads 1 to 8 bytes at G(a) + imm13 on the LS path, extended as w selects, into G(d). -/
  | ld (d : BitVec 5) (a : BitVec 5) (w : BitVec 3) (i : BitVec 13)
  /-- ST (R112): Stores the low bytes of G(s) at G(a) + imm13 on the LS path. -/
  | st (s : BitVec 5) (a : BitVec 5) (w : BitVec 3) (i : BitVec 13)
  /-- LDA (R113): Loads as an acquire at the encoded scope, ordering later LS-path accesses after it. -/
  | lda (d : BitVec 5) (a : BitVec 5) (w : BitVec 3) (c : BitVec 2) (i : BitVec 11)
  /-- STL (R113): Stores as a release at the encoded scope, ordering earlier LS-path accesses before it. -/
  | stl (s : BitVec 5) (a : BitVec 5) (w : BitVec 3) (c : BitVec 2) (i : BitVec 11)
  /-- LDC (R114): Consuming load at the home slice that takes one pip of a live pipped line or traps PIPOVER. -/
  | ldc (d : BitVec 5) (a : BitVec 5) (w : BitVec 3) (i : BitVec 13)
  /-- AMO_ADD (R117): Atomically adds G(b) to the word or doubleword at G(a) and returns the old value in G(d). -/
  | amoAdd (d : BitVec 5) (a : BitVec 5) (b : BitVec 5) (z : BitVec 1) (c : BitVec 2) (q : BitVec 1) (l : BitVec 1)
  /-- AMO_SWAP (R117): Atomically swaps G(b) into the location at G(a) and returns the old value. -/
  | amoSwap (d : BitVec 5) (a : BitVec 5) (b : BitVec 5) (z : BitVec 1) (c : BitVec 2) (q : BitVec 1) (l : BitVec 1)
  /-- AMO_AND (R117): Atomically ANDs G(b) into the location and returns the old value. -/
  | amoAnd (d : BitVec 5) (a : BitVec 5) (b : BitVec 5) (z : BitVec 1) (c : BitVec 2) (q : BitVec 1) (l : BitVec 1)
  /-- AMO_OR (R117): Atomically ORs G(b) into the location and returns the old value. -/
  | amoOr (d : BitVec 5) (a : BitVec 5) (b : BitVec 5) (z : BitVec 1) (c : BitVec 2) (q : BitVec 1) (l : BitVec 1)
  /-- AMO_XOR (R117): Atomically XORs G(b) into the location and returns the old value. -/
  | amoXor (d : BitVec 5) (a : BitVec 5) (b : BitVec 5) (z : BitVec 1) (c : BitVec 2) (q : BitVec 1) (l : BitVec 1)
  /-- AMO_MIN (R117): Atomically stores the signed minimum of the location and G(b) and returns the old value. -/
  | amoMin (d : BitVec 5) (a : BitVec 5) (b : BitVec 5) (z : BitVec 1) (c : BitVec 2) (q : BitVec 1) (l : BitVec 1)
  /-- AMO_MAX (R117): Atomically stores the signed maximum and returns the old value. -/
  | amoMax (d : BitVec 5) (a : BitVec 5) (b : BitVec 5) (z : BitVec 1) (c : BitVec 2) (q : BitVec 1) (l : BitVec 1)
  /-- AMO_MINU (R117): Atomically stores the unsigned minimum and returns the old value. -/
  | amoMinu (d : BitVec 5) (a : BitVec 5) (b : BitVec 5) (z : BitVec 1) (c : BitVec 2) (q : BitVec 1) (l : BitVec 1)
  /-- AMO_MAXU (R117): Atomically stores the unsigned maximum and returns the old value. -/
  | amoMaxu (d : BitVec 5) (a : BitVec 5) (b : BitVec 5) (z : BitVec 1) (c : BitVec 2) (q : BitVec 1) (l : BitVec 1)
  /-- AMO_CAS (R117): Atomically writes G(b) when the location equals G(d), and returns the old value in G(d). -/
  | amoCas (d : BitVec 5) (a : BitVec 5) (b : BitVec 5) (z : BitVec 1) (c : BitVec 2) (q : BitVec 1) (l : BitVec 1)
  /-- ECALL (R121): Traps ECALL with the code in tval and the next instruction as resume PC. -/
  | ecall (c : BitVec 16)
  /-- BRK (R121): Traps BRK with the code in tval and the next instruction as resume PC. -/
  | brk (c : BitVec 16)
  /-- TRET (R351): Checks the frame at tframe, clears VALID and resumes the thread and any recorded work from its progress record. -/
  | tret
  /-- SRD (R123): Reads a special register into G(d), after earlier writers of it have written. -/
  | srd (d : BitVec 5) (r : BitVec 11)
  /-- SWR (R123): Writes G(a) to a special register, honouring rw, w1c and r fields. -/
  | swr (a : BitVec 5) (r : BitVec 11)
  /-- SSET (R123): ORs G(a) into the rw fields of a special register. -/
  | sset (a : BitVec 5) (r : BitVec 11)
  /-- SCLR (R123): Clears the bits of G(a) in the rw and w1c fields of a special register. -/
  | sclr (a : BitVec 5) (r : BitVec 11)
  /-- WFI (R125): Holds the thread until a yield or cancel request, a wake, the time limit or another device reason. -/
  | wfi (n : BitVec 21)
  /-- ISYNC (R126): Discards instruction words fetched beyond it and refetches after it completes. -/
  | isync
  /-- FENCE (R332): Orders the thread's earlier LS-path accesses before later ones at the scope, in full, acquire or release form. -/
  | fence (c : BitVec 2) (k : BitVec 2)
  /-- FENCEX (R333): Orders completed accesses of the earlier paths before later accesses of the later paths at the scope. -/
  | fencex (e : BitVec 5) (l : BitVec 3) (c : BitVec 2)
  /-- WAITC (R334): Holds the thread until each class counter is at or below its field. -/
  | waitc (l : BitVec 4) (s : BitVec 4) (c : BitVec 4) (m : BitVec 4) (f : BitVec 4)
  /-- PAUSE (R128): Polling hint that may delay the thread's next issue by up to 64 cycles. -/
  | pause
  /-- VSET (R160): Sets vtype from G(b), vl to min(G(a), VLMAX), vstart to 0, and writes vl to G(d). -/
  | vset (d : BitVec 5) (a : BitVec 5) (b : BitVec 5)
  /-- VSETI (R160): As vset with vtype taken from the immediate EW and GF codes. -/
  | vseti (d : BitVec 5) (a : BitVec 5) (g : BitVec 2) (e : BitVec 2)
  /-- VFILL (R160): Sets the fill count of group d to min(G(a), VLMAX) elements. -/
  | vfill (d : BitVec 5) (a : BitVec 5)
  /-- VFILL_R (R160): Writes the fill count of group a in elements to G(d). -/
  | vfillR (d : BitVec 5) (a : BitVec 5)
  /-- VLD (R164): Loads consecutive active elements from G(a) into group d, or L6P groups when P = 1. -/
  | vld (d : BitVec 5) (a : BitVec 5) (m : BitVec 3) (p : BitVec 1)
  /-- VLDS (R164): Loads active elements at a signed byte stride G(b). -/
  | vlds (d : BitVec 5) (a : BitVec 5) (b : BitVec 5) (m : BitVec 3)
  /-- VLDX (R164): Loads active elements at G(a) plus indices from group b. -/
  | vldx (d : BitVec 5) (a : BitVec 5) (b : BitVec 5) (m : BitVec 3) (i : BitVec 2)
  /-- VLDFF (R166): First-fault load that shortens vl at the first faulting non-lowest active element instead of trapping. -/
  | vldff (d : BitVec 5) (a : BitVec 5) (m : BitVec 3) (p : BitVec 1)
  /-- VLDC (R167): Consuming vector load taking one pip per line visited, in ascending line order. -/
  | vldc (d : BitVec 5) (a : BitVec 5) (m : BitVec 3)
  /-- VLDB (R168): Reads elements from a typed-buffer handle region at offset G(a), without taking a pip. -/
  | vldb (d : BitVec 5) (a : BitVec 5) (h : BitVec 5) (m : BitVec 3) (p : BitVec 1) (j : BitVec 1)
  /-- VLDB_C (R168): Takes one pip of a FULL handle indivisibly and then reads its region. -/
  | vldbC (d : BitVec 5) (a : BitVec 5) (h : BitVec 5) (m : BitVec 3) (p : BitVec 1) (j : BitVec 1)
  /-- VLDM (R169): Loads ceil(vl/8) bytes into mask register md. -/
  | vldm (d : BitVec 5) (a : BitVec 5)
  /-- VST (R164): Stores active elements of group s consecutively from G(a); a queue-port vst pushes entries. -/
  | vst (s : BitVec 5) (a : BitVec 5) (m : BitVec 3) (p : BitVec 1)
  /-- VSTS (R164): Stores active elements at a signed byte stride G(b). -/
  | vsts (s : BitVec 5) (a : BitVec 5) (b : BitVec 5) (m : BitVec 3)
  /-- VSTX (R164): Stores active elements at G(a) plus indices from group b. -/
  | vstx (s : BitVec 5) (a : BitVec 5) (b : BitVec 5) (m : BitVec 3) (i : BitVec 2)
  /-- VSTB (R168): Writes elements into a typed-buffer handle region at offset G(a). -/
  | vstb (s : BitVec 5) (a : BitVec 5) (h : BitVec 5) (m : BitVec 3) (p : BitVec 1) (j : BitVec 1)
  /-- VSTM (R169): Stores ceil(vl/8) bytes from mask register ms. -/
  | vstm (s : BitVec 5) (a : BitVec 5)
  /-- VLDT (R172): Loads a 2-D or 4-D tensor tile through a descriptor, zeroing out-of-range elements and writing an in-range mask. -/
  | vldt (d : BitVec 5) (a : BitVec 5) (b : BitVec 5) (c : BitVec 5) (e : BitVec 5) (n2 : BitVec 2) (n1 : BitVec 2)
  /-- VADD (R173): Adds elements modulo 2^EW. -/
  | vadd (d : BitVec 5) (a : BitVec 5) (b : BitVec 5) (m : BitVec 3) (v : BitVec 1)
  /-- VSUB (R173): Subtracts elements modulo 2^EW. -/
  | vsub (d : BitVec 5) (a : BitVec 5) (b : BitVec 5) (m : BitVec 3) (v : BitVec 1)
  /-- VMUL (R173): Writes the low EW bits of each element product. -/
  | vmul (d : BitVec 5) (a : BitVec 5) (b : BitVec 5) (m : BitVec 3) (v : BitVec 1)
  /-- VMULH (R173): Writes the high EW bits of each signed element product. -/
  | vmulh (d : BitVec 5) (a : BitVec 5) (b : BitVec 5) (m : BitVec 3) (v : BitVec 1)
  /-- VDIV (R173): Writes each signed element quotient, with the fixed edge results. -/
  | vdiv (d : BitVec 5) (a : BitVec 5) (b : BitVec 5) (m : BitVec 3) (v : BitVec 1)
  /-- VREM (R173): Writes each signed element remainder. -/
  | vrem (d : BitVec 5) (a : BitVec 5) (b : BitVec 5) (m : BitVec 3) (v : BitVec 1)
  /-- VMIN (R173): Writes each signed element minimum. -/
  | vmin (d : BitVec 5) (a : BitVec 5) (b : BitVec 5) (m : BitVec 3) (v : BitVec 1)
  /-- VMAX (R173): Writes each signed element maximum. -/
  | vmax (d : BitVec 5) (a : BitVec 5) (b : BitVec 5) (m : BitVec 3) (v : BitVec 1)
  /-- VMINU (R173): Writes each unsigned element minimum. -/
  | vminu (d : BitVec 5) (a : BitVec 5) (b : BitVec 5) (m : BitVec 3) (v : BitVec 1)
  /-- VMAXU (R173): Writes each unsigned element maximum. -/
  | vmaxu (d : BitVec 5) (a : BitVec 5) (b : BitVec 5) (m : BitVec 3) (v : BitVec 1)
  /-- VAND (R173): Writes each element AND. -/
  | vand (d : BitVec 5) (a : BitVec 5) (b : BitVec 5) (m : BitVec 3) (v : BitVec 1)
  /-- VOR (R173): Writes each element OR. -/
  | vor (d : BitVec 5) (a : BitVec 5) (b : BitVec 5) (m : BitVec 3) (v : BitVec 1)
  /-- VXOR (R173): Writes each element XOR. -/
  | vxor (d : BitVec 5) (a : BitVec 5) (b : BitVec 5) (m : BitVec 3) (v : BitVec 1)
  /-- VSLL (R173): Shifts each element left. -/
  | vsll (d : BitVec 5) (a : BitVec 5) (b : BitVec 5) (m : BitVec 3) (v : BitVec 1)
  /-- VSRL (R173): Shifts each element right with zeros entering. -/
  | vsrl (d : BitVec 5) (a : BitVec 5) (b : BitVec 5) (m : BitVec 3) (v : BitVec 1)
  /-- VSRA (R173): Shifts each element right with the sign entering. -/
  | vsra (d : BitVec 5) (a : BitVec 5) (b : BitVec 5) (m : BitVec 3) (v : BitVec 1)
  /-- VFADD (R174): Adds floating-point elements with one rounding under RM. -/
  | vfadd (d : BitVec 5) (a : BitVec 5) (b : BitVec 5) (m : BitVec 3) (v : BitVec 1)
  /-- VFSUB (R174): Subtracts floating-point elements. -/
  | vfsub (d : BitVec 5) (a : BitVec 5) (b : BitVec 5) (m : BitVec 3) (v : BitVec 1)
  /-- VFMUL (R174): Multiplies floating-point elements. -/
  | vfmul (d : BitVec 5) (a : BitVec 5) (b : BitVec 5) (m : BitVec 3) (v : BitVec 1)
  /-- VFMA (R174): Computes x × y + z per element with one rounding. -/
  | vfma (d : BitVec 5) (a : BitVec 5) (b : BitVec 5) (m : BitVec 3) (v : BitVec 1)
  /-- VFNMA (R174): Computes z − x × y per element with one rounding. -/
  | vfnma (d : BitVec 5) (a : BitVec 5) (b : BitVec 5) (m : BitVec 3) (v : BitVec 1)
  /-- VFDIV (R174): Divides floating-point elements. -/
  | vfdiv (d : BitVec 5) (a : BitVec 5) (b : BitVec 5) (m : BitVec 3) (v : BitVec 1)
  /-- VFSQRT (R174): Computes the correctly rounded square root of each element. -/
  | vfsqrt (d : BitVec 5) (a : BitVec 5) (m : BitVec 3)
  /-- VFMIN (R174): Writes minimumNumber of each element pair. -/
  | vfmin (d : BitVec 5) (a : BitVec 5) (b : BitVec 5) (m : BitVec 3) (v : BitVec 1)
  /-- VFMAX (R174): Writes maximumNumber of each element pair. -/
  | vfmax (d : BitVec 5) (a : BitVec 5) (b : BitVec 5) (m : BitVec 3) (v : BitVec 1)
  /-- VFEXP2 (R145): Computes 2^x per element, correctly rounded, with the fixed special cases. -/
  | vfexp2 (d : BitVec 5) (a : BitVec 5) (m : BitVec 3)
  /-- VCMP (R175): Writes the integer comparison cc of each active element pair into mask md. -/
  | vcmp (d : BitVec 5) (a : BitVec 5) (b : BitVec 5) (m : BitVec 3) (v : BitVec 1) (c : BitVec 4)
  /-- VFCMP (R176): Writes the floating-point comparison cc of each active element pair into mask md. -/
  | vfcmp (d : BitVec 5) (a : BitVec 5) (b : BitVec 5) (m : BitVec 3) (v : BitVec 1) (c : BitVec 4)
  /-- MAND (R175): Writes ma AND mb into md for bits below vl. -/
  | mand (d : BitVec 5) (a : BitVec 5) (b : BitVec 5)
  /-- MOR (R175): Writes ma OR mb into md for bits below vl. -/
  | mor (d : BitVec 5) (a : BitVec 5) (b : BitVec 5)
  /-- MXOR (R175): Writes ma XOR mb into md for bits below vl. -/
  | mxor (d : BitVec 5) (a : BitVec 5) (b : BitVec 5)
  /-- MANDN (R175): Writes ma AND NOT mb into md for bits below vl. -/
  | mandn (d : BitVec 5) (a : BitVec 5) (b : BitVec 5)
  /-- MPOP (R177): Writes to G(d) the count of set and governed-active mask bits below vl. -/
  | mpop (d : BitVec 5) (a : BitVec 5) (m : BitVec 3)
  /-- MFIRST (R177): Writes to G(d) the lowest such set bit index, or all ones. -/
  | mfirst (d : BitVec 5) (a : BitVec 5) (m : BitVec 3)
  /-- VSLIDEUP (R179): Slides group a up by G(b) elements into group d. -/
  | vslideup (d : BitVec 5) (a : BitVec 5) (b : BitVec 5) (m : BitVec 3)
  /-- VSLIDEDN (R179): Slides group a down by G(b) elements into group d. -/
  | vslidedn (d : BitVec 5) (a : BitVec 5) (b : BitVec 5) (m : BitVec 3)
  /-- VPERM (R179): Gathers elements of group a by indices in group b. -/
  | vperm (d : BitVec 5) (a : BitVec 5) (b : BitVec 5) (m : BitVec 3)
  /-- VCOMPRESS (R179): Packs the active elements of group a into group d and writes their count to G(b). -/
  | vcompress (d : BitVec 5) (a : BitVec 5) (b : BitVec 5) (m : BitVec 3)
  /-- VEXPAND (R179): Spreads consecutive elements of group a over the active positions of group d. -/
  | vexpand (d : BitVec 5) (a : BitVec 5) (m : BitVec 3)
  /-- VIOTA (R179): Writes to each active element the count of set mask bits below it. -/
  | viota (d : BitVec 5) (a : BitVec 5) (m : BitVec 3)
  /-- VMERGE (R179): Selects per element between group a and the second operand by the selector mask. -/
  | vmerge (d : BitVec 5) (a : BitVec 5) (b : BitVec 5) (m : BitVec 3) (v : BitVec 1)
  /-- VBCAST (R179): Writes G(a) into every active element of group d. -/
  | vbcast (d : BitVec 5) (a : BitVec 5) (m : BitVec 3)
  /-- VEXT (R179): Writes element G(b) of group a, zero-extended, to G(d). -/
  | vext (d : BitVec 5) (a : BitVec 5) (b : BitVec 5)
  /-- VINS (R179): Writes G(a) into element G(b) of group d. -/
  | vins (d : BitVec 5) (a : BitVec 5) (b : BitVec 5)
  /-- VREDSUM (R180): Writes the integer sum of the active elements and the seed to element 0 of register d. -/
  | vredsum (d : BitVec 5) (a : BitVec 5) (b : BitVec 5) (m : BitVec 3)
  /-- VREDMIN (R180): Writes the signed minimum of the active elements and the seed. -/
  | vredmin (d : BitVec 5) (a : BitVec 5) (b : BitVec 5) (m : BitVec 3)
  /-- VREDMAX (R180): Writes the signed maximum of the active elements and the seed. -/
  | vredmax (d : BitVec 5) (a : BitVec 5) (b : BitVec 5) (m : BitVec 3)
  /-- VFREDSUM (R146): Sums the active elements by the fixed pairwise tree and adds the seed last. -/
  | vfredsum (d : BitVec 5) (a : BitVec 5) (b : BitVec 5) (m : BitVec 3)
  /-- VFREDMIN (R146): Takes minimumNumber of the active elements by the tree and the seed. -/
  | vfredmin (d : BitVec 5) (a : BitVec 5) (b : BitVec 5) (m : BitVec 3)
  /-- VFREDMAX (R146): Takes maximumNumber of the active elements by the tree and the seed. -/
  | vfredmax (d : BitVec 5) (a : BitVec 5) (b : BitVec 5) (m : BitVec 3)
  /-- VCVT (R181): Converts each active element from format S to format T, with scale G(b) for L6. -/
  | vcvt (d : BitVec 5) (a : BitVec 5) (b : BitVec 5) (m : BitVec 3) (t : BitVec 4) (s : BitVec 4)
  /-- LDS (R267): Reads a weight tile from a W handle and latches it into the shadow plane. -/
  | lds (f : BitVec 5) (a : BitVec 5) (b : BitVec 5) (h : BitVec 6)
  /-- LDS_C (R267): As lds, taking one pip of the W handle first. -/
  | ldsC (f : BitVec 5) (a : BitVec 5) (b : BitVec 5) (h : BitVec 6)
  /-- PSWAP (R270): Waits for earlier latches, advances the plane generation and exchanges the planes. -/
  | pswap (d : BitVec 5)
  /-- MMAV_L6 (R273): Streams GF L6 rows from a register group past the planes into C rows. -/
  | mmavL6 (a : BitVec 5) (b : BitVec 5) (h : BitVec 6)
  /-- MMAV_I8 (R273): Streams GF INT8 rows from a register group into C rows. -/
  | mmavI8 (a : BitVec 5) (b : BitVec 5) (h : BitVec 6)
  /-- MMAV_BF16 (R273): Streams GF BF16 rows from a register group into C rows. -/
  | mmavBf16 (a : BitVec 5) (b : BitVec 5) (h : BitVec 6)
  /-- MZERO (R276): Writes +0 into every entry of the named C rows. -/
  | mzero (a : BitVec 5) (b : BitVec 5) (h : BitVec 6)
  /-- VOUTER (R278): Accumulates the outer product of register a and the columns of register b into group d on the lanes. -/
  | vouter (d : BitVec 5) (a : BitVec 5) (b : BitVec 5)
  /-- MMAB (R274): Streams R activation rows from an A handle through the sequencer into C rows. -/
  | mmab (d : BitVec 5) (a : BitVec 5) (b : BitVec 5) (c : BitVec 5) (e : BitVec 5) (con : BitVec 1) (fs : BitVec 2) (ha : BitVec 6) (hc : BitVec 6)
  /-- LDSL (R269): Source form: reads a tile, latches it if routed, and sends a ring tile around the die's expert ring. -/
  | ldsl (d : BitVec 5) (a : BitVec 5) (b : BitVec 5) (c : BitVec 5) (e : BitVec 5) (f : BitVec 5) (tag : BitVec 8) (con : BitVec 1) (h : BitVec 6)
  /-- LDSL_R (R269): Receive form: waits for a matching ring tile and latches it when the routing mask selects it. -/
  | ldslR (d : BitVec 5) (c : BitVec 5) (tag : BitVec 8)
  /-- FINIT (R282): Sets a factor tile to v times the identity. -/
  | finit (a : BitVec 5) (b : BitVec 5) (h : BitVec 6)
  /-- FSCALE (R283): Scales every upper entry of a factor tile. -/
  | fscale (a : BitVec 5) (b : BitVec 5) (h : BitVec 6)
  /-- FUPD (R284): Absorbs x into a Cholesky factor tile by rotations. -/
  | fupd (a : BitVec 5) (b : BitVec 5) (h : BitVec 6)
  /-- FDND (R285): Removes x from a factor tile atomically, trapping FINDEF or FNUM on failure. -/
  | fdnd (a : BitVec 5) (b : BitVec 5) (h : BitVec 6)
  /-- FDND_S (R285): As fdnd but reports failure in G(d) instead of trapping. -/
  | fdndS (d : BitVec 5) (a : BitVec 5) (b : BitVec 5) (h : BitVec 6)
  /-- FSOLT (R286): Solves F-transpose y = z in place in group d. -/
  | fsolt (d : BitVec 5) (a : BitVec 5) (h : BitVec 6)
  /-- FSOLN (R286): Solves F y = z in place in group d. -/
  | fsoln (d : BitVec 5) (a : BitVec 5) (h : BitVec 6)
  /-- FDIAG (R287): Writes the factor tile's diagonal into group d. -/
  | fdiag (d : BitVec 5) (a : BitVec 5) (h : BitVec 6)
  /-- FX (R252): Invokes the slot's position entry with fields a, b and d, loading the image if needed. -/
  | fx (s : BitVec 4) (d : BitVec 5) (a : BitVec 5) (b : BitVec 5) (m : BitVec 3)
  /-- FXL (R252): Invokes the slot's position entry with fields a to f. -/
  | fxl (d : BitVec 5) (a : BitVec 5) (b : BitVec 5) (c : BitVec 5) (e : BitVec 5) (f : BitVec 5) (m : BitVec 3) (slot : BitVec 4)
  /-- FXLOAD (R254): Loads the image at G(a) as the resident position and reports the check result. -/
  | fxload (d : BitVec 5) (a : BitVec 5)
  /-- FXBIND (R255): Binds a slot to an image address and entry. -/
  | fxbind (a : BitVec 5) (e : BitVec 4) (s : BitVec 4)
  /-- FXUNBIND (R255): Makes a slot unbound. -/
  | fxunbind (s : BitVec 4)
  /-- FXSTAT (R256): Writes the slot and board status word to G(d). -/
  | fxstat (d : BitVec 5) (s : BitVec 4)
  /-- FXDROP (R257): Discards a held invocation and empties the spill queue. -/
  | fxdrop
  /-- FXSAVE (R258): Writes the board's save image to G(a) and leaves no resident position. -/
  | fxsave (a : BitVec 5)
  /-- FXREST (R258): Restores a save image, reinstating any held invocation. -/
  | fxrest (a : BitVec 5)
  /-- COPY (R313): Moves a handle to FILLING and starts a transfer into its region. -/
  | copy (d : BitVec 5) (a : BitVec 5) (b : BitVec 5) (h : BitVec 6)
  /-- DRAIN (R315): Sets a handle DRAINING and copies its region out, restoring its state at completion. -/
  | drain (d : BitVec 5) (a : BitVec 5) (b : BitVec 5) (h : BitVec 6)
  /-- DRAIN_R (R315): As drain, leaving the handle FREE at completion. -/
  | drainR (d : BitVec 5) (a : BitVec 5) (b : BitVec 5) (h : BitVec 6)
  /-- HWAIT (R316): Waits until a handle is FREE, FULL or SPENT and returns its state. -/
  | hwait (d : BitVec 5) (h : BitVec 6)
  /-- HREL (R317): Frees a handle and returns its residue of pips. -/
  | hrel (d : BitVec 5) (h : BitVec 6)
  /-- HREL_P (R317): Makes a handle FULL with G(b) pips. -/
  | hrelP (b : BitVec 5) (h : BitVec 6)
  /-- HSTAT (R316): Writes the handle status word to G(d) without waiting. -/
  | hstat (d : BitVec 5) (h : BitVec 6)
  /-- SINIT (R318): Indivisibly resets a sync word's count and target and returns the old word. -/
  | sinit (d : BitVec 5) (a : BitVec 5) (b : BitVec 5)
  /-- SWAIT (R318): Waits until a sync word's generation differs or it overshoots, then acquires. -/
  | swait (d : BitVec 5) (a : BitVec 5) (b : BitVec 5)
  /-- PFILL (R319): Reserves L pipped lines at their home slices and issues their fill. -/
  | pfill (d : BitVec 5) (a : BitVec 5) (b : BitVec 5)
  /-- PCLOSE (R320): Closes a pip group and returns its residue. -/
  | pclose (d : BitVec 5) (g : BitVec 4)
  /-- COPYL (R314): Copies between memory and remote tiles, with optional sync-word increments. -/
  | copyl (a : BitVec 5) (b : BitVec 5) (c : BitVec 5) (e : BitVec 5) (sc : BitVec 2)
  /-- ALLOC (R323): Takes a block of the class from the die's bank into G(d), or 0 if none. -/
  | alloc (d : BitVec 5) (c : BitVec 4)
  /-- FREE (R324): Returns a block to its class in the bank after a release. -/
  | free (a : BitVec 5) (c : BitVec 4)
  /-- TBEGIN (R342): Opens a transaction, or aborts an open one as nested. -/
  | tbegin (d : BitVec 5)
  /-- TEND (R342): Commits the transaction's write set at one moment. -/
  | tend
  /-- TABORT (R342): Aborts an open transaction with a code. -/
  | tabort (c : BitVec 6)
  /-- TSTAT (R344): Writes tstat to G(d). -/
  | tstat (d : BitVec 5)
  /-- LAUNCH (R34): Releases, accepts the launch record at G(a) into a free slot and returns its identifier. -/
  | launch (d : BitVec 5) (a : BitVec 5)
  /-- QPUSH (R35): Releases and pushes (G(a), G(b)) to output queue q, waiting while it is full. -/
  | qpush (a : BitVec 5) (b : BitVec 5) (q : BitVec 5)
  /-- QPOP (R36): Pops the reserved or head input entry, waiting while the queue is empty and not drained. -/
  | qpop (d : BitVec 5) (a : BitVec 5) (b : BitVec 5)
  /-- QPOP_NW (R36): Pops an input entry or returns status 2 at once when none is there. -/
  | qpopNw (d : BitVec 5) (a : BitVec 5) (b : BitVec 5)
  /-- QCLOSE (R37): Closes output queue q at once. -/
  | qclose (q : BitVec 5)
  /-- RETIRE (R38): Waits for the class counters, releases on every path, closes pip groups and ends the instance. -/
  | retire
  /-- YIELD (R39): Retires when yreq or cancel bit 0 is set, otherwise does nothing. -/
  | yield
  /-- CANCEL (R40): Returns an object's status and cancels every launch of it that is not final. -/
  | cancel (d : BitVec 5) (a : BitVec 5) (l : BitVec 2)
  /-- CWAIT (R41): Waits until the named object is final or finished and returns its status. -/
  | cwait (d : BitVec 5) (a : BitVec 5) (l : BitVec 2)
  /-- CWAIT_NW (R41): Returns the named object's current status at once. -/
  | cwaitNw (d : BitVec 5) (a : BitVec 5) (l : BitVec 2)
  /-- LAUNCH_RUN (R15): A HELD launch enters RUNNING once its predecessors, phase and queue SRAM allow. -/
  | launchRun (slot : BitVec 10)
  /-- STAGE_GRANT (R23): The die's scheduler grants one instance to a free context and sets its state. -/
  | stageGrant (die : BitVec 2)
  /-- PRIORITY_AGING (R24): Each 4,096 cycles of eligibility without a grant raise a stage's effective priority by one. -/
  | priorityAging (slot : BitVec 10) (stage : BitVec 4)
  /-- PLACEMENT_TIMEOUT (R25): After 2,000 cycles without a grant on its placement die a stage is offered to every die. -/
  | placementTimeout (slot : BitVec 10) (stage : BitVec 4)
  /-- SPILL_WRITE (R29): An acknowledged spill write moves an entry out of die SRAM, or faults the queue with QFAULT. -/
  | spillWrite (slot : BitVec 10) (q : BitVec 5)
  /-- SPILL_READ (R29): A completed spill read brings an entry on chip, or faults the queue. -/
  | spillRead (slot : BitVec 10) (q : BitVec 5)
  /-- QUEUE_PORT_PUSH (R21): A queue-port store held by back-pressure is pushed when the queue has room. -/
  | queuePortPush (slot : BitVec 10) (q : BitVec 5)
  /-- QUEUE_PORT_TIMEOUT (R21): After 10,000 ticks of back-pressure the entry is discarded, counted and QFULL sent. -/
  | queuePortTimeout (slot : BitVec 10) (q : BitVec 5)
  /-- CANCEL_TIMEOUT (R40): An instance still running 100,000 ticks after a cancel gets a PREEMPT request with reason 2. -/
  | cancelTimeout (core : BitVec 6) (cx : Cx)
  /-- WFI_TIMEOUT (R125): The wfi time limit of n × 1,024 ticks expires and the thread continues. -/
  | wfiTimeout (core : BitVec 6) (cx : Cx)
  /-- ROW_STEP (R271): An activation row meets the plane with its tag and updates 64 C entries indivisibly. -/
  | rowStep (core : BitVec 6) (cx : Cx)
  /-- RING_TILE_ARRIVAL (R269): A ring tile reaches a core's ring stop, is latched by a matching receive or moves on, or is dropped at its source. -/
  | ringTileArrival (core : BitVec 6)
  /-- RING_TIMEOUT (R269): A ring tile unmatched for 100,000 ticks moves on unlatched and sends a RING notice. -/
  | ringTimeout (core : BitVec 6)
  /-- CONFIGURATION_PACKET (R226): A 64-byte configuration packet arrives and configures or arms its part of the board. -/
  | configurationPacket (core : BitVec 6) (cx : Cx)
  /-- FABRIC_CYCLE (R190): In a fabric cycle tokens depart to ready skid buffers and eligible pieces fire. -/
  | fabricCycle (core : BitVec 6)
  /-- AGEN_ACCESS_PERFORMED (R211): An AGEN access is performed or returns, or its fault diverts the element to the spill queue. -/
  | agenAccessPerformed (core : BitVec 6) (cx : Cx) (agen : BitVec 3)
  /-- FABSTALL (R218): The stall counter reaches 65,536 and the invocation stops with FABSTALL. -/
  | fabstall (core : BitVec 6) (cx : Cx)
  /-- MARKER_CUT_TIMEOUT (R246): After 16 fabric cycles without a firing, every piece not yet forwarding forwards its marker. -/
  | markerCutTimeout (core : BitVec 6) (cx : Cx)
  /-- INVOCATION_COMPLETE (R236): A fabric invocation completes, setting outputs, fills, vl, vstart and fcsr flags. -/
  | invocationComplete (core : BitVec 6) (cx : Cx)
  /-- RELATCH_TOKEN (R242): A re-latch token comes out of an AGEN once earlier accesses are performed. -/
  | relatchToken (core : BitVec 6) (cx : Cx) (agen : BitVec 3)
  /-- ASYNCHRONOUS_TRAP (R347): A fabric stop or declined copy is taken as a trap at the thread's next boundary. -/
  | asynchronousTrap (core : BitVec 6) (cx : Cx)
  /-- PREEMPT (R359): A requested PREEMPT trap is taken at the thread's next stop point. -/
  | preempt (core : BitVec 6) (cx : Cx)
  /-- READ_MISS (R293): A read miss at the home slice adds the reader to the directory entry. -/
  | readMiss (core : BitVec 6) (pa : BitVec 52)
  /-- OWNERSHIP_REQUEST (R293): A write or atomic sends invalidations to the cores the entry names. -/
  | ownershipRequest (core : BitVec 6) (pa : BitVec 52) (data : List (BitVec 8))
  /-- INVALIDATION_ACK (R293): An acknowledgement arrives; the last one lets the write be performed and the entry become owned. -/
  | invalidationAck (core : BitVec 6) (pa : BitVec 52)
  /-- EVICTION_NOTICE (R293): An L1's clean-eviction notice removes its pointer, or is ignored or discarded. -/
  | evictionNotice (core : BitVec 6) (pa : BitVec 52)
  /-- L1_WRITE_BACK (R293): An evicted modified L1 copy is written back and the entry becomes uncached. -/
  | l1WriteBack (core : BitVec 6) (pa : BitVec 52)
  /-- TRANSACTION_CONFLICT_TIMEOUT (R343): A non-transactional access waiting 2,000 cycles aborts the transaction and proceeds. -/
  | transactionConflictTimeout (core : BitVec 6) (cx : Cx)
  /-- ECC_UNCORRECTABLE_ERROR (R386): An uncorrectable soft error poisons its 32-byte granule. -/
  | eccUncorrectableError (pa : BitVec 52)
  /-- PIP_FILL_ARRIVAL (R301): A pending pipped line's fill data arrives and the line becomes live. -/
  | pipFillArrival (core : BitVec 6) (cx : Cx) (id : Nat)
  /-- COPY_FAULT (R309): A copy block meets a fault; lower blocks are performed and a COPY notice is sent. -/
  | copyFault (core : BitVec 6) (cx : Cx) (id : Nat)
  /-- COPY_COMPLETE (R310): A copy completes, moving its handle and lowering the copy counter. -/
  | copyComplete (core : BitVec 6) (cx : Cx) (id : Nat)
  /-- SYNC_WORD_INCREMENT (R306): An increment for bytes delivered updates a sync word's count and generation indivisibly. -/
  | syncWordIncrement (core : BitVec 6) (cx : Cx) (id : Nat)
  /-- BANK_REFILL (R321): The bank moves up to 128 entries from a memory list onto chip. -/
  | bankRefill (die : BitVec 2) (ten : BitVec 5) (cls : BitVec 4)
  /-- BANK_SPILL (R321): The bank moves 128 entries from a full on-chip list to its memory list. -/
  | bankSpill (die : BitVec 2) (ten : BitVec 5) (cls : BitVec 4)
  /-- RESUME (R351): Executive command 0x01 resumes a suspended thread from its frame. -/
  | resume (core : BitVec 6) (cx : Cx)
  /-- REDIRECT (R353): Command 0x02 sets the PC and runs the thread, leaving the frame. -/
  | redirect (core : BitVec 6) (cx : Cx) (arg0 : BitVec 64)
  /-- SAVE (R361): Command 0x03 stops transfers, saves the board and the context image, and frees the context. -/
  | save (core : BitVec 6) (cx : Cx) (arg0 : BitVec 64) (arg1 : BitVec 64)
  /-- RESTORE (R362): Command 0x04 reloads a context image, reissues copies and restores the board. -/
  | restore (core : BitVec 6) (cx : Cx) (arg0 : BitVec 64)
  /-- END (R363): Command 0x05 ends a suspended instance, discarding its transfers and held invocation. -/
  | endInstance (core : BitVec 6) (cx : Cx)
  /-- WAKE (R125): Command 0x06 ends a context's wfi. -/
  | wake (core : BitVec 6) (cx : Cx)
  /-- AGEN_RESUME (R240): Command 0x07 reissues an AGEN's spilled elements under the current translation. -/
  | agenResume (core : BitVec 6) (cx : Cx) (arg0 : BitVec 64)
  /-- AGEN_DECLINE (R240): Command 0x08 stops the invocation with the AGEN's oldest spilled cause. -/
  | agenDecline (core : BitVec 6) (cx : Cx) (arg0 : BitVec 64)
  /-- COPY_RESUME (R309): Command 0x09 continues a faulted copy from its bytes done. -/
  | copyResume (core : BitVec 6) (cx : Cx) (arg0 : BitVec 64)
  /-- COPY_DECLINE (R309): Command 0x0A restores the copy's handle and makes the thread trap at its next boundary. -/
  | copyDecline (core : BitVec 6) (cx : Cx) (arg0 : BitVec 64)
  /-- STOP (R360): Command 0x0B requests PREEMPT and completes once the thread's earlier work has drained. -/
  | stop (core : BitVec 6) (cx : Cx) (arg0 : BitVec 64)
  /-- INVALIDATE (R358): Command 0x10 removes cached translations of a range and optionally sends re-latch tokens. -/
  | invalidate (core : BitVec 6) (arg0 : BitVec 64) (arg1 : BitVec 64) (arg2 : BitVec 64) (arg3 : BitVec 64)
  /-- SET_TFRAME (R348): Command 0x11 sets a context's tframe. -/
  | setTframe (core : BitVec 6) (cx : Cx) (arg0 : BitVec 64)
  /-- WRITE_HANDLE_ENTRY (R379): Command 0x12 writes a handle's region and tenant and leaves it FREE. -/
  | writeHandleEntry (core : BitVec 6) (arg0 : BitVec 64) (arg1 : BitVec 64)
  /-- WRITE_RESIDENT_ENTRY (R355): Command 0x13 writes an entry of the vector resident table. -/
  | writeResidentEntry (core : BitVec 6) (cx : Cx) (arg0 : BitVec 64) (arg1 : BitVec 64)
  /-- SET_PIPQ_QUOTA (R304): Command 0x14 sets the context's pipped-line quota. -/
  | setPipqQuota (core : BitVec 6) (cx : Cx) (arg0 : BitVec 64)
  /-- REPLY (R380): Command 0x15 delivers r reply tokens to the board's svc source. -/
  | reply (core : BitVec 6) (cx : Cx) (arg0 : BitVec 64)
  /-- READ_DIRECTORY_ENTRY (R292): Command 0x16 returns the directory entry of a line in ARG1. -/
  | readDirectoryEntry (core : BitVec 6) (arg0 : BitVec 64)
  /-- ADVANCE_NOTICE_HEAD (R352): Command 0x17 advances the notice ring's head count, freeing entries for waiting agents. -/
  | advanceNoticeHead (core : BitVec 6) (arg0 : BitVec 64)
  /-- CLEAR_ORPHAN_MARKS (R375): Command 0x18 clears the orphan marks of a port. -/
  | clearOrphanMarks (core : BitVec 6) (arg0 : BitVec 64)
  /-- SET_PAGE_TABLE_ROOT (R356): Command 0x19 sets a tenant's page-table root. -/
  | setPageTableRoot (core : BitVec 6) (arg0 : BitVec 64) (arg2 : BitVec 64)
  /-- SET_TVEC (R352): Command 0x1A sets the core's notice ring address and resets its counts. -/
  | setTvec (core : BitVec 6) (arg0 : BitVec 64)
  /-- SET_OCCL_LIMITS (R294): Command 0x1B sets the occl limit fields of a context. -/
  | setOcclLimits (core : BitVec 6) (cx : Cx) (arg0 : BitVec 64)
  /-- SET_BIAS_TABLE_BASE (R371): Command 0x1C sets the bias table base. -/
  | setBiasTableBase (core : BitVec 6) (arg0 : BitVec 64)
  /-- SET_ORPHAN_AREA (R375): Command 0x1D sets the orphan area and its capacity. -/
  | setOrphanArea (core : BitVec 6) (arg0 : BitVec 64) (arg1 : BitVec 64)
  /-- ASSIGN_JOB (R17): Command 0x1E assigns a job to a tenant and resets its current phase. -/
  | assignJob (core : BitVec 6) (arg0 : BitVec 64) (arg2 : BitVec 64)
  /-- RESUME_QUEUE (R30): Command 0x1F returns a FAULTED queue to OPEN and retries the faulted transfer. -/
  | resumeQueue (core : BitVec 6) (arg0 : BitVec 64) (arg1 : BitVec 64)
  /-- COMPL (R377): A read of COMPL waits until the last command and its context's work are complete and returns STAT. -/
  | compl (core : BitVec 6)
  /-- LAUNCH_REGISTER (R369): A host write to LAUNCH submits a launch record homed on that die. -/
  | launchRegister (fn : BitVec 5) (port : BitVec 1) (die : BitVec 2) (addr : BitVec 64)
  /-- LRES (R369): A read of LRES waits for the oldest launch result and pops it. -/
  | lres (fn : BitVec 5) (port : BitVec 1) (die : BitVec 2)
  /-- SEM (R370): A write to SEM acquires or releases management ownership or clears ERR. -/
  | sem (port : BitVec 1) (val : BitVec 64)
  /-- FLIP (R373): A write to FLIP queues a bias flip of one page. -/
  | flip (port : BitVec 1) (val : BitVec 64)
  /-- FLIP_DEVICE_TO_HOST (R372): A queued flip to host bias completes its ordered steps and changes the bias entry. -/
  | flipDeviceToHost (page : BitVec 40)
  /-- FLIP_HOST_TO_DEVICE (R372): A queued flip to device bias snoops the host's lines and changes the bias entry. -/
  | flipHostToDevice (page : BitVec 40)
  /-- HOST_QUEUE_PORT_WRITE (R368): A host write to the BAR2 window pushes entries or closes a queue, or is discarded and logged. -/
  | hostQueuePortWrite (fn : PortFn) (off : BitVec 26) (data : List (BitVec 8))
  /-- HX_WRITE (R374): An inbound host or peer write is performed at the line's home slice. -/
  | hxWrite (agent : HxAgent) (pa : BitVec 52) (data : List (BitVec 8))
  /-- HX_READ (R371): An inbound host or peer non-caching read is performed at the home slice. -/
  | hxRead (agent : HxAgent) (pa : BitVec 52) (n : BitVec 8)
  /-- HOST_CACHE_REQUEST (R371): A host request to cache a line is served, starting a flip when AUTO is set. -/
  | hostCacheRequest (port : BitVec 1) (pa : BitVec 52) (own : Bool)
  /-- BACK_INVALIDATION_RESPONSE (R371): The host's response to a snoop lets the waiting device access be performed. -/
  | backInvalidationResponse (pa : BitVec 52) (data : List (BitVec 8))
  /-- LINK_DOWN (R375): A port's link leaves the active state and its host-homed lines are dropped or orphaned. -/
  | linkDown (agent : HxAgent)
  /-- FW_OPEN_SLOT (R383): FWCTL operation 1 opens a firmware slot for writing. -/
  | fwOpenSlot (port : BitVec 1) (slot : BitVec 1)
  /-- FW_COMMIT (R383): FWCTL operation 2 commits and checks the written firmware image. -/
  | fwCommit (port : BitVec 1) (slot : BitVec 1) (key body sig : List (BitVec 8)) (version : Nat)
  /-- FW_ABORT (R383): FWCTL operation 3 abandons the firmware update. -/
  | fwAbort (port : BitVec 1) (slot : BitVec 1)
  /-- NONCE (R384): A write of NONCE waits for any running quote and then stores the nonce. -/
  | nonce (port : BitVec 1) (val : BitVec 512)
  /-- QUOTE (R384): A write to QUOTE starts a signed quote of the measurements. -/
  | quote (port : BitVec 1)
  /-- QUOTE_COMPLETE (R384): A quote finishes, placing its signature in QBUF and setting the done bit. -/
  | quoteComplete
  /-- REGISTER_WRITE (R4): A write to a register without behaviour of its own stores its writable fields. -/
  | registerWrite (port : BitVec 1) (off : BitVec 16) (val : BitVec 64)
  /-- POWER_ON_RESET (R381): Power-on or module reset runs the reset order from clock lock to accepting launches. -/
  | powerOnReset
  /-- FUNCTION_LEVEL_RESET (R382): A function-level reset of a virtual function cancels the tenant's jobs and returns its resources. -/
  | functionLevelReset (fn : BitVec 5)
  /-- FUNCTION_LEVEL_RESET_TIMEOUT (R382): Instances still running 100,000 ticks into the reset are ended as by END. -/
  | functionLevelResetTimeout (fn : BitVec 5)
  /-- THERMAL_THROTTLE (R385): A junction at 105 °C makes the device withhold issue cycles as for a cap. -/
  | thermalThrottle (celsius : BitVec 8)
  /-- THERMAL_TRIP (R385): A junction at 115 °C performs a module reset and sets THERM bit 0. -/
  | thermalTrip (celsius : BitVec 8)
  /-- CLOCK_TICK (R54): Each 1 ns tick the device time counter clock advances by one, the same in every core. -/
  | clockTick
  /-- PORT_ENABLE (R375): After the link is retrained, the management holder writes the port's enable; the port is no longer down and its orphan marks clear. -/
  | portEnable (port : BitVec 1) (agent : HxAgent)
  /-- POWER_WINDOW (R385): At each 1 ms window the device sets the issue cycles withheld and THERM bit 1 from the power drawn against PCAP. -/
  | powerWindow (watts : Nat)
  /-- SET_BANK_MEMORY_LIST (R321): The executive sets the base and capacity of a class's memory list for a tenant. -/
  | setBankMemoryList (die : BitVec 2) (ten : BitVec 5) (cls : BitVec 4) (base : BitVec 64) (cap : Nat)
  /-- TENANT_SCOPE_LIMIT (R340): The executive limits a tenant to dev scope, or lifts the limit. -/
  | tenantScopeLimit (ten : BitVec 5) (limited : Bool)
  /-- SERVICE_STREAM_STOP (R241): The executive ends an outstanding service request with a STREAM stop of the invocation instead of replying. -/
  | serviceStreamStop (core : BitVec 6) (cx : Cx)
  /-- VF_ENABLE (R366): The management holder enables a virtual function on one host port. -/
  | vfEnable (port : BitVec 1) (vf : PortFn)
deriving DecidableEq, Repr

end Sys2Proof
end

