-- ==== Sys2Proof/WellFormed.lean ====
section
/-! DEFINITION. Which terms of Instr are instructions of the machine: the checks on operand fields that the
chapters of the spec make on the word alone (R61). A check fails by name. Checks that read `vtype`, `vl` or
`vstart` belong to the meanings, since such a word decodes and traps when it executes (R45, R47, R165). -/

namespace Sys2Proof

/-- Why a word, or a term of Instr, is no instruction (R61). -/
inductive Ill where
  /-- The major opcode is 0x00 or unassigned (R58). -/
  | unassignedMajor
  /-- The fn, sub, mode or operation value is unassigned in the owner's table. -/
  | unassignedFn
  /-- The long-form opcode is unassigned (R59). -/
  | unassignedLop
  /-- A field that the table marks reserved or 0 is not zero. -/
  | reservedField
  /-- A register field holds a value outside the file it names (R47). -/
  | badRegister
  /-- A type or element-format code is not admitted (R103, R106, R129, R181, R260). -/
  | badFormat
  /-- The w field, or the SZ field of an atomic, is not admitted (R112, R116). -/
  | badWidth
  /-- The special-register number is unassigned (R50). -/
  | badSreg
  /-- A fence kind, a path mask, or a level is not admitted (R332, R333). -/
  | badKind
  /-- Two fields name one register where they may not (R36), or source and destination format are equal (R106, R181). -/
  | equalFields
  /-- The term is another instruction's word: `ori g0, g0, 1` is PAUSE (R128). -/
  | otherInstruction
  /-- A tenant, function, class or block operand of a device step is out of its range. -/
  | badOperand
deriving DecidableEq, Repr

/-- The floating-point type codes (R103). -/
def isFpType (t : BitVec 3) : Bool := t.toNat ≤ 2

/-- The loads' w codes (R112): all but 7. -/
def isLoadWidth (w : BitVec 3) : Bool := w.toNat ≤ 6

/-- The stores' w codes (R112): 0, 2, 4 and 6. -/
def isStoreWidth (w : BitVec 3) : Bool := w.toNat == 0 || w.toNat == 2 || w.toNat == 4 || w.toNat == 6

/-- The assigned special-register numbers (R49). -/
def isSreg (r : BitVec 11) : Bool :=
  [0x000, 0x001, 0x002, 0x003, 0x008, 0x009, 0x00A, 0x010, 0x011, 0x012, 0x013, 0x014, 0x018, 0x019,
    0x01A, 0x01B, 0x020, 0x021].contains r.toNat

/-- A 5-bit field that names a mask register (R47). -/
def isMaskReg (r : BitVec 5) : Bool := r.toNat ≤ 7

/-- The element formats a VCVT field admits (R129, R181). -/
def isCvtFormat (f : BitVec 4) : Bool := f.toNat ≤ 12 && f.toNat != 9

/-- The weight-tile format codes (R260). -/
def isTileFormat (f : BitVec 5) : Bool := f.toNat == 0 || f.toNat == 8 || f.toNat == 9 || f.toNat == 10

/-- R36: no two of the three fields name the same register other than g0. -/
def distinctOrZero (d a b : BitVec 5) : Bool :=
  (d != a || d == 0) && (d != b || d == 0) && (a != b || a == 0)

/-- The steps of the device, the executive and the hosts, which have no encoding; the other constructors are
instructions of a thread. -/
def agentStep : Instr → Bool
  | .launchRun .. | .stageGrant .. | .priorityAging .. | .placementTimeout .. | .spillWrite .. | .spillRead ..
  | .queuePortPush .. | .queuePortTimeout .. | .cancelTimeout .. | .wfiTimeout .. | .rowStep ..
  | .ringTileArrival .. | .ringTimeout .. | .configurationPacket .. | .fabricCycle .. | .agenAccessPerformed ..
  | .fabstall .. | .markerCutTimeout .. | .invocationComplete .. | .relatchToken .. | .asynchronousTrap ..
  | .preempt .. | .readMiss .. | .ownershipRequest .. | .invalidationAck .. | .evictionNotice .. | .l1WriteBack ..
  | .transactionConflictTimeout .. | .eccUncorrectableError .. | .pipFillArrival .. | .copyFault ..
  | .copyComplete .. | .syncWordIncrement .. | .bankRefill .. | .bankSpill .. | .resume .. | .redirect ..
  | .save .. | .restore .. | .endInstance .. | .wake .. | .agenResume .. | .agenDecline .. | .copyResume ..
  | .copyDecline .. | .stop .. | .invalidate .. | .setTframe .. | .writeHandleEntry .. | .writeResidentEntry ..
  | .setPipqQuota .. | .reply .. | .readDirectoryEntry .. | .advanceNoticeHead .. | .clearOrphanMarks ..
  | .setPageTableRoot .. | .setTvec .. | .setOcclLimits .. | .setBiasTableBase .. | .setOrphanArea ..
  | .assignJob .. | .resumeQueue .. | .compl .. | .launchRegister .. | .lres .. | .sem .. | .flip ..
  | .flipDeviceToHost .. | .flipHostToDevice .. | .hostQueuePortWrite .. | .hxWrite .. | .hxRead ..
  | .hostCacheRequest .. | .backInvalidationResponse .. | .linkDown .. | .fwOpenSlot .. | .fwCommit ..
  | .fwAbort .. | .nonce .. | .quote .. | .quoteComplete | .registerWrite .. | .powerOnReset
  | .functionLevelReset .. | .functionLevelResetTimeout .. | .thermalThrottle .. | .thermalTrip .. | .clockTick
  | .portEnable .. | .powerWindow .. | .setBankMemoryList .. | .tenantScopeLimit .. | .serviceStreamStop ..
  | .vfEnable .. => true
  | _ => false

/-- `none` when the condition holds, else the reason. -/
def require (c : Bool) (r : Ill) : Option Ill := if c then none else some r

/-- The first check on operand fields that the term fails; `none` when it is well formed. -/
def Instr.ill : Instr → Option Ill
  | .ori d a i => require (!(d == 0 && a == 0 && i == 1)) .otherInstruction
  | .fadd _ _ _ t | .fsub _ _ _ t | .fmul _ _ _ t | .fma _ _ _ t | .fdiv _ _ _ t | .fsqrt _ _ t
  | .fmin _ _ _ t | .fmax _ _ _ t | .fcmpEq _ _ _ t | .fcmpLt _ _ _ t | .fcmpLe _ _ _ t =>
    require (isFpType t) .badFormat
  | .fcvt _ _ t s =>
    if t == 3 || s == 3 then some .badFormat
    else if t == s then some .equalFields
    else require (isFpType t || isFpType s) .badFormat
  | .ld _ _ w _ | .lda _ _ w _ _ | .ldc _ _ w _ => require (isLoadWidth w) .badWidth
  | .st _ _ w _ | .stl _ _ w _ _ => require (isStoreWidth w) .badWidth
  | .srd _ r | .swr _ r | .sset _ r | .sclr _ r => require (isSreg r) .badSreg
  | .fence _ k => require (k != 3) .badKind
  | .fencex e l _ => require (e != 0 && l != 0) .badKind
  | .vldm d _ | .vstm d _ => require (isMaskReg d) .badRegister
  | .vldt _ _ _ c _ _ _ => require (isMaskReg c) .badRegister
  | .vcmp d _ _ _ _ c => if c.toNat ≤ 9 then require (isMaskReg d) .badRegister else some .unassignedFn
  | .vfcmp d _ _ _ _ c => if c.toNat ≤ 5 then require (isMaskReg d) .badRegister else some .unassignedFn
  | .mand d a b | .mor d a b | .mxor d a b | .mandn d a b =>
    require (isMaskReg d && isMaskReg a && isMaskReg b) .badRegister
  | .mpop _ a _ | .mfirst _ a _ | .viota _ a _ => require (isMaskReg a) .badRegister
  | .vcvt _ _ b _ t s =>
    if !(isCvtFormat t && isCvtFormat s) then some .badFormat
    else if t == s then some .equalFields
    else require (b == 0 || t == 8 || s == 8) .reservedField
  | .lds f _ _ _ | .ldsC f _ _ _ => require (isTileFormat f) .badFormat
  | .ldsl _ _ _ c _ f _ _ _ => if isTileFormat f then require (isMaskReg c) .badRegister else some .badFormat
  | .ldslR _ c _ => require (isMaskReg c) .badRegister
  | .mmab _ _ _ c _ _ _ _ _ => require (isMaskReg c) .badRegister
  | .qpop d a b | .qpopNw d a b => require (distinctOrZero d a b) .equalFields
  | .bankRefill _ t _ | .bankSpill _ t _ | .setBankMemoryList _ t _ _ _ | .tenantScopeLimit t _ =>
    require (t.toNat ≤ 16) .badOperand
  | .vfEnable _ p | .hostQueuePortWrite p _ _ => require (p.fn.toNat ≤ 16) .badOperand
  | .launchRegister f _ _ _ | .lres f _ _ | .functionLevelReset f
  | .functionLevelResetTimeout f => require (f.toNat ≤ 16) .badOperand
  | _ => none

/-- A well-formed instruction. -/
abbrev Instr.WellFormed (i : Instr) : Prop := i.ill = none

end Sys2Proof
end

