-- ==== Sys2Proof/Decode.lean ====
section
/-! DEFINITION. From words to instructions and back (R42, R43, R56 to R61): the field accessors of the
formats, one decoder per major opcode, the decoder of any pair of words, of any bytes, and after it the
encoder of a well-formed instruction, written from the same encoding tables. -/

namespace Sys2Proof

/-! ### Fields of a word (R56) -/

/-- The major opcode, bits 31:26 (R42). -/
def fOp (w : BitVec 32) : BitVec 6 := w.extractLsb' 26 6
/-- Bits 25:21. -/
def fD (w : BitVec 32) : BitVec 5 := w.extractLsb' 21 5
/-- Bits 20:16. -/
def fA (w : BitVec 32) : BitVec 5 := w.extractLsb' 16 5
/-- Bits 15:11. -/
def fB (w : BitVec 32) : BitVec 5 := w.extractLsb' 11 5
/-- The fn field of the R format, bits 10:0. -/
def fFn (w : BitVec 32) : BitVec 11 := w.extractLsb' 0 11
/-- Bits 15:0 of the I and B formats. -/
def fImm16 (w : BitVec 32) : BitVec 16 := w.extractLsb' 0 16
/-- Bits 20:0 of the J and S formats. -/
def fDisp21 (w : BitVec 32) : BitVec 21 := w.extractLsb' 0 21
/-- The w field of the M format, bits 15:13. -/
def fW (w : BitVec 32) : BitVec 3 := w.extractLsb' 13 3
/-- The displacement of the M format, bits 12:0. -/
def fImm13 (w : BitVec 32) : BitVec 13 := w.extractLsb' 0 13
/-- The scope of LDA and STL, bits 12:11 (R113). -/
def fScopeM (w : BitVec 32) : BitVec 2 := w.extractLsb' 11 2
/-- The m field of the V format, bits 10:8. -/
def fM (w : BitVec 32) : BitVec 3 := w.extractLsb' 8 3
/-- The k field of the X format, bits 5:0. -/
def fK (w : BitVec 32) : BitVec 6 := w.extractLsb' 0 6
/-- The T field of FPS, bits 5:3 (R103). -/
def fT (w : BitVec 32) : BitVec 3 := w.extractLsb' 3 3
/-- The S field of FPS, bits 2:0 (R103). -/
def fS (w : BitVec 32) : BitVec 3 := w.extractLsb' 0 3

/-- The instruction, if the fields that must be zero are. -/
def zeroFields (z : Bool) (i : Instr) : Except Ill Instr := if z then .ok i else .error .reservedField

/-- The rest of a decoder, if the fields that must be zero are. -/
def zeroFieldsThen (z : Bool) (k : Except Ill Instr) : Except Ill Instr := if z then k else .error .reservedField

/-! ### One decoder per major opcode -/

/-- Major 0x02, ALU (R96). -/
def decodeAlu (w : BitVec 32) : Except Ill Instr :=
  match (fFn w).toNat with
  | 0x00 => .ok (.add (fD w) (fA w) (fB w))
  | 0x01 => .ok (.sub (fD w) (fA w) (fB w))
  | 0x02 => .ok (.and (fD w) (fA w) (fB w))
  | 0x03 => .ok (.or (fD w) (fA w) (fB w))
  | 0x04 => .ok (.xor (fD w) (fA w) (fB w))
  | 0x05 => .ok (.andn (fD w) (fA w) (fB w))
  | 0x08 => .ok (.sll (fD w) (fA w) (fB w))
  | 0x09 => .ok (.srl (fD w) (fA w) (fB w))
  | 0x0A => .ok (.sra (fD w) (fA w) (fB w))
  | 0x10 => .ok (.slt (fD w) (fA w) (fB w))
  | 0x11 => .ok (.sltu (fD w) (fA w) (fB w))
  | 0x12 => .ok (.min (fD w) (fA w) (fB w))
  | 0x13 => .ok (.max (fD w) (fA w) (fB w))
  | 0x14 => .ok (.minu (fD w) (fA w) (fB w))
  | 0x15 => .ok (.maxu (fD w) (fA w) (fB w))
  | 0x20 => zeroFields (fB w == 0) (.clz (fD w) (fA w))
  | 0x21 => zeroFields (fB w == 0) (.ctz (fD w) (fA w))
  | 0x22 => zeroFields (fB w == 0) (.pop (fD w) (fA w))
  | 0x24 => zeroFields (fB w == 0) (.sextB (fD w) (fA w))
  | 0x25 => zeroFields (fB w == 0) (.sextH (fD w) (fA w))
  | 0x26 => zeroFields (fB w == 0) (.sextW (fD w) (fA w))
  | 0x27 => zeroFields (fB w == 0) (.zextW (fD w) (fA w))
  | _ => .error .unassignedFn

/-- Major 0x0C, MDV (R100). -/
def decodeMdv (w : BitVec 32) : Except Ill Instr :=
  match (fFn w).toNat with
  | 0x00 => .ok (.mul (fD w) (fA w) (fB w))
  | 0x01 => .ok (.mulh (fD w) (fA w) (fB w))
  | 0x02 => .ok (.mulhu (fD w) (fA w) (fB w))
  | 0x03 => .ok (.mulhsu (fD w) (fA w) (fB w))
  | 0x04 => .ok (.div (fD w) (fA w) (fB w))
  | 0x05 => .ok (.divu (fD w) (fA w) (fB w))
  | 0x06 => .ok (.rem (fD w) (fA w) (fB w))
  | 0x07 => .ok (.remu (fD w) (fA w) (fB w))
  | _ => .error .unassignedFn

/-- Major 0x09, the shift-immediate group (R98). -/
def decodeShift (w : BitVec 32) : Except Ill Instr :=
  zeroFieldsThen (w.extractLsb' 6 2 == 0) <|
  match (w.extractLsb' 8 8).toNat with
  | 0x00 => .ok (.slli (fD w) (fA w) (fK w))
  | 0x01 => .ok (.srli (fD w) (fA w) (fK w))
  | 0x02 => .ok (.srai (fD w) (fA w) (fK w))
  | _ => .error .unassignedFn

/-- Major 0x0D, FPS (R103, R104, R106). -/
def decodeFps (w : BitVec 32) : Except Ill Instr :=
  match (w.extractLsb' 6 5).toNat with
  | 0x00 => zeroFields (fS w == 0) (.fadd (fD w) (fA w) (fB w) (fT w))
  | 0x01 => zeroFields (fS w == 0) (.fsub (fD w) (fA w) (fB w) (fT w))
  | 0x02 => zeroFields (fS w == 0) (.fmul (fD w) (fA w) (fB w) (fT w))
  | 0x03 => zeroFields (fS w == 0) (.fma (fD w) (fA w) (fB w) (fT w))
  | 0x04 => zeroFields (fS w == 0) (.fdiv (fD w) (fA w) (fB w) (fT w))
  | 0x05 => zeroFields (fS w == 0 && fB w == 0) (.fsqrt (fD w) (fA w) (fT w))
  | 0x06 => zeroFields (fS w == 0) (.fmin (fD w) (fA w) (fB w) (fT w))
  | 0x07 => zeroFields (fS w == 0) (.fmax (fD w) (fA w) (fB w) (fT w))
  | 0x08 => zeroFields (fS w == 0) (.fcmpEq (fD w) (fA w) (fB w) (fT w))
  | 0x09 => zeroFields (fS w == 0) (.fcmpLt (fD w) (fA w) (fB w) (fT w))
  | 0x0A => zeroFields (fS w == 0) (.fcmpLe (fD w) (fA w) (fB w) (fT w))
  | 0x0B => zeroFields (fB w == 0) (.fcvt (fD w) (fA w) (fT w) (fS w))
  | _ => .error .unassignedFn

/-- Major 0x1D, the atomics (R116). -/
def decodeAmo (w : BitVec 32) : Except Ill Instr :=
  if w.extractLsb' 6 1 == 0 then .error .badWidth else
  zeroFieldsThen (w.extractLsb' 0 1 == 0) <|
  match (w.extractLsb' 7 4).toNat with
  | 0 => .ok (.amoAdd (fD w) (fA w) (fB w) (w.extractLsb' 5 1) (w.extractLsb' 3 2) (w.extractLsb' 2 1) (w.extractLsb' 1 1))
  | 1 => .ok (.amoSwap (fD w) (fA w) (fB w) (w.extractLsb' 5 1) (w.extractLsb' 3 2) (w.extractLsb' 2 1) (w.extractLsb' 1 1))
  | 2 => .ok (.amoAnd (fD w) (fA w) (fB w) (w.extractLsb' 5 1) (w.extractLsb' 3 2) (w.extractLsb' 2 1) (w.extractLsb' 1 1))
  | 3 => .ok (.amoOr (fD w) (fA w) (fB w) (w.extractLsb' 5 1) (w.extractLsb' 3 2) (w.extractLsb' 2 1) (w.extractLsb' 1 1))
  | 4 => .ok (.amoXor (fD w) (fA w) (fB w) (w.extractLsb' 5 1) (w.extractLsb' 3 2) (w.extractLsb' 2 1) (w.extractLsb' 1 1))
  | 5 => .ok (.amoMin (fD w) (fA w) (fB w) (w.extractLsb' 5 1) (w.extractLsb' 3 2) (w.extractLsb' 2 1) (w.extractLsb' 1 1))
  | 6 => .ok (.amoMax (fD w) (fA w) (fB w) (w.extractLsb' 5 1) (w.extractLsb' 3 2) (w.extractLsb' 2 1) (w.extractLsb' 1 1))
  | 7 => .ok (.amoMinu (fD w) (fA w) (fB w) (w.extractLsb' 5 1) (w.extractLsb' 3 2) (w.extractLsb' 2 1) (w.extractLsb' 1 1))
  | 8 => .ok (.amoMaxu (fD w) (fA w) (fB w) (w.extractLsb' 5 1) (w.extractLsb' 3 2) (w.extractLsb' 2 1) (w.extractLsb' 1 1))
  | 9 => .ok (.amoCas (fD w) (fA w) (fB w) (w.extractLsb' 5 1) (w.extractLsb' 3 2) (w.extractLsb' 2 1) (w.extractLsb' 1 1))
  | _ => .error .unassignedFn

/-- Major 0x01, SYS (R60, R120, R332 to R334). -/
def decodeSys (w : BitVec 32) : Except Ill Instr :=
  match (fD w).toNat with
  | 0x00 => zeroFields (w.extractLsb' 16 5 == 0) (.ecall (fImm16 w))
  | 0x01 => zeroFields (w.extractLsb' 16 5 == 0) (.brk (fImm16 w))
  | 0x02 => zeroFields (w.extractLsb' 0 21 == 0) (.tret)
  | 0x03 => zeroFields (w.extractLsb' 11 5 == 0) (.srd (fA w) (fFn w))
  | 0x04 => zeroFields (w.extractLsb' 11 5 == 0) (.swr (fA w) (fFn w))
  | 0x05 => zeroFields (w.extractLsb' 11 5 == 0) (.sset (fA w) (fFn w))
  | 0x06 => zeroFields (w.extractLsb' 11 5 == 0) (.sclr (fA w) (fFn w))
  | 0x07 => .ok (.wfi (fDisp21 w))
  | 0x08 => zeroFields (w.extractLsb' 0 21 == 0) (.isync)
  | 0x10 => zeroFields (w.extractLsb' 4 17 == 0) (.fence (w.extractLsb' 2 2) (w.extractLsb' 0 2))
  | 0x11 => zeroFields (w.extractLsb' 14 2 == 0 && w.extractLsb' 4 7 == 0 && w.extractLsb' 0 2 == 0) (.fencex (fA w) (w.extractLsb' 11 3) (w.extractLsb' 2 2))
  | 0x12 => zeroFields (w.extractLsb' 0 1 == 0) (.waitc (w.extractLsb' 17 4) (w.extractLsb' 13 4) (w.extractLsb' 9 4) (w.extractLsb' 5 4) (w.extractLsb' 1 4))
  | _ => .error .unassignedFn

/-- Major 0x20, VCFG (R160). -/
def decodeVcfg (w : BitVec 32) : Except Ill Instr :=
  zeroFieldsThen (fM w == 0) <|
  match (w.extractLsb' 4 4).toNat with
  | 0 => zeroFields (w.extractLsb' 0 4 == 0) (.vset (fD w) (fA w) (fB w))
  | 1 => zeroFields (fB w == 0) (.vseti (fD w) (fA w) (w.extractLsb' 2 2) (w.extractLsb' 0 2))
  | 2 => zeroFields (w.extractLsb' 0 4 == 0 && fB w == 0) (.vfill (fD w) (fA w))
  | 3 => zeroFields (w.extractLsb' 0 4 == 0 && fB w == 0) (.vfillR (fD w) (fA w))
  | _ => .error .unassignedFn

/-- Major 0x21, VLD (R163). -/
def decodeVld (w : BitVec 32) : Except Ill Instr :=
  match (w.extractLsb' 5 3).toNat with
  | 0 => zeroFields (w.extractLsb' 0 4 == 0 && fB w == 0) (.vld (fD w) (fA w) (fM w) (w.extractLsb' 4 1))
  | 1 => zeroFields (w.extractLsb' 4 1 == 0 && w.extractLsb' 0 4 == 0) (.vlds (fD w) (fA w) (fB w) (fM w))
  | 2 => zeroFields (w.extractLsb' 4 1 == 0 && w.extractLsb' 2 2 == 0) (.vldx (fD w) (fA w) (fB w) (fM w) (w.extractLsb' 0 2))
  | 3 => zeroFields (w.extractLsb' 0 4 == 0 && fB w == 0) (.vldff (fD w) (fA w) (fM w) (w.extractLsb' 4 1))
  | 4 => zeroFields (w.extractLsb' 4 1 == 0 && w.extractLsb' 0 4 == 0 && fB w == 0) (.vldc (fD w) (fA w) (fM w))
  | 5 =>
    if w.extractLsb' 1 1 == 0 then zeroFields (w.extractLsb' 2 2 == 0) (.vldb (fD w) (fA w) (fB w) (fM w) (w.extractLsb' 4 1) (w.extractLsb' 0 1))
    else zeroFields (w.extractLsb' 2 2 == 0) (.vldbC (fD w) (fA w) (fB w) (fM w) (w.extractLsb' 4 1) (w.extractLsb' 0 1))
  | 6 => zeroFields (w.extractLsb' 4 1 == 0 && w.extractLsb' 0 4 == 0 && fB w == 0 && fM w == 0) (.vldm (fD w) (fA w))
  | _ => .error .unassignedFn

/-- Major 0x22, VST (R163). -/
def decodeVst (w : BitVec 32) : Except Ill Instr :=
  match (w.extractLsb' 5 3).toNat with
  | 0 => zeroFields (w.extractLsb' 0 4 == 0 && fB w == 0) (.vst (fD w) (fA w) (fM w) (w.extractLsb' 4 1))
  | 1 => zeroFields (w.extractLsb' 4 1 == 0 && w.extractLsb' 0 4 == 0) (.vsts (fD w) (fA w) (fB w) (fM w))
  | 2 => zeroFields (w.extractLsb' 4 1 == 0 && w.extractLsb' 2 2 == 0) (.vstx (fD w) (fA w) (fB w) (fM w) (w.extractLsb' 0 2))
  | 5 => zeroFields (w.extractLsb' 1 3 == 0) (.vstb (fD w) (fA w) (fB w) (fM w) (w.extractLsb' 4 1) (w.extractLsb' 0 1))
  | 6 => zeroFields (w.extractLsb' 4 1 == 0 && w.extractLsb' 0 4 == 0 && fB w == 0 && fM w == 0) (.vstm (fD w) (fA w))
  | _ => .error .unassignedFn

/-- Major 0x23, VINT (R173). -/
def decodeVint (w : BitVec 32) : Except Ill Instr :=
  zeroFieldsThen (w.extractLsb' 5 2 == 0) <|
  match (w.extractLsb' 0 5).toNat with
  | 0x00 => .ok (.vadd (fD w) (fA w) (fB w) (fM w) (w.extractLsb' 7 1))
  | 0x01 => .ok (.vsub (fD w) (fA w) (fB w) (fM w) (w.extractLsb' 7 1))
  | 0x02 => .ok (.vmul (fD w) (fA w) (fB w) (fM w) (w.extractLsb' 7 1))
  | 0x03 => .ok (.vmulh (fD w) (fA w) (fB w) (fM w) (w.extractLsb' 7 1))
  | 0x04 => .ok (.vdiv (fD w) (fA w) (fB w) (fM w) (w.extractLsb' 7 1))
  | 0x05 => .ok (.vrem (fD w) (fA w) (fB w) (fM w) (w.extractLsb' 7 1))
  | 0x06 => .ok (.vmin (fD w) (fA w) (fB w) (fM w) (w.extractLsb' 7 1))
  | 0x07 => .ok (.vmax (fD w) (fA w) (fB w) (fM w) (w.extractLsb' 7 1))
  | 0x08 => .ok (.vminu (fD w) (fA w) (fB w) (fM w) (w.extractLsb' 7 1))
  | 0x09 => .ok (.vmaxu (fD w) (fA w) (fB w) (fM w) (w.extractLsb' 7 1))
  | 0x0A => .ok (.vand (fD w) (fA w) (fB w) (fM w) (w.extractLsb' 7 1))
  | 0x0B => .ok (.vor (fD w) (fA w) (fB w) (fM w) (w.extractLsb' 7 1))
  | 0x0C => .ok (.vxor (fD w) (fA w) (fB w) (fM w) (w.extractLsb' 7 1))
  | 0x0D => .ok (.vsll (fD w) (fA w) (fB w) (fM w) (w.extractLsb' 7 1))
  | 0x0E => .ok (.vsrl (fD w) (fA w) (fB w) (fM w) (w.extractLsb' 7 1))
  | 0x0F => .ok (.vsra (fD w) (fA w) (fB w) (fM w) (w.extractLsb' 7 1))
  | _ => .error .unassignedFn

/-- Major 0x24, VFP (R174). -/
def decodeVfp (w : BitVec 32) : Except Ill Instr :=
  zeroFieldsThen (w.extractLsb' 4 3 == 0) <|
  match (w.extractLsb' 0 4).toNat with
  | 0x00 => .ok (.vfadd (fD w) (fA w) (fB w) (fM w) (w.extractLsb' 7 1))
  | 0x01 => .ok (.vfsub (fD w) (fA w) (fB w) (fM w) (w.extractLsb' 7 1))
  | 0x02 => .ok (.vfmul (fD w) (fA w) (fB w) (fM w) (w.extractLsb' 7 1))
  | 0x03 => .ok (.vfma (fD w) (fA w) (fB w) (fM w) (w.extractLsb' 7 1))
  | 0x04 => .ok (.vfnma (fD w) (fA w) (fB w) (fM w) (w.extractLsb' 7 1))
  | 0x05 => .ok (.vfdiv (fD w) (fA w) (fB w) (fM w) (w.extractLsb' 7 1))
  | 0x06 => zeroFields (w.extractLsb' 7 1 == 0 && fB w == 0) (.vfsqrt (fD w) (fA w) (fM w))
  | 0x07 => .ok (.vfmin (fD w) (fA w) (fB w) (fM w) (w.extractLsb' 7 1))
  | 0x08 => .ok (.vfmax (fD w) (fA w) (fB w) (fM w) (w.extractLsb' 7 1))
  | 0x09 => zeroFields (w.extractLsb' 7 1 == 0 && fB w == 0) (.vfexp2 (fD w) (fA w) (fM w))
  | _ => .error .unassignedFn

/-- Major 0x25, VPRM (R178). -/
def decodeVprm (w : BitVec 32) : Except Ill Instr :=
  match (w.extractLsb' 0 7).toNat with
  | 0x00 => zeroFields (w.extractLsb' 7 1 == 0) (.vslideup (fD w) (fA w) (fB w) (fM w))
  | 0x01 => zeroFields (w.extractLsb' 7 1 == 0) (.vslidedn (fD w) (fA w) (fB w) (fM w))
  | 0x02 => zeroFields (w.extractLsb' 7 1 == 0) (.vperm (fD w) (fA w) (fB w) (fM w))
  | 0x03 => zeroFields (w.extractLsb' 7 1 == 0) (.vcompress (fD w) (fA w) (fB w) (fM w))
  | 0x04 => zeroFields (w.extractLsb' 7 1 == 0 && fB w == 0) (.vexpand (fD w) (fA w) (fM w))
  | 0x05 => zeroFields (w.extractLsb' 7 1 == 0 && fB w == 0) (.viota (fD w) (fA w) (fM w))
  | 0x06 => .ok (.vmerge (fD w) (fA w) (fB w) (fM w) (w.extractLsb' 7 1))
  | 0x08 => zeroFields (w.extractLsb' 7 1 == 0 && fB w == 0) (.vbcast (fD w) (fA w) (fM w))
  | 0x09 => zeroFields (w.extractLsb' 7 1 == 0 && fM w == 0) (.vext (fD w) (fA w) (fB w))
  | 0x0A => zeroFields (w.extractLsb' 7 1 == 0 && fM w == 0) (.vins (fD w) (fA w) (fB w))
  | 0x10 => zeroFields (w.extractLsb' 7 1 == 0) (.vredsum (fD w) (fA w) (fB w) (fM w))
  | 0x11 => zeroFields (w.extractLsb' 7 1 == 0) (.vredmin (fD w) (fA w) (fB w) (fM w))
  | 0x12 => zeroFields (w.extractLsb' 7 1 == 0) (.vredmax (fD w) (fA w) (fB w) (fM w))
  | 0x13 => zeroFields (w.extractLsb' 7 1 == 0) (.vfredsum (fD w) (fA w) (fB w) (fM w))
  | 0x14 => zeroFields (w.extractLsb' 7 1 == 0) (.vfredmin (fD w) (fA w) (fB w) (fM w))
  | 0x15 => zeroFields (w.extractLsb' 7 1 == 0) (.vfredmax (fD w) (fA w) (fB w) (fM w))
  | _ => .error .unassignedFn

/-- Major 0x26, VMSK (R175). -/
def decodeVmsk (w : BitVec 32) : Except Ill Instr :=
  match (w.extractLsb' 4 3).toNat with
  | 0 => .ok (.vcmp (fD w) (fA w) (fB w) (fM w) (w.extractLsb' 7 1) (w.extractLsb' 0 4))
  | 1 => .ok (.vfcmp (fD w) (fA w) (fB w) (fM w) (w.extractLsb' 7 1) (w.extractLsb' 0 4))
  | 2 =>
    zeroFieldsThen (w.extractLsb' 7 1 == 0 && fM w == 0) <|
    match (w.extractLsb' 0 4).toNat with
    | 0 => .ok (.mand (fD w) (fA w) (fB w))
    | 1 => .ok (.mor (fD w) (fA w) (fB w))
    | 2 => .ok (.mxor (fD w) (fA w) (fB w))
    | 3 => .ok (.mandn (fD w) (fA w) (fB w))
    | _ => .error .unassignedFn
  | 3 =>
    zeroFieldsThen (w.extractLsb' 7 1 == 0 && fB w == 0) <|
    match (w.extractLsb' 0 4).toNat with
    | 0 => .ok (.mpop (fD w) (fA w) (fM w))
    | 1 => .ok (.mfirst (fD w) (fA w) (fM w))
    | _ => .error .unassignedFn
  | _ => .error .unassignedFn

/-- Major 0x30, MTX (R265). -/
def decodeMtx (w : BitVec 32) : Except Ill Instr :=
  match (w.extractLsb' 6 5).toNat with
  | 0x00 => .ok (.lds (fD w) (fA w) (fB w) (fK w))
  | 0x01 => .ok (.ldsC (fD w) (fA w) (fB w) (fK w))
  | 0x02 => zeroFields (fA w == 0 && fB w == 0 && fK w == 0) (.pswap (fD w))
  | 0x03 => zeroFields (fD w == 0) (.mmavL6 (fA w) (fB w) (fK w))
  | 0x04 => zeroFields (fD w == 0) (.mmavI8 (fA w) (fB w) (fK w))
  | 0x05 => zeroFields (fD w == 0) (.mmavBf16 (fA w) (fB w) (fK w))
  | 0x06 => zeroFields (fD w == 0) (.mzero (fA w) (fB w) (fK w))
  | 0x08 => zeroFields (fK w == 0) (.vouter (fD w) (fA w) (fB w))
  | _ => .error .unassignedFn

/-- Major 0x31, FTL (R281). -/
def decodeFtl (w : BitVec 32) : Except Ill Instr :=
  match (w.extractLsb' 6 5).toNat with
  | 0x00 => zeroFields (fD w == 0) (.finit (fA w) (fB w) (fK w))
  | 0x01 => zeroFields (fD w == 0) (.fscale (fA w) (fB w) (fK w))
  | 0x02 => zeroFields (fD w == 0) (.fupd (fA w) (fB w) (fK w))
  | 0x03 => zeroFields (fD w == 0) (.fdnd (fA w) (fB w) (fK w))
  | 0x04 => .ok (.fdndS (fD w) (fA w) (fB w) (fK w))
  | 0x05 => zeroFields (fB w == 0) (.fsolt (fD w) (fA w) (fK w))
  | 0x06 => zeroFields (fB w == 0) (.fsoln (fD w) (fA w) (fK w))
  | 0x07 => zeroFields (fB w == 0) (.fdiag (fD w) (fA w) (fK w))
  | _ => .error .unassignedFn

/-- Major 0x33, FXC (R253). -/
def decodeFxc (w : BitVec 32) : Except Ill Instr :=
  match (w.extractLsb' 6 5).toNat with
  | 0x00 => zeroFields (fB w == 0 && fK w == 0) (.fxload (fD w) (fA w))
  | 0x01 => zeroFields (fD w == 0 && w.extractLsb' 15 1 == 0 && w.extractLsb' 4 2 == 0) (.fxbind (fA w) (w.extractLsb' 11 4) (w.extractLsb' 0 4))
  | 0x02 => zeroFields (fD w == 0 && fA w == 0 && fB w == 0 && w.extractLsb' 4 2 == 0) (.fxunbind (w.extractLsb' 0 4))
  | 0x03 => zeroFields (fA w == 0 && fB w == 0 && w.extractLsb' 4 2 == 0) (.fxstat (fD w) (w.extractLsb' 0 4))
  | 0x04 => zeroFields (fD w == 0 && fA w == 0 && fB w == 0 && fK w == 0) (.fxdrop)
  | 0x05 => zeroFields (fD w == 0 && fB w == 0 && fK w == 0) (.fxsave (fA w))
  | 0x06 => zeroFields (fD w == 0 && fB w == 0 && fK w == 0) (.fxrest (fA w))
  | _ => .error .unassignedFn

/-- Major 0x34, XU (R312). -/
def decodeXu (w : BitVec 32) : Except Ill Instr :=
  match (w.extractLsb' 6 5).toNat with
  | 0x00 => .ok (.copy (fD w) (fA w) (fB w) (fK w))
  | 0x01 => .ok (.drain (fD w) (fA w) (fB w) (fK w))
  | 0x02 => .ok (.drainR (fD w) (fA w) (fB w) (fK w))
  | 0x03 => zeroFields (fA w == 0 && fB w == 0) (.hwait (fD w) (fK w))
  | 0x04 => zeroFields (fA w == 0 && fB w == 0) (.hrel (fD w) (fK w))
  | 0x05 => zeroFields (fD w == 0 && fA w == 0) (.hrelP (fB w) (fK w))
  | 0x06 => zeroFields (fA w == 0 && fB w == 0) (.hstat (fD w) (fK w))
  | 0x07 => zeroFields (fK w == 0) (.sinit (fD w) (fA w) (fB w))
  | 0x08 => zeroFields (fK w == 0) (.swait (fD w) (fA w) (fB w))
  | 0x09 => zeroFields (fK w == 0) (.pfill (fD w) (fA w) (fB w))
  | 0x0A => zeroFields (fA w == 0 && fB w == 0 && w.extractLsb' 4 2 == 0) (.pclose (fD w) (w.extractLsb' 0 4))
  | _ => .error .unassignedFn

/-- Major 0x35, BNK (R322). -/
def decodeBnk (w : BitVec 32) : Except Ill Instr :=
  match (w.extractLsb' 6 5).toNat with
  | 0x00 => zeroFields (fA w == 0 && fB w == 0 && w.extractLsb' 4 2 == 0) (.alloc (fD w) (w.extractLsb' 0 4))
  | 0x01 => zeroFields (fD w == 0 && fB w == 0 && w.extractLsb' 4 2 == 0) (.free (fA w) (w.extractLsb' 0 4))
  | _ => .error .unassignedFn

/-- Major 0x36, TXN (R341). -/
def decodeTxn (w : BitVec 32) : Except Ill Instr :=
  match (w.extractLsb' 6 5).toNat with
  | 0x00 => zeroFields (fA w == 0 && fB w == 0 && fK w == 0) (.tbegin (fD w))
  | 0x01 => zeroFields (fD w == 0 && fA w == 0 && fB w == 0 && fK w == 0) (.tend)
  | 0x02 => zeroFields (fD w == 0 && fA w == 0 && fB w == 0) (.tabort (fK w))
  | 0x03 => zeroFields (fA w == 0 && fB w == 0 && fK w == 0) (.tstat (fD w))
  | _ => .error .unassignedFn

/-- Major 0x37, WRK (R32). -/
def decodeWrk (w : BitVec 32) : Except Ill Instr :=
  match (w.extractLsb' 6 5).toNat with
  | 0x00 => zeroFields (fB w == 0 && fK w == 0) (.launch (fD w) (fA w))
  | 0x01 => zeroFields (fD w == 0 && w.extractLsb' 5 1 == 0) (.qpush (fA w) (fB w) (w.extractLsb' 0 5))
  | 0x02 =>
    if w.extractLsb' 0 1 == 0 then zeroFields (w.extractLsb' 1 5 == 0) (.qpop (fD w) (fA w) (fB w))
    else zeroFields (w.extractLsb' 1 5 == 0) (.qpopNw (fD w) (fA w) (fB w))
  | 0x03 => zeroFields (fD w == 0 && fA w == 0 && fB w == 0 && w.extractLsb' 5 1 == 0) (.qclose (w.extractLsb' 0 5))
  | 0x04 => zeroFields (fD w == 0 && fA w == 0 && fB w == 0 && fK w == 0) (.retire)
  | 0x05 => zeroFields (fD w == 0 && fA w == 0 && fB w == 0 && fK w == 0) (.yield)
  | 0x06 => zeroFields (fB w == 0 && w.extractLsb' 2 4 == 0) (.cancel (fD w) (fA w) (w.extractLsb' 0 2))
  | 0x07 =>
    if w.extractLsb' 2 1 == 0 then zeroFields (fB w == 0 && w.extractLsb' 3 3 == 0) (.cwait (fD w) (fA w) (w.extractLsb' 0 2))
    else zeroFields (fB w == 0 && w.extractLsb' 3 3 == 0) (.cwaitNw (fD w) (fA w) (w.extractLsb' 0 2))
  | _ => .error .unassignedFn
/-- Major 0x32, FXI (R250). -/
def decodeFxi (w : BitVec 32) : Except Ill Instr :=
  zeroFields (w.extractLsb' 0 4 == 0)
    (.fx (w.extractLsb' 22 4) (w.extractLsb' 17 5) (w.extractLsb' 12 5) (w.extractLsb' 7 5) (w.extractLsb' 4 3))

/-- Major 0x3E, the long forms (R59, R170, R251, R268, R274, R314), from both words. -/
def decodeLong (w w2 : BitVec 32) : Except Ill Instr :=
  let d := w.extractLsb' 15 5
  let a := w.extractLsb' 10 5
  let b := w.extractLsb' 5 5
  let c := w.extractLsb' 0 5
  let e := w2.extractLsb' 27 5
  let f := w2.extractLsb' 22 5
  match (w.extractLsb' 20 6).toNat with
  | 0x01 => zeroFields (w2.extractLsb' 7 15 == 0) (.fxl d a b c e f (w2.extractLsb' 4 3) (w2.extractLsb' 0 4))
  | 0x02 => zeroFields (d == 0 && f == 0 && w2.extractLsb' 2 20 == 0) (.copyl a b c e (w2.extractLsb' 0 2))
  | 0x03 =>
    zeroFields (f == 0 && w2.extractLsb' 4 18 == 0) (.vldt d a b c e (w2.extractLsb' 2 2) (w2.extractLsb' 0 2))
  | 0x04 =>
    zeroFields (f == 0 && w2.extractLsb' 15 7 == 0)
      (.mmab d a b c e (w2.extractLsb' 14 1) (w2.extractLsb' 12 2) (w2.extractLsb' 6 6) (w2.extractLsb' 0 6))
  | 0x05 =>
    zeroFieldsThen (w2.extractLsb' 16 6 == 0) <|
    if w2.extractLsb' 6 1 == 1 then
      .ok (.ldsl d a b c e f (w2.extractLsb' 8 8) (w2.extractLsb' 7 1) (w2.extractLsb' 0 6))
    else
      zeroFields (a == 0 && b == 0 && e == 0 && f == 0 && w2.extractLsb' 7 1 == 0 && w2.extractLsb' 0 6 == 0)
        (.ldslR d c (w2.extractLsb' 8 8))
  | _ => .error .unassignedLop

/-- The fields of a word, before the checks of Instr.ill: one arm per assigned major opcode (R58). The second
word is read by the long forms only (R43). -/
def decodeFields (w w2 : BitVec 32) : Except Ill Instr :=
  match (fOp w).toNat with
  | 0x01 => decodeSys w
  | 0x02 => decodeAlu w
  | 0x03 => .ok (.addi (fD w) (fA w) (fImm16 w))
  | 0x04 => .ok (.andi (fD w) (fA w) (fImm16 w))
  | 0x05 =>
    if w == 0x14000001#32 then .ok .pause else .ok (.ori (fD w) (fA w) (fImm16 w))
  | 0x06 => .ok (.xori (fD w) (fA w) (fImm16 w))
  | 0x07 => .ok (.slti (fD w) (fA w) (fImm16 w))
  | 0x08 => .ok (.sltiu (fD w) (fA w) (fImm16 w))
  | 0x09 => decodeShift w
  | 0x0A => zeroFields (fA w == 0) (.lui (fD w) (fImm16 w))
  | 0x0B => zeroFields (fA w == 0) (.pchi (fD w) (fImm16 w))
  | 0x0C => decodeMdv w
  | 0x0D => decodeFps w
  | 0x10 => .ok (.beq (fD w) (fA w) (fImm16 w))
  | 0x11 => .ok (.bne (fD w) (fA w) (fImm16 w))
  | 0x12 => .ok (.blt (fD w) (fA w) (fImm16 w))
  | 0x13 => .ok (.bge (fD w) (fA w) (fImm16 w))
  | 0x14 => .ok (.bltu (fD w) (fA w) (fImm16 w))
  | 0x15 => .ok (.bgeu (fD w) (fA w) (fImm16 w))
  | 0x16 => .ok (.jal (fD w) (fDisp21 w))
  | 0x17 => .ok (.jalr (fD w) (fA w) (fImm16 w))
  | 0x18 => .ok (.ld (fD w) (fA w) (fW w) (fImm13 w))
  | 0x19 => .ok (.st (fD w) (fA w) (fW w) (fImm13 w))
  | 0x1A => .ok (.lda (fD w) (fA w) (fW w) (fScopeM w) (fFn w))
  | 0x1B => .ok (.stl (fD w) (fA w) (fW w) (fScopeM w) (fFn w))
  | 0x1C => .ok (.ldc (fD w) (fA w) (fW w) (fImm13 w))
  | 0x1D => decodeAmo w
  | 0x20 => decodeVcfg w
  | 0x21 => decodeVld w
  | 0x22 => decodeVst w
  | 0x23 => decodeVint w
  | 0x24 => decodeVfp w
  | 0x25 => decodeVprm w
  | 0x26 => decodeVmsk w
  | 0x27 => .ok (.vcvt (fD w) (fA w) (fB w) (fM w) (w.extractLsb' 4 4) (w.extractLsb' 0 4))
  | 0x30 => decodeMtx w
  | 0x31 => decodeFtl w
  | 0x32 => decodeFxi w
  | 0x33 => decodeFxc w
  | 0x34 => decodeXu w
  | 0x35 => decodeBnk w
  | 0x36 => decodeTxn w
  | 0x37 => decodeWrk w
  | 0x3E => decodeLong w w2
  | _ => .error .unassignedMajor

/-- The instruction that a first word and the word after it encode, or why they encode none (R61). -/
def decode (w w2 : BitVec 32) : Except Ill Instr :=
  match decodeFields w w2 with
  | .ok i =>
    match i.ill with
    | none => .ok i
    | some r => .error r
  | .error r => .error r

/-- A first word of major 0x3E is followed by a second word (R43). -/
def isLongWord (w : BitVec 32) : Bool := fOp w == 0x3E#6

/-- The length in bytes of the instruction whose first word is w. -/
def wordBytes (w : BitVec 32) : Nat := if isLongWord w then 8 else 4

/-- A 32-bit word from its four bytes, the first at the lowest address (R42). -/
def wordOfBytes (b0 b1 b2 b3 : Byte) : BitVec 32 := b3 ++ b2 ++ b1 ++ b0

/-- The bytes of a word in ascending address order (R42). -/
def bytesOfWord (w : BitVec 32) : List Byte :=
  [w.extractLsb' 0 8, w.extractLsb' 8 8, w.extractLsb' 16 8, w.extractLsb' 24 8]

/-- Why bytes hold no instruction: too few of them, or a word that encodes none. -/
inductive BytesIll where
  | tooShort
  | ill (r : Ill)
deriving DecidableEq, Repr

/-- The instruction at the head of a list of bytes, with the bytes after it. -/
def decodeBytes : List Byte → Except BytesIll (Instr × List Byte)
  | b0 :: b1 :: b2 :: b3 :: rest =>
    let w := wordOfBytes b0 b1 b2 b3
    if isLongWord w then
      match rest with
      | c0 :: c1 :: c2 :: c3 :: rest2 =>
        match decode w (wordOfBytes c0 c1 c2 c3) with
        | .ok i => .ok (i, rest2)
        | .error r => .error (.ill r)
      | _ => .error .tooShort
    else
      match decode w 0 with
      | .ok i => .ok (i, rest)
      | .error r => .error (.ill r)
  | _ => .error .tooShort

/-- The words of an instruction. -/
inductive Words where
  | one (w : BitVec 32)
  | two (w w2 : BitVec 32)
deriving DecidableEq, Repr

/-- The first word. -/
def Words.first : Words → BitVec 32
  | .one w => w
  | .two w _ => w

/-- The second word, 0 where there is none. -/
def Words.second : Words → BitVec 32
  | .one _ => 0
  | .two _ w2 => w2

/-- The bytes in ascending address order. -/
def Words.bytes : Words → List Byte
  | .one w => bytesOfWord w
  | .two w w2 => bytesOfWord w ++ bytesOfWord w2

/-- The words of an instruction; none for the steps of the other agents, which have no encoding. -/
def encode : Instr → Option Words
  | .add d a b => some (.one (0x2#6 ++ d ++ a ++ b ++ 0x0#11))
  | .sub d a b => some (.one (0x2#6 ++ d ++ a ++ b ++ 0x1#11))
  | .and d a b => some (.one (0x2#6 ++ d ++ a ++ b ++ 0x2#11))
  | .or d a b => some (.one (0x2#6 ++ d ++ a ++ b ++ 0x3#11))
  | .xor d a b => some (.one (0x2#6 ++ d ++ a ++ b ++ 0x4#11))
  | .andn d a b => some (.one (0x2#6 ++ d ++ a ++ b ++ 0x5#11))
  | .sll d a b => some (.one (0x2#6 ++ d ++ a ++ b ++ 0x8#11))
  | .srl d a b => some (.one (0x2#6 ++ d ++ a ++ b ++ 0x9#11))
  | .sra d a b => some (.one (0x2#6 ++ d ++ a ++ b ++ 0xA#11))
  | .slt d a b => some (.one (0x2#6 ++ d ++ a ++ b ++ 0x10#11))
  | .sltu d a b => some (.one (0x2#6 ++ d ++ a ++ b ++ 0x11#11))
  | .min d a b => some (.one (0x2#6 ++ d ++ a ++ b ++ 0x12#11))
  | .max d a b => some (.one (0x2#6 ++ d ++ a ++ b ++ 0x13#11))
  | .minu d a b => some (.one (0x2#6 ++ d ++ a ++ b ++ 0x14#11))
  | .maxu d a b => some (.one (0x2#6 ++ d ++ a ++ b ++ 0x15#11))
  | .clz d a => some (.one (0x2#6 ++ d ++ a ++ 0x20#16))
  | .ctz d a => some (.one (0x2#6 ++ d ++ a ++ 0x21#16))
  | .pop d a => some (.one (0x2#6 ++ d ++ a ++ 0x22#16))
  | .sextB d a => some (.one (0x2#6 ++ d ++ a ++ 0x24#16))
  | .sextH d a => some (.one (0x2#6 ++ d ++ a ++ 0x25#16))
  | .sextW d a => some (.one (0x2#6 ++ d ++ a ++ 0x26#16))
  | .zextW d a => some (.one (0x2#6 ++ d ++ a ++ 0x27#16))
  | .addi d a i => some (.one (0x3#6 ++ d ++ a ++ i))
  | .andi d a i => some (.one (0x4#6 ++ d ++ a ++ i))
  | .ori d a i => some (.one (0x5#6 ++ d ++ a ++ i))
  | .xori d a i => some (.one (0x6#6 ++ d ++ a ++ i))
  | .slti d a i => some (.one (0x7#6 ++ d ++ a ++ i))
  | .sltiu d a i => some (.one (0x8#6 ++ d ++ a ++ i))
  | .slli d a n => some (.one (0x9#6 ++ d ++ a ++ 0x0#10 ++ n))
  | .srli d a n => some (.one (0x9#6 ++ d ++ a ++ 0x4#10 ++ n))
  | .srai d a n => some (.one (0x9#6 ++ d ++ a ++ 0x8#10 ++ n))
  | .lui d i => some (.one (0xA#6 ++ d ++ 0x0#5 ++ i))
  | .pchi d i => some (.one (0xB#6 ++ d ++ 0x0#5 ++ i))
  | .mul d a b => some (.one (0xC#6 ++ d ++ a ++ b ++ 0x0#11))
  | .mulh d a b => some (.one (0xC#6 ++ d ++ a ++ b ++ 0x1#11))
  | .mulhu d a b => some (.one (0xC#6 ++ d ++ a ++ b ++ 0x2#11))
  | .mulhsu d a b => some (.one (0xC#6 ++ d ++ a ++ b ++ 0x3#11))
  | .div d a b => some (.one (0xC#6 ++ d ++ a ++ b ++ 0x4#11))
  | .divu d a b => some (.one (0xC#6 ++ d ++ a ++ b ++ 0x5#11))
  | .rem d a b => some (.one (0xC#6 ++ d ++ a ++ b ++ 0x6#11))
  | .remu d a b => some (.one (0xC#6 ++ d ++ a ++ b ++ 0x7#11))
  | .fadd d a b t => some (.one (0xD#6 ++ d ++ a ++ b ++ 0x0#5 ++ t ++ 0x0#3))
  | .fsub d a b t => some (.one (0xD#6 ++ d ++ a ++ b ++ 0x1#5 ++ t ++ 0x0#3))
  | .fmul d a b t => some (.one (0xD#6 ++ d ++ a ++ b ++ 0x2#5 ++ t ++ 0x0#3))
  | .fma d a b t => some (.one (0xD#6 ++ d ++ a ++ b ++ 0x3#5 ++ t ++ 0x0#3))
  | .fdiv d a b t => some (.one (0xD#6 ++ d ++ a ++ b ++ 0x4#5 ++ t ++ 0x0#3))
  | .fsqrt d a t => some (.one (0xD#6 ++ d ++ a ++ 0x5#10 ++ t ++ 0x0#3))
  | .fmin d a b t => some (.one (0xD#6 ++ d ++ a ++ b ++ 0x6#5 ++ t ++ 0x0#3))
  | .fmax d a b t => some (.one (0xD#6 ++ d ++ a ++ b ++ 0x7#5 ++ t ++ 0x0#3))
  | .fcmpEq d a b t => some (.one (0xD#6 ++ d ++ a ++ b ++ 0x8#5 ++ t ++ 0x0#3))
  | .fcmpLt d a b t => some (.one (0xD#6 ++ d ++ a ++ b ++ 0x9#5 ++ t ++ 0x0#3))
  | .fcmpLe d a b t => some (.one (0xD#6 ++ d ++ a ++ b ++ 0xA#5 ++ t ++ 0x0#3))
  | .fcvt d a t s => some (.one (0xD#6 ++ d ++ a ++ 0xB#10 ++ t ++ s))
  | .beq a b i => some (.one (0x10#6 ++ a ++ b ++ i))
  | .bne a b i => some (.one (0x11#6 ++ a ++ b ++ i))
  | .blt a b i => some (.one (0x12#6 ++ a ++ b ++ i))
  | .bge a b i => some (.one (0x13#6 ++ a ++ b ++ i))
  | .bltu a b i => some (.one (0x14#6 ++ a ++ b ++ i))
  | .bgeu a b i => some (.one (0x15#6 ++ a ++ b ++ i))
  | .jal d i => some (.one (0x16#6 ++ d ++ i))
  | .jalr d a i => some (.one (0x17#6 ++ d ++ a ++ i))
  | .ld d a w i => some (.one (0x18#6 ++ d ++ a ++ w ++ i))
  | .st s a w i => some (.one (0x19#6 ++ s ++ a ++ w ++ i))
  | .lda d a w c i => some (.one (0x1A#6 ++ d ++ a ++ w ++ c ++ i))
  | .stl s a w c i => some (.one (0x1B#6 ++ s ++ a ++ w ++ c ++ i))
  | .ldc d a w i => some (.one (0x1C#6 ++ d ++ a ++ w ++ i))
  | .amoAdd d a b z c q l => some (.one (0x1D#6 ++ d ++ a ++ b ++ 0x1#5 ++ z ++ c ++ q ++ l ++ 0x0#1))
  | .amoSwap d a b z c q l => some (.one (0x1D#6 ++ d ++ a ++ b ++ 0x3#5 ++ z ++ c ++ q ++ l ++ 0x0#1))
  | .amoAnd d a b z c q l => some (.one (0x1D#6 ++ d ++ a ++ b ++ 0x5#5 ++ z ++ c ++ q ++ l ++ 0x0#1))
  | .amoOr d a b z c q l => some (.one (0x1D#6 ++ d ++ a ++ b ++ 0x7#5 ++ z ++ c ++ q ++ l ++ 0x0#1))
  | .amoXor d a b z c q l => some (.one (0x1D#6 ++ d ++ a ++ b ++ 0x9#5 ++ z ++ c ++ q ++ l ++ 0x0#1))
  | .amoMin d a b z c q l => some (.one (0x1D#6 ++ d ++ a ++ b ++ 0xB#5 ++ z ++ c ++ q ++ l ++ 0x0#1))
  | .amoMax d a b z c q l => some (.one (0x1D#6 ++ d ++ a ++ b ++ 0xD#5 ++ z ++ c ++ q ++ l ++ 0x0#1))
  | .amoMinu d a b z c q l => some (.one (0x1D#6 ++ d ++ a ++ b ++ 0xF#5 ++ z ++ c ++ q ++ l ++ 0x0#1))
  | .amoMaxu d a b z c q l => some (.one (0x1D#6 ++ d ++ a ++ b ++ 0x11#5 ++ z ++ c ++ q ++ l ++ 0x0#1))
  | .amoCas d a b z c q l => some (.one (0x1D#6 ++ d ++ a ++ b ++ 0x13#5 ++ z ++ c ++ q ++ l ++ 0x0#1))
  | .ecall c => some (.one (0x1#6 ++ 0x0#10 ++ c))
  | .brk c => some (.one (0x1#6 ++ 0x20#10 ++ c))
  | .tret => some (.one (0x1#6 ++ 0x400000#26))
  | .srd d r => some (.one (0x1#6 ++ 0x3#5 ++ d ++ 0x0#5 ++ r))
  | .swr a r => some (.one (0x1#6 ++ 0x4#5 ++ a ++ 0x0#5 ++ r))
  | .sset a r => some (.one (0x1#6 ++ 0x5#5 ++ a ++ 0x0#5 ++ r))
  | .sclr a r => some (.one (0x1#6 ++ 0x6#5 ++ a ++ 0x0#5 ++ r))
  | .wfi n => some (.one (0x1#6 ++ 0x7#5 ++ n))
  | .isync => some (.one (0x1#6 ++ 0x1000000#26))
  | .fence c k => some (.one (0x1#6 ++ 0x200000#22 ++ c ++ k))
  | .fencex e l c => some (.one (0x1#6 ++ 0x11#5 ++ e ++ 0x0#2 ++ l ++ 0x0#7 ++ c ++ 0x0#2))
  | .waitc l s c m f => some (.one (0x1#6 ++ 0x12#5 ++ l ++ s ++ c ++ m ++ f ++ 0x0#1))
  | .pause => some (.one (0x5#6 ++ 0x1#26))
  | .vset d a b => some (.one (0x20#6 ++ d ++ a ++ b ++ 0x0#11))
  | .vseti d a g e => some (.one (0x20#6 ++ d ++ a ++ 0x1#12 ++ g ++ e))
  | .vfill d a => some (.one (0x20#6 ++ d ++ a ++ 0x20#16))
  | .vfillR d a => some (.one (0x20#6 ++ d ++ a ++ 0x30#16))
  | .vld d a m p => some (.one (0x21#6 ++ d ++ a ++ 0x0#5 ++ m ++ 0x0#3 ++ p ++ 0x0#4))
  | .vlds d a b m => some (.one (0x21#6 ++ d ++ a ++ b ++ m ++ 0x20#8))
  | .vldx d a b m i => some (.one (0x21#6 ++ d ++ a ++ b ++ m ++ 0x10#6 ++ i))
  | .vldff d a m p => some (.one (0x21#6 ++ d ++ a ++ 0x0#5 ++ m ++ 0x3#3 ++ p ++ 0x0#4))
  | .vldc d a m => some (.one (0x21#6 ++ d ++ a ++ 0x0#5 ++ m ++ 0x80#8))
  | .vldb d a h m p j => some (.one (0x21#6 ++ d ++ a ++ h ++ m ++ 0x5#3 ++ p ++ 0x0#3 ++ j))
  | .vldbC d a h m p j => some (.one (0x21#6 ++ d ++ a ++ h ++ m ++ 0x5#3 ++ p ++ 0x1#3 ++ j))
  | .vldm d a => some (.one (0x21#6 ++ d ++ a ++ 0xC0#16))
  | .vst s a m p => some (.one (0x22#6 ++ s ++ a ++ 0x0#5 ++ m ++ 0x0#3 ++ p ++ 0x0#4))
  | .vsts s a b m => some (.one (0x22#6 ++ s ++ a ++ b ++ m ++ 0x20#8))
  | .vstx s a b m i => some (.one (0x22#6 ++ s ++ a ++ b ++ m ++ 0x10#6 ++ i))
  | .vstb s a h m p j => some (.one (0x22#6 ++ s ++ a ++ h ++ m ++ 0x5#3 ++ p ++ 0x0#3 ++ j))
  | .vstm s a => some (.one (0x22#6 ++ s ++ a ++ 0xC0#16))
  | .vadd d a b m v => some (.one (0x23#6 ++ d ++ a ++ b ++ m ++ v ++ 0x0#7))
  | .vsub d a b m v => some (.one (0x23#6 ++ d ++ a ++ b ++ m ++ v ++ 0x1#7))
  | .vmul d a b m v => some (.one (0x23#6 ++ d ++ a ++ b ++ m ++ v ++ 0x2#7))
  | .vmulh d a b m v => some (.one (0x23#6 ++ d ++ a ++ b ++ m ++ v ++ 0x3#7))
  | .vdiv d a b m v => some (.one (0x23#6 ++ d ++ a ++ b ++ m ++ v ++ 0x4#7))
  | .vrem d a b m v => some (.one (0x23#6 ++ d ++ a ++ b ++ m ++ v ++ 0x5#7))
  | .vmin d a b m v => some (.one (0x23#6 ++ d ++ a ++ b ++ m ++ v ++ 0x6#7))
  | .vmax d a b m v => some (.one (0x23#6 ++ d ++ a ++ b ++ m ++ v ++ 0x7#7))
  | .vminu d a b m v => some (.one (0x23#6 ++ d ++ a ++ b ++ m ++ v ++ 0x8#7))
  | .vmaxu d a b m v => some (.one (0x23#6 ++ d ++ a ++ b ++ m ++ v ++ 0x9#7))
  | .vand d a b m v => some (.one (0x23#6 ++ d ++ a ++ b ++ m ++ v ++ 0xA#7))
  | .vor d a b m v => some (.one (0x23#6 ++ d ++ a ++ b ++ m ++ v ++ 0xB#7))
  | .vxor d a b m v => some (.one (0x23#6 ++ d ++ a ++ b ++ m ++ v ++ 0xC#7))
  | .vsll d a b m v => some (.one (0x23#6 ++ d ++ a ++ b ++ m ++ v ++ 0xD#7))
  | .vsrl d a b m v => some (.one (0x23#6 ++ d ++ a ++ b ++ m ++ v ++ 0xE#7))
  | .vsra d a b m v => some (.one (0x23#6 ++ d ++ a ++ b ++ m ++ v ++ 0xF#7))
  | .vfadd d a b m v => some (.one (0x24#6 ++ d ++ a ++ b ++ m ++ v ++ 0x0#7))
  | .vfsub d a b m v => some (.one (0x24#6 ++ d ++ a ++ b ++ m ++ v ++ 0x1#7))
  | .vfmul d a b m v => some (.one (0x24#6 ++ d ++ a ++ b ++ m ++ v ++ 0x2#7))
  | .vfma d a b m v => some (.one (0x24#6 ++ d ++ a ++ b ++ m ++ v ++ 0x3#7))
  | .vfnma d a b m v => some (.one (0x24#6 ++ d ++ a ++ b ++ m ++ v ++ 0x4#7))
  | .vfdiv d a b m v => some (.one (0x24#6 ++ d ++ a ++ b ++ m ++ v ++ 0x5#7))
  | .vfsqrt d a m => some (.one (0x24#6 ++ d ++ a ++ 0x0#5 ++ m ++ 0x6#8))
  | .vfmin d a b m v => some (.one (0x24#6 ++ d ++ a ++ b ++ m ++ v ++ 0x7#7))
  | .vfmax d a b m v => some (.one (0x24#6 ++ d ++ a ++ b ++ m ++ v ++ 0x8#7))
  | .vfexp2 d a m => some (.one (0x24#6 ++ d ++ a ++ 0x0#5 ++ m ++ 0x9#8))
  | .vcmp d a b m v c => some (.one (0x26#6 ++ d ++ a ++ b ++ m ++ v ++ 0x0#3 ++ c))
  | .vfcmp d a b m v c => some (.one (0x26#6 ++ d ++ a ++ b ++ m ++ v ++ 0x1#3 ++ c))
  | .mand d a b => some (.one (0x26#6 ++ d ++ a ++ b ++ 0x20#11))
  | .mor d a b => some (.one (0x26#6 ++ d ++ a ++ b ++ 0x21#11))
  | .mxor d a b => some (.one (0x26#6 ++ d ++ a ++ b ++ 0x22#11))
  | .mandn d a b => some (.one (0x26#6 ++ d ++ a ++ b ++ 0x23#11))
  | .mpop d a m => some (.one (0x26#6 ++ d ++ a ++ 0x0#5 ++ m ++ 0x30#8))
  | .mfirst d a m => some (.one (0x26#6 ++ d ++ a ++ 0x0#5 ++ m ++ 0x31#8))
  | .vslideup d a b m => some (.one (0x25#6 ++ d ++ a ++ b ++ m ++ 0x0#8))
  | .vslidedn d a b m => some (.one (0x25#6 ++ d ++ a ++ b ++ m ++ 0x1#8))
  | .vperm d a b m => some (.one (0x25#6 ++ d ++ a ++ b ++ m ++ 0x2#8))
  | .vcompress d a b m => some (.one (0x25#6 ++ d ++ a ++ b ++ m ++ 0x3#8))
  | .vexpand d a m => some (.one (0x25#6 ++ d ++ a ++ 0x0#5 ++ m ++ 0x4#8))
  | .viota d a m => some (.one (0x25#6 ++ d ++ a ++ 0x0#5 ++ m ++ 0x5#8))
  | .vmerge d a b m v => some (.one (0x25#6 ++ d ++ a ++ b ++ m ++ v ++ 0x6#7))
  | .vbcast d a m => some (.one (0x25#6 ++ d ++ a ++ 0x0#5 ++ m ++ 0x8#8))
  | .vext d a b => some (.one (0x25#6 ++ d ++ a ++ b ++ 0x9#11))
  | .vins d a b => some (.one (0x25#6 ++ d ++ a ++ b ++ 0xA#11))
  | .vredsum d a b m => some (.one (0x25#6 ++ d ++ a ++ b ++ m ++ 0x10#8))
  | .vredmin d a b m => some (.one (0x25#6 ++ d ++ a ++ b ++ m ++ 0x11#8))
  | .vredmax d a b m => some (.one (0x25#6 ++ d ++ a ++ b ++ m ++ 0x12#8))
  | .vfredsum d a b m => some (.one (0x25#6 ++ d ++ a ++ b ++ m ++ 0x13#8))
  | .vfredmin d a b m => some (.one (0x25#6 ++ d ++ a ++ b ++ m ++ 0x14#8))
  | .vfredmax d a b m => some (.one (0x25#6 ++ d ++ a ++ b ++ m ++ 0x15#8))
  | .vcvt d a b m t s => some (.one (0x27#6 ++ d ++ a ++ b ++ m ++ t ++ s))
  | .lds f a b h => some (.one (0x30#6 ++ f ++ a ++ b ++ 0x0#5 ++ h))
  | .ldsC f a b h => some (.one (0x30#6 ++ f ++ a ++ b ++ 0x1#5 ++ h))
  | .pswap d => some (.one (0x30#6 ++ d ++ 0x80#21))
  | .mmavL6 a b h => some (.one (0x30#6 ++ 0x0#5 ++ a ++ b ++ 0x3#5 ++ h))
  | .mmavI8 a b h => some (.one (0x30#6 ++ 0x0#5 ++ a ++ b ++ 0x4#5 ++ h))
  | .mmavBf16 a b h => some (.one (0x30#6 ++ 0x0#5 ++ a ++ b ++ 0x5#5 ++ h))
  | .mzero a b h => some (.one (0x30#6 ++ 0x0#5 ++ a ++ b ++ 0x6#5 ++ h))
  | .vouter d a b => some (.one (0x30#6 ++ d ++ a ++ b ++ 0x200#11))
  | .finit a b h => some (.one (0x31#6 ++ 0x0#5 ++ a ++ b ++ 0x0#5 ++ h))
  | .fscale a b h => some (.one (0x31#6 ++ 0x0#5 ++ a ++ b ++ 0x1#5 ++ h))
  | .fupd a b h => some (.one (0x31#6 ++ 0x0#5 ++ a ++ b ++ 0x2#5 ++ h))
  | .fdnd a b h => some (.one (0x31#6 ++ 0x0#5 ++ a ++ b ++ 0x3#5 ++ h))
  | .fdndS d a b h => some (.one (0x31#6 ++ d ++ a ++ b ++ 0x4#5 ++ h))
  | .fsolt d a h => some (.one (0x31#6 ++ d ++ a ++ 0x5#10 ++ h))
  | .fsoln d a h => some (.one (0x31#6 ++ d ++ a ++ 0x6#10 ++ h))
  | .fdiag d a h => some (.one (0x31#6 ++ d ++ a ++ 0x7#10 ++ h))
  | .fx s d a b m => some (.one (0x32#6 ++ s ++ d ++ a ++ b ++ m ++ 0x0#4))
  | .fxload d a => some (.one (0x33#6 ++ d ++ a ++ 0x0#16))
  | .fxbind a e s => some (.one (0x33#6 ++ 0x0#5 ++ a ++ 0x0#1 ++ e ++ 0x4#7 ++ s))
  | .fxunbind s => some (.one (0x33#6 ++ 0x8#22 ++ s))
  | .fxstat d s => some (.one (0x33#6 ++ d ++ 0xC#17 ++ s))
  | .fxdrop => some (.one (0x33#6 ++ 0x100#26))
  | .fxsave a => some (.one (0x33#6 ++ 0x0#5 ++ a ++ 0x140#16))
  | .fxrest a => some (.one (0x33#6 ++ 0x0#5 ++ a ++ 0x180#16))
  | .copy d a b h => some (.one (0x34#6 ++ d ++ a ++ b ++ 0x0#5 ++ h))
  | .drain d a b h => some (.one (0x34#6 ++ d ++ a ++ b ++ 0x1#5 ++ h))
  | .drainR d a b h => some (.one (0x34#6 ++ d ++ a ++ b ++ 0x2#5 ++ h))
  | .hwait d h => some (.one (0x34#6 ++ d ++ 0x3#15 ++ h))
  | .hrel d h => some (.one (0x34#6 ++ d ++ 0x4#15 ++ h))
  | .hrelP b h => some (.one (0x34#6 ++ 0x0#10 ++ b ++ 0x5#5 ++ h))
  | .hstat d h => some (.one (0x34#6 ++ d ++ 0x6#15 ++ h))
  | .sinit d a b => some (.one (0x34#6 ++ d ++ a ++ b ++ 0x1C0#11))
  | .swait d a b => some (.one (0x34#6 ++ d ++ a ++ b ++ 0x200#11))
  | .pfill d a b => some (.one (0x34#6 ++ d ++ a ++ b ++ 0x240#11))
  | .pclose d g => some (.one (0x34#6 ++ d ++ 0x28#17 ++ g))
  | .alloc d c => some (.one (0x35#6 ++ d ++ 0x0#17 ++ c))
  | .free a c => some (.one (0x35#6 ++ 0x0#5 ++ a ++ 0x4#12 ++ c))
  | .tbegin d => some (.one (0x36#6 ++ d ++ 0x0#21))
  | .tend => some (.one (0x36#6 ++ 0x40#26))
  | .tabort c => some (.one (0x36#6 ++ 0x2#20 ++ c))
  | .tstat d => some (.one (0x36#6 ++ d ++ 0xC0#21))
  | .launch d a => some (.one (0x37#6 ++ d ++ a ++ 0x0#16))
  | .qpush a b q => some (.one (0x37#6 ++ 0x0#5 ++ a ++ b ++ 0x2#6 ++ q))
  | .qpop d a b => some (.one (0x37#6 ++ d ++ a ++ b ++ 0x80#11))
  | .qpopNw d a b => some (.one (0x37#6 ++ d ++ a ++ b ++ 0x81#11))
  | .qclose q => some (.one (0x37#6 ++ 0x6#21 ++ q))
  | .retire => some (.one (0x37#6 ++ 0x100#26))
  | .yield => some (.one (0x37#6 ++ 0x140#26))
  | .cancel d a l => some (.one (0x37#6 ++ d ++ a ++ 0x60#14 ++ l))
  | .cwait d a l => some (.one (0x37#6 ++ d ++ a ++ 0x70#14 ++ l))
  | .cwaitNw d a l => some (.one (0x37#6 ++ d ++ a ++ 0x71#14 ++ l))
  | .vldt d a b c e n2 n1 => some (.two (0x3E#6 ++ 0x03#6 ++ d ++ a ++ b ++ c) (e ++ 0#5 ++ 0#18 ++ n2 ++ n1))
  | .mmab d a b c e con fs ha hc => some (.two (0x3E#6 ++ 0x04#6 ++ d ++ a ++ b ++ c) (e ++ 0#5 ++ 0#7 ++ con ++ fs ++ ha ++ hc))
  | .ldsl d a b c e f tag con h => some (.two (0x3E#6 ++ 0x05#6 ++ d ++ a ++ b ++ c) (e ++ f ++ 0#6 ++ tag ++ con ++ 1#1 ++ h))
  | .ldslR d c tag => some (.two (0x3E#6 ++ 0x05#6 ++ d ++ 0#5 ++ 0#5 ++ c) (0#5 ++ 0#5 ++ 0#6 ++ tag ++ 0#1 ++ 0#1 ++ 0#6))
  | .fxl d a b c e f m slot => some (.two (0x3E#6 ++ 0x01#6 ++ d ++ a ++ b ++ c) (e ++ f ++ 0#15 ++ m ++ slot))
  | .copyl a b c e sc => some (.two (0x3E#6 ++ 0x02#6 ++ 0#5 ++ a ++ b ++ c) (e ++ 0#5 ++ 0#20 ++ sc))
  | _ => none

/-- The instruction that the decoder reads from an instruction whose bits are w, numbered as
spec/opcode_table.json numbers them: the first word is bits 31:0 and the second word bits 63:32. -/
def decodeTableWord (nbits w : Nat) : Option Instr :=
  let bits := w % 2 ^ nbits
  match decodeBytes (bytesOfWord (BitVec.ofNat 32 bits) ++ bytesOfWord (BitVec.ofNat 32 (bits / 2 ^ 32))) with
  | .ok (i, _) => some i
  | .error _ => none

end Sys2Proof
end

