-- ==== Sys2Proof/Config.lean ====
section
/-! DEFINITION. What the spec leaves open or to software, as uninterpreted constants without a body (free
values: nothing can be proved of what they are), and the fixed numbers of the device. -/

namespace Sys2Proof.Config

/-- The content, before any device write, of an address of the memory homed on a host or peer (DESIGN CHOICE, log 3). -/
opaque hostByte : Nat → Byte

/-- A fresh free value: applied to State.freeCtr, which every use advances (DESIGN CHOICE, log 4). -/
opaque freeWord : Nat → BitVec 64

/-- The set that a line takes in an L1 data cache, and in its home slice's L2, and the place of the victim among the lines
that a full set may give up: the spec gives none of them (R291, R295; DESIGN CHOICE, log 12). -/
opaque l1Set : Nat → Nat
opaque l2Set : Nat → Nat
opaque victim : List Nat → Nat

/-- The ML-DSA signature of a quote under the device key (R384; DESIGN CHOICE, log 5). -/
opaque mldsaSign : List Byte → List Byte

/-- The digest of the firmware key in the fuses (R383; DESIGN CHOICE, log 5). -/
opaque fuseKeyDigest : BitVec 512

/-- The body of a firmware slot as the module was made: slot A and slot B (R383; DESIGN CHOICE, log 5). -/
opaque factoryImage : Bool → List Byte

/-- The public key and the signature in a firmware slot as the module was made (R383; DESIGN CHOICE, log 5). -/
opaque factoryKey : Bool → List Byte
opaque factorySig : Bool → List Byte

/-- The version of a firmware slot as the module was made (R383; DESIGN CHOICE, log 5). -/
opaque factoryVersion : Bool → Nat

/-- The rollback counter in the fuses (R383; DESIGN CHOICE, log 5). -/
opaque fuseRollback : Nat

end Sys2Proof.Config
end

