-- ==== Sys2Proof/Machine/Mem.lean ====
section
/-! DEFINITION. Sparse memory and sparse tables, each in one canonical form, with the byte order of the device
(little-endian, R2) decided in one place. -/

namespace Sys2Proof.Machine

/-- A sparse memory: the listed addresses rise strictly, and no entry holds what an unlisted address reads as. -/
abbrev Memory := List Host.Cell

/-- The byte at address a; d says what an unlisted address reads as. -/
def Memory.read (d : Nat → Byte) : Memory → Nat → Byte
  | [], a => d a
  | (k, x) :: m, a => if a < k then d a else if a = k then x else Memory.read d m a

/-- A memory with byte v at address a; writing what an unlisted address reads as removes the entry. -/
def Memory.write (d : Nat → Byte) : Memory → Nat → Byte → Memory
  | [], a, v => if v = d a then [] else [(a, v)]
  | (k, x) :: m, a, v =>
    if a < k then (if v = d a then (k, x) :: m else (a, v) :: (k, x) :: m)
    else if a = k then (if v = d a then m else (a, v) :: m)
    else (k, x) :: Memory.write d m a v

/-- Every listed address is above lo, they rise strictly, and no entry holds the default. -/
def Memory.wfAbove (d : Nat → Byte) : Nat → Memory → Bool
  | _, [] => true
  | lo, (k, x) :: m => decide (lo ≤ k) && x != d k && Memory.wfAbove d (k + 1) m

/-- The canonical form. -/
def Memory.wf (d : Nat → Byte) (m : Memory) : Bool := Memory.wfAbove d 0 m

/-- n bytes from address a upward. -/
def Memory.readBytes (d : Nat → Byte) (m : Memory) (a : Nat) : Nat → List Byte
  | 0 => []
  | n + 1 => Memory.read d m a :: Memory.readBytes d m (a + 1) n

/-- A memory with the bytes at address a upward. -/
def Memory.writeBytes (d : Nat → Byte) (m : Memory) (a : Nat) : List Byte → Memory
  | [] => m
  | b :: bs => Memory.writeBytes d (Memory.write d m a b) (a + 1) bs

/-- A memory with the n addresses from a upward at what unlisted addresses read as. -/
def Memory.clear (d : Nat → Byte) (m : Memory) (a : Nat) : Nat → Memory
  | 0 => m
  | n + 1 => Memory.clear d (Memory.write d m a (d a)) (a + 1) n

/-- The value of bytes in ascending address order, little-endian (R2). -/
def leNat : List Byte → Nat
  | [] => 0
  | b :: bs => b.toNat + 256 * leNat bs

/-- The n low bytes of x in ascending address order, little-endian (R2). -/
def leBytes : Nat → Nat → List Byte
  | 0, _ => []
  | n + 1, x => BitVec.ofNat 8 x :: leBytes n (x / 256)

/-- n bytes read as an unsigned little-endian number. -/
def Memory.readNat (d : Nat → Byte) (m : Memory) (a n : Nat) : Nat := leNat (Memory.readBytes d m a n)

/-- The n low bytes of x written little-endian. -/
def Memory.writeNat (d : Nat → Byte) (m : Memory) (a n x : Nat) : Memory := Memory.writeBytes d m a (leBytes n x)

/-- What an unlisted byte of an on-chip buffer or tile reads as (DESIGN CHOICE, log 2). -/
def zeroByte : Nat → Byte := fun _ => 0

/-- A sparse table by number: the keys rise strictly. -/
abbrev Tbl (α : Type) := List (Nat × α)

/-- The entry of key k. -/
def Tbl.find {α : Type} : Tbl α → Nat → Option α
  | [], _ => none
  | (j, x) :: t, k => if k < j then none else if k = j then some x else Tbl.find t k

/-- A table with entry x at key k. -/
def Tbl.put {α : Type} : Tbl α → Nat → α → Tbl α
  | [], k, x => [(k, x)]
  | (j, y) :: t, k, x =>
    if k < j then (k, x) :: (j, y) :: t else if k = j then (k, x) :: t else (j, y) :: Tbl.put t k x

/-- A table without an entry at key k. -/
def Tbl.drop {α : Type} : Tbl α → Nat → Tbl α
  | [], _ => []
  | (j, y) :: t, k => if k < j then (j, y) :: t else if k = j then t else (j, y) :: Tbl.drop t k

/-- The entry of key k, or d. -/
def Tbl.getD {α : Type} (t : Tbl α) (k : Nat) (d : α) : α := (Tbl.find t k).getD d

/-- A sparse set of numbers, rising strictly. -/
abbrev NatSet := List Nat

/-- k is in the set. -/
def NatSet.has (s : NatSet) (k : Nat) : Bool := s.contains k

/-- The set with k. -/
def NatSet.add : NatSet → Nat → NatSet
  | [], k => [k]
  | j :: s, k => if k < j then k :: j :: s else if k = j then j :: s else j :: NatSet.add s k

/-- The set without k. -/
def NatSet.del (s : NatSet) (k : Nat) : NatSet := s.filter (fun j => j != k)

end Sys2Proof.Machine
end

