-- ==== Sys2Proof/Machine/Sha3.lean ====
section
/-! DEFINITION. SHA3-512 and the SHAKE functions (R383, R384), which the spec names and whose text is FIPS 202 (PRESUMED,
log 5): the permutation of 25 lanes of 64 bits, and the sponge over bytes. -/

namespace Sys2Proof.Machine

/-- The state of the permutation: lane (x, y) at place x + 5y. -/
abbrev Lanes := List (BitVec 64)

/-- The lane (x, y), with both coordinates taken modulo 5. -/
def lane (a : Lanes) (x y : Nat) : BitVec 64 := a.getD (x % 5 + 5 * (y % 5)) 0

/-- The 25 lanes by their coordinates. -/
def lanesOf (f : Nat → Nat → BitVec 64) : Lanes := (List.range 25).map (fun i => f (i % 5) (i / 5))

/-- The walk over the 24 lanes other than (0, 0) that ρ and π follow: each lane with the number of its stop. -/
def laneWalk : Nat → Nat → Nat → Nat → List (Nat × Nat)
  | 0, _, _, _ => []
  | n + 1, k, x, y => (x + 5 * y, k) :: laneWalk n (k + 1) y ((2 * x + 3 * y) % 5)

/-- How far ρ turns the lane at a place: the triangular number of its stop on the walk; lane (0, 0) stays. -/
def laneTurn (p : Nat) : Nat :=
  match (laneWalk 24 1 1 0).find? (fun e => e.1 == p) with
  | some (_, k) => k * (k + 1) / 2 % 64
  | none => 0

/-- The register of eight bits that ι takes its bits from, n steps on: x to the n modulo x^8 + x^6 + x^5 + x^4 + 1. -/
def iotaRegister : Nat → Nat
  | 0 => 1
  | n + 1 => let r := 2 * iotaRegister n; if r < 256 then r else r ^^^ 0x171

/-- The constant of a round: bit 2^j - 1 is the lowest bit of the register, 7 steps a round and j within it. -/
def roundConstant (round : Nat) : BitVec 64 :=
  (List.range 7).foldl (fun w j => if iotaRegister (7 * round + j) % 2 = 1 then w ||| BitVec.twoPow 64 (2 ^ j - 1) else w) 0

/-- The parity of the lanes of one x. -/
def parityAt (a : Lanes) (x : Nat) : BitVec 64 := (List.range 5).foldl (fun w y => w ^^^ lane a x y) 0

/-- The step θ: to each lane, the parity of the x before it and, turned by one, of the x after it. -/
def keccakTheta (a : Lanes) : Lanes :=
  let ps := (List.range 5).map (parityAt a)
  let mixed := (List.range 5).map (fun x => ps.getD ((x + 4) % 5) 0 ^^^ (ps.getD ((x + 1) % 5) 0).rotateLeft 1)
  a.mapIdx (fun i w => w ^^^ mixed.getD (i % 5) 0)

/-- The steps ρ and π: each lane turned, and moved. -/
def keccakMove (a : Lanes) : Lanes :=
  let t := lanesOf (fun x y => (lane a x y).rotateLeft (laneTurn (x + 5 * y)))
  lanesOf (fun x y => lane t (x + 3 * y) x)

/-- The step χ. -/
def keccakChi (a : Lanes) : Lanes := lanesOf (fun x y => lane a x y ^^^ (~~~(lane a (x + 1) y) &&& lane a (x + 2) y))

/-- One round, by its number: ι adds the round's constant to lane (0, 0). -/
def keccakRound (a : Lanes) (round : Nat) : Lanes :=
  (keccakChi (keccakMove (keccakTheta a))).modify 0 (fun x => x ^^^ roundConstant round)

/-- The permutation. -/
def keccak (a : Lanes) : Lanes := (List.range 24).foldl keccakRound a

/-- A list cut into n parts of k. -/
def parts {α : Type} (k : Nat) (l : List α) : Nat → List (List α)
  | 0 => []
  | n + 1 => l.take k :: parts k (l.drop k) n

/-- A block of bytes taken into the state. -/
def absorbBlock (a : Lanes) (block : List Byte) : Lanes :=
  let ws := (parts 8 block (block.length / 8)).map (fun b => BitVec.ofNat 64 (leNat b))
  keccak (a.mapIdx (fun i x => x ^^^ ws.getD i 0))

/-- The message with its suffix and padding, a multiple of the rate. -/
def spongePad (rate : Nat) (suffix : Byte) (bs : List Byte) : List Byte :=
  let n := rate - bs.length % rate
  if n = 1 then bs ++ [suffix ||| 0x80] else bs ++ [suffix] ++ List.replicate (n - 2) 0 ++ [0x80]

/-- The state that has taken a message in. -/
def absorbAll (rate : Nat) (suffix : Byte) (bs : List Byte) : Lanes :=
  let p := spongePad rate suffix bs
  (parts rate p (p.length / rate)).foldl absorbBlock (List.replicate 25 0)

/-- The bytes that a state gives out. -/
def squeeze (rate : Nat) (a : Lanes) : List Byte := (a.flatMap (fun x => leBytes 8 x.toNat)).take rate

/-- The bytes of n blocks of output. -/
def squeezeAll (rate : Nat) (a : Lanes) : Nat → List Byte
  | 0 => []
  | n + 1 => squeeze rate a ++ squeezeAll rate (keccak a) n

/-- SHA3-512 of bytes, byte 0 of the digest lowest. -/
def sha3 (bs : List Byte) : BitVec 512 := BitVec.ofNat 512 (leNat ((squeeze 72 (absorbAll 72 0x06 bs)).take 64))

/-- n bytes of SHAKE256. -/
def shake256 (bs : List Byte) (n : Nat) : List Byte := (squeezeAll 136 (absorbAll 136 0x1F bs) ((n + 135) / 136)).take n

end Sys2Proof.Machine
end

