-- ==== Sys2Proof/Machine/State.lean ====
section
/-! DEFINITION. The state of the Rhabor M8 as plain data: contexts, cores, dies and device, every piece of state
the spec names; the model's own fields (agenda, cur, freeCtr); why a step may stop; and the state after reset. -/

namespace Sys2Proof.Machine

/-! ### Contexts (R8, R44 to R55) -/

/-- What a context does: free for a grant (R27), running, suspended by a trap until the executive acts (R346),
or held because its frame could not be written (R348). -/
inductive RunState where
  | free
  | running
  | suspended
  | held
deriving DecidableEq, Repr

/-- A fabric opcode slot's binding (R227). -/
structure Binding where
  image : Word
  entry : BitVec 4
deriving DecidableEq, Repr

/-- The stage instance that a context runs (R27): its launch by slot and generation, its stage, the reserved
entry not yet popped, whether a cancel discarded that entry (R40), and when the cancel came (R40). -/
structure Instance where
  slot     : BitVec 10
  gen      : BitVec 22
  stage    : Nat
  reserved : Option (BitVec 128)
  robbed   : Bool
  cancelAt : Option Nat
deriving DecidableEq, Repr

/-- An open transaction (R342, R343): the resume PC, the destination of the `tbegin`, the stores not yet
committed, the lines read and written, the number of the first access to each, the lines stored to through uncached
mappings alone, whether an access of another party waits for it, and whether an INVALIDATE has found stores in it (R358). -/
structure Tx where
  resume : Word
  dest   : BitVec 5
  writes : Tbl Byte
  rset   : NatSet
  wset   : NatSet
  first  : Tbl Nat
  unc    : NatSet
  blocks : Bool
  old    : Bool
deriving DecidableEq, Repr

/-- The operation of a transfer (R350, kind 4, and R311). -/
inductive XferOp where
  | copy
  | copyl
  | drain
  | drainR
  | fill
deriving DecidableEq, Repr

/-- An outstanding transfer of a context (R309, R310, R350): its operands, the bytes done, whether a fault has
stopped it (cause and address) with the sequence number of its notice, and the instruction it comes from. For a
fill, group is its pip group and lines the physical lines reserved; for an XREQ request, piece and req name it, and aux
is the auxiliary part of its frame (R349). order numbers the context's transfers as they are issued. A fault that the executive has
declined leaves no notice. -/
structure Xfer where
  id      : Nat
  op      : XferOp
  handle  : Option (BitVec 6)
  sc      : BitVec 2
  pips    : BitVec 16
  dst     : Word
  src     : Word
  count   : Nat
  off     : Nat
  sync    : Word
  done    : Nat
  lines   : List Nat
  faulted : Option (Nat × Word)
  group   : BitVec 4
  tpc     : Word
  xreq    : Bool
  piece   : Nat
  req     : Nat
  aux     : List Byte
  notice  : Option (BitVec 32)
  order   : Nat
deriving DecidableEq, Repr

/-- A pip group of a context (R301, R303): open, the lines that a bias flip closed since it opened, and the tenant that
opened it. -/
structure PipGroup where
  isOpen  : Bool
  flipped : Nat
  tenant  : BitVec 5
deriving DecidableEq, Repr

/-- A declined copy or request that waits to be taken as an asynchronous trap (R309, R347). -/
structure Declined where
  xfer  : Xfer
  cause : Nat
  addr  : Word
deriving DecidableEq, Repr

/-- Why a fabric invocation stops (R243): cause (0: a cut asked for by a PREEMPT, which has no trap of its own, R360),
tval, the originating PC, resumable, the AGEN whose element caused it (0xFF: none), the 64-byte fabric record once the
cut is complete, and the 64 auxiliary bytes. -/
structure FabStop where
  cause : Nat
  tval  : Word
  tpc   : Word
  res   : Bool
  fagen : Nat
  prog  : List Byte
  aux   : List Byte
deriving DecidableEq, Repr

/-- A trap to take: cause, tval, tpc, resume PC, resumable, asynchronous, the progress kind and its 64-byte
record (R350), the auxiliary bytes (R349). -/
structure Trap where
  cause : Nat
  tval  : Word
  tpc   : Word
  rpc   : Word
  res   : Bool
  asy   : Bool
  kind  : Nat
  prog  : List Byte
  aux   : List Byte
deriving DecidableEq, Repr

/-- Where a vector instruction or `mmab` with a progress record stands (R156, R347, R359): about to be re-entered from the
record that a frame gave back; paused at a boundary of its own, where a context save may stop it; at such a boundary with
an access that waits; or inside an element chunk, with an access that waits. -/
inductive Standing where
  | given
  | paused
  | waits
  | inside
deriving DecidableEq, Repr

/-- A progress record that `tret` or RESUME has given back to an instruction, consumed when the instruction at
the PC is re-entered (R351), or that an instruction keeps while it is paused or waits part-way: the element at which it
was issued and the kind-1 counters E0 to E7, 8192 for a lane group known to be complete, or the kind-3 step, tag and pip. Or recorded work that goes on before the
instruction at the PC: a transfer to issue again (kind 4), or a `pfill` at tpc, with its G(a), G(b) and G(d), to continue
at line i (kind 6). -/
inductive Resumed where
  | vector (at_ : Standing) (start : Nat) (e : List Nat)
  | matrix (at_ : Standing) (step : Nat) (tag : BitVec 16) (pip : Bool)
  | copy (x : Xfer)
  | lines (tpc ga gb gd : Word) (i : Nat)
deriving DecidableEq, Repr

/-! ### The board (spec/13_board.md, spec/15_fabric_ops.md) -/

/-- A piece record of an image (R224): the piece number, four source codes, P0 to P3, and the SPB levels. -/
structure PieceRec where
  num : Nat
  src : List (BitVec 16)
  p   : List (BitVec 32)
  spb : List Word
deriving DecidableEq, Repr

/-- A port record (R222): the source code of an output port, and the SPB levels. -/
structure PortRec where
  src : BitVec 16
  spb : List Word
deriving DecidableEq, Repr

/-- A tile record (R223): role (0 unused, 1 BUF, 2 FIFO, 3 CACHE), REMOTE, source code, depth, initial data. -/
structure TileRec where
  role    : Nat
  remote  : Bool
  src     : BitVec 16
  depth   : Nat
  initoff : Nat
  initlen : Nat
deriving DecidableEq, Repr

/-- A parsed Mladtik image (R219): position tag, size, crc, the source of `svc`, the entry words, and the records. -/
structure Image where
  tag     : BitVec 8
  size    : Nat
  crc     : BitVec 32
  svcsrc  : BitVec 16
  entries : List (BitVec 32)
  ports   : List PortRec
  tiles   : List TileRec
  pieces  : List PieceRec
deriving DecidableEq, Repr

/-- An input of a piece or tile (R189, R192): its skid buffer, head first, and whether its end has arrived. -/
structure Inp where
  skid  : List (BitVec 32)
  ended : Bool
deriving DecidableEq, Repr

/-- An output of a piece, tile or source port (R189, R192): its register, and whether its end is raised. -/
structure Outp where
  reg   : Option (BitVec 32)
  ended : Bool
deriving DecidableEq, Repr

/-- What has become of an issued access of an AGEN (R211, R238): in the load-store queue; performed, with its value;
diverted to the spill queue with its cause. -/
inductive AccState where
  | issued
  | ready (v : BitVec 32)
  | spilled (cause : Nat)
deriving DecidableEq, Repr

/-- An issued access of an AGEN that has not left it: element index, address, store data, and its state. -/
structure Access where
  idx  : Nat
  addr : Word
  data : Option (BitVec 32)
  st   : AccState
deriving DecidableEq, Repr

/-- What an AGEN keeps of the translation of a page (R212), by the page's virtual address: its physical base and whether it
is uncached, or the cause that the translation met, by number. -/
inductive KeptPage where
  | base (va pa : Nat) (unc : Bool)
  | fault (va cause : Nat)
deriving DecidableEq, Repr

/-- The state of an AGEN in an invocation (R211 to R213): `after` tokens taken, the base and level counts fixed at
the invocation, the next element, the accesses under way in element order, the accesses performed, the page it keeps the
translation of, a re-latch token inside it (the elements before it), `done` sent, and whether a
fault that met a full spill queue stops it (R238). -/
structure AgenState where
  after0  : Bool
  after1  : Bool
  base    : Word
  counts  : List Nat
  next    : Nat
  accs    : List Access
  performed : Nat
  page    : Option KeptPage
  relatch : Option Nat
  sent    : Bool
  blocked : Bool
deriving DecidableEq, Repr

/-- An open segment of a scan or reduction (R205, R206, R239): elements so far, and the running value. -/
structure Seg where
  count : Nat
  acc   : Option (BitVec 32)
deriving DecidableEq, Repr

/-- The state of a piece's kind (R198 to R211). -/
inductive KindState where
  | plain
  /-- MRG: tokens consumed from `a` and `b`, the last keys, and whether it only discards (R202). -/
  | mrg (ia ib : Nat) (la lb : Option (BitVec 32)) (discarding : Bool)
  /-- UNQ: the run's key and length (R203). -/
  | unq (run : Option (BitVec 32 × Nat))
  /-- SRT: tokens gathered, and sorted tokens that leave (R204); pairs of key and value. -/
  | srt (gathered leaving : List (BitVec 32 × BitVec 32))
  /-- SCN and RED: the open segment (R205, R206). -/
  | seg (s : Seg)
  /-- A RED that takes late elements (R239): its open segments by number, and the element indexes of the tokens on their
  way to it. -/
  | red (segs : Tbl Seg) (order : List Nat)
  /-- EXP: repetitions emitted of the pair at the head (R207). -/
  | exp (n : Nat)
  /-- TBL: the probe under way, and results that wait to leave (R208). -/
  | tbl (probe : Option (BitVec 32 × Nat)) (results : List (BitVec 32))
  | agen (a : AgenState)
  /-- XREQ: tokens of the packet, requests issued, the lines that the packet's fill has reserved before a stop (R311), and
  completion tokens that wait to leave (R209). -/
  | xreq (packet : List (BitVec 32)) (issued lines : Nat) (tokens : List (BitVec 32))
deriving DecidableEq, Repr

/-- A placed piece of a position (R184). -/
structure Piece where
  ins      : Vector Inp 4
  outs     : Vector Outp 2
  kind     : KindState
  finished : Bool
deriving DecidableEq, Repr

/-- A memory tile of a position (R214 to R216): the bytes of a BUF; the tokens, input and output of a FIFO. -/
structure Tile where
  mem  : Memory
  fifo : List (BitVec 32)
  inp  : Inp
  out  : Outp
deriving DecidableEq, Repr

/-- A resident position (R228): the address of its image, the parsed image, the packets that have not arrived
(R226) and how many have, its pieces by number, and its tiles. -/
structure Position where
  addr    : Word
  image   : Image
  coming  : List (List Byte)
  arrived : Nat
  pieces  : Tbl Piece
  tiles   : Vector Tile 8
deriving DecidableEq, Repr

/-- An input stream port in an invocation (R232): bound field (1 to 6), the registers of its group as they stood at issue
(R152), element positions to scan, positions scanned, the second token of a 64-bit element that waits, elements whose
tokens have all entered, and the output register. -/
structure InPort where
  field   : Nat
  group   : List (BitVec 4096)
  total   : Nat
  pos     : Nat
  half    : Option (BitVec 32)
  entered : Nat
  out     : Outp
deriving DecidableEq, Repr

/-- An output stream port in an invocation (R233): bound field (0: none), the count (none: dynamic), elements
written, the first token of a 64-bit element, its input, and ended. -/
structure OutPort where
  field   : Nat
  total   : Option Nat
  written : Nat
  half    : Option (BitVec 32)
  inp     : Inp
  ended   : Bool
deriving DecidableEq, Repr

/-- The service port (R241): its input as a destination, the request being gathered, the reply tokens due for each
request not replied to, the tokens still to be sent of each reply, and its output as a source. -/
structure Svc where
  inp     : Inp
  packet  : List (BitVec 32)
  due     : List Nat
  replies : List (List (BitVec 32))
  out     : Outp
deriving DecidableEq, Repr

/-- A fabric invocation (R231): slot, entry, fields a to f, mask register and its bits, vtype, the PC of the fabric
opcode, the ports, gathered flags (R199), the stall counter (R218), the stop it is being cut for, cycles without a
firing since the cut began (R246), and whether it is held (R243). -/
structure Invocation where
  slot    : BitVec 4
  entry   : BitVec 4
  fields  : List (Option (BitVec 5))
  mreg    : BitVec 3
  mask    : BitVec 512
  vtype   : BitVec 4
  tpc     : Word
  ins     : Vector InPort 4
  outs    : Vector OutPort 2
  memOut  : Vector Outp 2
  xferOut : Outp
  svc     : Svc
  flags   : BitVec 5
  stall   : Nat
  cut     : Option FabStop
  quiet   : Nat
  held    : Bool
deriving DecidableEq, Repr

/-! ### The matrix array (spec/17_matrix.md) -/

/-- The content of a weight tile (R259, R260): format code (0 INT8, 8 L6, 0xA BF16), Kw, the weights of each row k
by column, and the 64 column scales. -/
structure Weights where
  fmt  : BitVec 4
  kw   : Nat
  rows : List (List Nat)
  ws   : List (BitVec 8)
deriving DecidableEq, Repr

/-- A weight plane (R259): its weights (none: empty) and its epoch. -/
structure Plane where
  weights : Option Weights
  epoch   : Option (BitVec 16)
deriving DecidableEq, Repr

/-- Work issued to the array and not yet performed (R271, R276), with whether it is the last of its instruction:
a row step, or a C row to zero. hs are the handles that the instruction names, off the row's byte offset in the C buffer;
acts are the active positions. -/
inductive MxJob where
  | row (hs : List (BitVec 6)) (off : Nat) (acts : List (Option Nat)) (fmt : BitVec 4) (sa : BitVec 8) (tag : BitVec 16) (last : Bool)
  | zero (hs : List (BitVec 6)) (off : Nat) (last : Bool)
deriving DecidableEq, Repr

/-- An instruction that uses the planes waits (R261, R269, R270): its address, whether it is to latch a tile, the tag of the
ring tile that a receive waits for, and its turn: higher than that of the other context's instruction that was waiting when
it was issued (R270). -/
structure MxWait where
  pc      : Word
  latches : Bool
  tag     : Option (BitVec 8)
  turn    : Nat
deriving DecidableEq, Repr

/-- A ring tile (R269): the tile, the expert identifier, the tag, the source context kind, tenant and core, and whether
its `ldsl` still counts in the source's matrix counter (R360). -/
structure RingTile where
  tile   : Weights
  x      : BitVec 9
  tag    : BitVec 8
  cx     : Cx
  tenant : BitVec 5
  src    : BitVec 6
  counts : Bool
deriving DecidableEq, Repr

/-- A saved instance that waits for a RESTORE (R361, R362): the save area and its tenant, what the scheduler holds for
it (the instance, `yreq` and `cancel`), the asynchronous traps that it has pending, a record given back to the instruction
at its PC, what goes with the records of its frames, whether SAVE itself cut its invocation, which then runs again (R247), and the addresses of the instructions
that issued the transfers of its copy table (R347). -/
structure Parked where
  area    : Word
  tenant  : BitVec 5
  inst    : Option Instance
  yreq    : Bool
  cancel  : Bool
  fabStop : Option FabStop
  declined : List Declined
  resumed : Option Resumed
  issuedAt : Tbl (Nat × Bool × Option (BitVec 4096))
  cvtSrc  : Option (BitVec 4096)
  leftRows : Tbl (Word × Nat × BitVec 16 × Bool)
  stepFx  : Option Word
  rerun   : Bool
  tpcs    : List Word
deriving DecidableEq, Repr

/-- One thread context (R8). -/
structure Ctx where
  /-- g0 to g31 (R44). -/
  g       : Vector Word 32
  /-- v0 to v31 (R45). -/
  v       : Vector (BitVec 4096) 32
  /-- Fill counts in bytes (R46). -/
  fill    : Vector Nat 32
  /-- m0 to m7 (R47). -/
  m       : Vector (BitVec 512) 8
  /-- The PC (R42). -/
  pc      : Word
  /-- vl, vtype, vstart, fcsr, status (R49 to R55). -/
  vl      : BitVec 13
  vtype   : BitVec 4
  vstart  : BitVec 13
  fcsr    : BitVec 7
  status  : BitVec 5
  /-- tstat (R344), tcause, tpc, tval, tframe (R348). -/
  tstat   : Word
  tcause  : Word
  tpc     : Word
  tval    : Word
  tframe  : Word
  /-- yreq and cancel bit 0 (R28). -/
  yreq    : Bool
  cancel  : Bool
  /-- The tenant field of ctx (R54). -/
  tenant  : BitVec 5
  /-- pipq QUOTA (R304) and the limits of occl (R294). -/
  quota   : BitVec 16
  lim1    : BitVec 8
  lim2    : BitVec 16
  /-- The 16 fabric opcode slots (R227). -/
  slots   : Vector (Option Binding) 16
  /-- The vector resident table; an unlisted entry is zero (R355). -/
  vrt     : Tbl Word
  /-- The class counters (R334). -/
  ld      : Nat
  st      : Nat
  cp      : Nat
  mx      : Nat
  fx      : Nat
  /-- The trap count (R349). -/
  seq     : BitVec 32
  /-- What the context does, whether its instruction at the PC waits (R347), and whether that is a `qpush` that has come to
  wait for its queue (R35). -/
  run     : RunState
  waiting : Bool
  pushWait : Bool
  /-- A `wfi` in progress, with its time limit in ticks; a WAKE that ends it (R125). -/
  wfi     : Option (Option Nat)
  wake    : Bool
  /-- The stage instance (R27). -/
  inst    : Option Instance
  /-- A trap that waits to be taken, for room in the notice ring or for its frame (R352, R371). -/
  pendTrap : Option Trap
  /-- Pending asynchronous traps and a requested PREEMPT with its reason (R347, R359). -/
  fabStop : Option FabStop
  declined : List Declined
  preempt : Option Nat
  /-- The resident position (R228) and the running or held invocation (R231, R243). -/
  board   : Option Position
  inv     : Option Invocation
  /-- Matrix work issued and not yet performed, oldest first (R271, R277), and a wait of an instruction that uses the
  planes. -/
  mxJobs  : List MxJob
  mxWait  : Option MxWait
  /-- Outstanding transfers, oldest first (R309), and the transfers issued so far. -/
  xfers   : List Xfer
  issued  : Nat
  /-- The pip groups 0 to 15 (R303). -/
  groups  : Vector PipGroup 16
  /-- The code of the last failed load check (R256). -/
  lchk    : BitVec 16
  /-- A record given back by `tret` or RESUME (R351). -/
  resumed : Option Resumed
  /-- Of vector instructions that a trap has stopped part-way, by the address of the frame with their record, what the record
  does not say: the element at which each was issued, whether its lane group 0 is complete, and, of a `vcvt` whose destination is
  its narrower source, that register as it was at issue (R152, R157, R166, R172; the model's own, DEDUCED, log 7). -/
  issuedAt : Tbl (Nat × Bool × Option (BitVec 4096))
  /-- That register of such a `vcvt` that stands part-way or is to be re-entered (R152, R364; the model's own, DEDUCED, log 7). -/
  cvtSrc  : Option (BitVec 4096)
  /-- Of `mmab` instructions that have left a wait for an asynchronous trap, by the address of the frame: the instruction's address,
  and the step, tag and pip with which it restarts (R275, R347; the model's own, DEDUCED, log 42). -/
  leftRows : Tbl (Word × Nat × BitVec 16 × Bool)
  /-- In element-step mode, the instruction whose step ends with its invocation or array work (R364). -/
  stepFx  : Option Word
  /-- Saved instances that wait for a RESTORE (R362). -/
  parked  : List Parked
deriving DecidableEq, Repr

/-! ### Cores -/

/-- The typed buffers (R296). -/
inductive Buf where
  | w
  | a
  | c
deriving DecidableEq, Repr

/-- The states of a handle (R297). -/
inductive HState where
  | free
  | filling
  | full
  | draining
  | spent
deriving DecidableEq, Repr

/-- A buffer handle (R297): its region (none: no region), offset and size in 64-byte blocks, its tenant, state,
pips, UNL, and the state it left for FILLING or DRAINING (R298). -/
structure Handle where
  buf  : Option Buf
  offb : BitVec 14
  sizeb : BitVec 15
  ten  : BitVec 5
  st   : HState
  pips : BitVec 16
  unl  : Bool
  left : HState
deriving DecidableEq, Repr

/-- A line in an L1 data cache (R291): the line's number, modified, and the context that allocated it (R294). -/
structure L1Line where
  line     : Nat
  modified : Bool
  cx       : Cx
deriving DecidableEq, Repr

/-- A notice without its sequence number (R352): type, context bit, core byte, tenant, words A to C, and the 32
type-specific bytes. -/
structure Notice where
  type   : Nat
  cx     : Bool
  core   : Nat
  tenant : BitVec 5
  a      : Word
  b      : Word
  c      : Word
  more   : List Byte
deriving DecidableEq, Repr

/-- A command of a command port that is not complete: an INVALIDATE whose re-latch tokens have not all come out
(R358), for a tenant; a STOP whose thread has not stopped (R360), of a context; a command, by operation, that cannot be
carried out yet. -/
inductive PortBusy where
  | invalidate (ten : BitVec 5)
  | stop (cx : Cx)
  | command (op : Nat)
deriving DecidableEq, Repr

/-- A core: its two contexts and what they share (R8). -/
structure Core where
  ctxN    : Ctx
  ctxU    : Ctx
  /-- The W, A and C buffers (R296). -/
  bufW    : Memory
  bufA    : Memory
  bufC    : Memory
  /-- The poisoned 32-byte granules of each buffer, by number (R267, R274). -/
  badW    : NatSet
  badA    : NatSet
  badC    : NatSet
  /-- The planes, the plane generation and the owner (R259, R261). -/
  front   : Plane
  shadow  : Plane
  gen     : BitVec 16
  owner   : Option (BitVec 5)
  /-- The ring stop: tiles in arrival order with the clock of their arrival; tiles on their way to the next core's
  stop (R269). -/
  ring    : List (RingTile × Nat)
  ringOut : List RingTile
  /-- The handles h0 to h63 (R48, R297). -/
  handles : Vector Handle 64
  /-- The L1 data cache's lines (R291). -/
  l1      : List L1Line
  /-- The notice ring: address, tail, head, sequence number, and notices that wait for an entry (R352). -/
  tvec    : Word
  tail    : BitVec 32
  head    : BitVec 32
  nseq    : BitVec 32
  notices : List (List Byte)
  /-- The command port: ARG0 to ARG3, the context of the last command, STAT without the busy bit (R377), and the command
  still under way. -/
  args    : Vector Word 4
  cmdCx   : Cx
  stat    : Word
  busy    : Option PortBusy
deriving DecidableEq, Repr

/-! ### Launches (R10 to R18) -/

/-- A bind list entry (R11). -/
structure BindEntry where
  image : Word
  slot  : BitVec 4
  entry : BitVec 4
deriving DecidableEq, Repr

/-- A stage of a launch (R11) with its instances, its eligibility count (R24) and its offer to every die (R25). -/
structure Stage where
  entry   : Word
  outmask : BitVec 32
  inq     : Nat
  prio    : BitVec 2
  urgent  : Bool
  minctx  : Nat
  maxctx  : Nat
  binds   : List BindEntry
  running : Nat
  aged    : Nat
  offered : Bool
deriving DecidableEq, Repr

/-- Who has posted a queue-port store that back-pressure holds (R21): a thread, whose store counter counts it (R334); a host
through a port; a thread that has ended. -/
inductive Poster where
  | thread (t : Tid)
  | port (p : BitVec 1)
  | gone
deriving DecidableEq, Repr

/-- A queue of a launch (R12, R20, R29, R30): entries on chip, entries that wait to be spilled, the entries in the
spill area (their number and the position of the oldest), entries reserved for instances and not yet popped,
closed, FAULTED (with the transfer that faulted: a write or a read), dropped entries, and stores held by
back-pressure with their deadlines and their posters (R21). -/
structure Queue where
  spill    : Word
  spillcap : Nat
  onchip   : Nat
  hwm      : Nat
  chip     : List (BitVec 128)
  waiting  : List (BitVec 128)
  spilled  : Nat
  spillPos : Nat
  reserved : Nat
  closed   : Bool
  faulted  : Bool
  dropped  : BitVec 28
  heldStores : List (BitVec 128 × Nat × Poster)
deriving DecidableEq, Repr

/-- The states of a launch (R15). -/
inductive LaunchState where
  | held
  | running
  | complete
  | cancelled
  | faulted
deriving DecidableEq, Repr

/-- A data-placement map entry (R26). -/
structure PmapEntry where
  base  : Word
  pages : Nat
  die   : BitVec 2
deriving DecidableEq, Repr

/-- A launch in a slot (R10 to R18). -/
structure Launch where
  record   : Word
  tenant   : BitVec 5
  die      : BitVec 2
  state    : LaunchState
  cancelling : Bool
  flags    : BitVec 4
  graph    : BitVec 16
  phase    : BitVec 16
  job      : BitVec 8
  waitcnt  : Nat
  succ     : List (BitVec 32)
  pmap     : List PmapEntry
  arg      : Word
  stages   : List Stage
  queues   : List Queue
  retired  : BitVec 32
  order    : Nat
deriving DecidableEq, Repr

/-- A launch slot: its generation (R18) and its launch. -/
structure LaunchSlot where
  gen    : BitVec 22
  launch : Option Launch
deriving DecidableEq, Repr

/-- A graph, phase or job object (R17): its launches accepted and final, sealed, and whether one is FAULTED or
CANCELLED (R33). -/
structure LevelObj where
  accepted  : Nat
  final     : Nat
  sealedBy  : Bool
  faulted   : Bool
  cancelled : Bool
  finished  : Bool
deriving DecidableEq, Repr

/-- A job (R17): its tenant and current phase. -/
structure Job where
  tenant : BitVec 5
  phase  : BitVec 16
deriving DecidableEq, Repr

/-! ### The directory (R292, R301) -/

/-- The state of a directory entry (R292). -/
inductive DirState where
  | uncached
  | shared
  | owned
  | pipped
deriving DecidableEq, Repr

/-- A directory entry (R292). ptrs are P0 upward; vec is the coarse vector when cv is set; the rest is the pipped
line's (R301), with the bytes and poison that memory held at the reservation, which a drop without write-back leaves
there (R302). -/
structure DirEntry where
  st      : DirState
  cv      : Bool
  ptrs    : List (BitVec 6)
  vec     : BitVec 16
  pips    : BitVec 8
  group   : BitVec 4
  core    : BitVec 6
  cx      : Cx
  dirty   : Bool
  pending : Bool
  saved   : List Byte
  savedPoison : BitVec 4
deriving DecidableEq, Repr

/-- A write that waits for invalidation acknowledgements (R293): who asked, the acknowledgements outstanding, and
the bytes to write. -/
structure OwnReq where
  writer : BitVec 6
  acks   : List (BitVec 6)
  pa     : Nat
  data   : List Byte
deriving DecidableEq, Repr

/-- A line that its home slice's L2 holds (R291, R294): the context whose access allocated it, and the CACHE tile, by
context and number, whose lent way holds it (R216; none: one of the slice's own ways). -/
structure L2Line where
  who  : Tid
  lent : Option (Cx × Fin 8)
deriving DecidableEq, Repr

/-! ### The bank (R321) -/

/-- The lists of one die, tenant and class (R321): the on-chip list, most recently freed first; the memory list's
base, capacity and length. -/
structure BankList where
  chip : List Word
  base : Word
  cap  : Nat
  used : Nat
deriving DecidableEq, Repr

/-! ### Hosts, peers and the platform (spec/25_host.md, spec/27_platform.md) -/

/-- A line that a host may hold under host bias (R371): its port, held owned, whether the host has answered a snoop that
keeps a shared copy, so that device reads may be performed, and whether it has answered an invalidating one, so that any
device access may be performed and the host holds the line no more. -/
structure HostLine where
  port    : BitVec 1
  owned   : Bool
  shared  : Bool
  granted : Bool
deriving DecidableEq, Repr

/-- A queued bias flip of one page (R372, R373): the new bias (host: true), the new AUTO flag, whether it has begun,
and whether a FLIP command asked for it (FLIPST shows those that are not done). -/
structure FlipCmd where
  page  : Nat
  bias  : Bool
  auto  : Bool
  begun : Bool
  commanded : Bool
deriving DecidableEq, Repr

/-- A firmware slot (R383): the image's public key, body, signature and version. -/
structure FwSlot where
  key     : List Byte
  body    : List Byte
  sig     : List Byte
  version : Nat
deriving DecidableEq, Repr

/-- How a host port answers a configuration request (R381): with Configuration Request Retry Status, or the function accepts
it. -/
inductive ConfigAnswer where
  | retry
  | accepted
deriving DecidableEq, Repr

/-- What the device last gave back to a host or to the executive: the value of a read (R369, R371, R373). -/
structure HostPorts where
  /-- Host ports and peer ports whose link is down (R375). -/
  down     : BitVec 2
  peerDown : BitVec 4
  /-- Host-homed lines that the device holds modified (R374), and lines marked orphaned (R375). -/
  modified : NatSet
  orphans  : NatSet
  /-- The orphan area and its capacity in records (R375). -/
  orphanBase : Word
  orphanCap  : Nat
  /-- SEM (R370). -/
  semOwn   : BitVec 2
  semErr   : Bool
  /-- Bias and AUTO of each page (bit 0 and bit 1), unlisted: device bias, AUTO clear (R371); the table's base. -/
  bias     : Tbl (BitVec 2)
  biasBase : Word
  /-- Queued flips, and the flips completed (R373). -/
  flips    : List FlipCmd
  flipped  : BitVec 32
  /-- Lines a host may hold under host bias, lines with a snoop outstanding, and those whose snoop invalidates (R371). -/
  lines    : Tbl HostLine
  snoops   : NatSet
  snoopInv : NatSet
  /-- The host port that each virtual function is enabled on (R366). -/
  vfPort   : Vector (Option (BitVec 1)) 17
  /-- Launch result queues by function, port and die (R369), and each function's error log count (R368). -/
  lres     : Tbl (List Word)
  errlog   : Tbl Nat
  /-- The value returned by the last read of a host or of the executive, and the answer to the last configuration request of a
  host (R381). -/
  data     : List Byte
  config   : Option ConfigAnswer
deriving DecidableEq, Repr

/-- Firmware, measurement, power (R383 to R385). -/
structure Platform where
  /-- Firmware slots A and B, the active slot (B: true), the slot that the next reset tries first, no slot verified at the
  last reset (R381), the slot open for writing, the rollback counter, FWST. -/
  slotA    : FwSlot
  slotB    : FwSlot
  activeB  : Bool
  nextB    : Bool
  stuck    : Bool
  opened   : Option Bool
  rollback : Nat
  fwst     : Word
  /-- MEAS(0) to MEAS(7), NONCE, a NONCE write that waits for the quote, QUOTE busy and done, QBUF (R384). -/
  meas     : Vector (BitVec 512) 8
  nonce    : BitVec 512
  nonceNext : Option (BitVec 512)
  qbusy    : Bool
  qdone    : Bool
  qbuf     : List Byte
  /-- PCAP, the junction temperature, THERM bits 0 and 1 (R385). -/
  pcap     : BitVec 16
  celsius  : BitVec 8
  tripped  : Bool
  withheld : Bool
  /-- The function-level resets under way, by function: the clock when each began (R382). -/
  flr      : Tbl Nat
  /-- What the executive has yet to set before it admits hosts and launches (R381, step 5): `tvec` of each core, by number;
  `tframe` of each context, at 64 + 2 × core, and 1 more for U; the bias table's base at 192; the orphan area at 193. -/
  toSet    : NatSet
deriving DecidableEq, Repr

/-! ### The whole machine -/

/-- What a service core or a host reads or writes without a row of its own in the opcode table (R4, R368, R377, R384). -/
inductive Side where
  /-- A host's read of n bytes of BAR0 of a function through a port (R368, R383). -/
  | readBar0 (fn : BitVec 5) (port : BitVec 1) (off n : Nat)
  /-- A host's read of n bytes of the BAR2 window of a function through a port (R368). -/
  | readBar2 (fn : BitVec 5) (port : BitVec 1) (off n : Nat)
  /-- A host's configuration request for a function through a port (R381). -/
  | configRequest (fn : BitVec 5) (port : BitVec 1)
  /-- A service core's read of n bytes by physical address on the SV path (R377). -/
  | svRead (sc : BitVec 4) (pa n : Nat)
  /-- A service core's write by physical address on the SV path (R377, R380). -/
  | svWrite (sc : BitVec 4) (pa : Nat) (data : List Byte)
  /-- A service core's access to its own local memory (R377). -/
  | localRead (sc : BitVec 4) (off n : Nat)
  | localWrite (sc : BitVec 4) (off : Nat) (data : List Byte)
  /-- The executive extends a measurement with a digest (R384). -/
  | extend (i : Fin 8) (d : BitVec 512)
  /-- A function-level reset goes on (R382). -/
  | flr (fn : BitVec 5)
  /-- The notices that wait are written to a core's ring (R352). -/
  | flush (core : BitVec 6)
  /-- An L2 slice gives up a line, or moves it into the way that a CACHE tile of its core lends (R216, R291, R295). -/
  | l2Evict (line : Nat)
  | l2Lend (line : Nat) (cx : Cx) (tile : Fin 8)
deriving DecidableEq, Repr

/-- Which agent moves next: a thread, with its whole instruction or with the next portion of a vector instruction or `mmab`
at which it can stop (R9, R359); a step of another agent; an access without a row in the opcode table (DESIGN CHOICE,
log 1). -/
inductive Act where
  | run (t : Tid)
  | chunk (t : Tid)
  | event (i : Instr)
  | side (a : Side)
deriving DecidableEq, Repr

/-- The state of the module. -/
structure State where
  cores   : Vector Core 64
  /-- Ticks since module reset (R54). -/
  clock   : Word
  /-- Device memory, and the memory of hosts and peers as the device sees it, by physical address (R289, R367). -/
  mem     : Memory
  /-- The poisoned 32-byte granules, by number (R386). -/
  poison  : NatSet
  /-- The directory, by line number (R292), and writes that wait for acknowledgements (R293). -/
  dir     : Tbl DirEntry
  owning  : List OwnReq
  /-- The lines that the L2 slices hold, by line number (R291). -/
  l2      : Tbl L2Line
  /-- The open transactions (R342, R343), and the first accesses of transactions to lines so far. -/
  txs     : List (Tid × Tx)
  firsts  : Nat
  /-- The page-table root of each tenant (R356), and the tenants limited to dev scope (R340). -/
  roots   : Vector Word 17
  limited : BitVec 17
  /-- The launch slots (R18), unlisted: generation 0 and empty; acceptances so far (R14). -/
  slots   : Tbl LaunchSlot
  accepts : Nat
  /-- The jobs (R17), unlisted: tenant 0, phase 0; the level objects by job, phase and graph number. -/
  jobs    : Tbl Job
  graphs  : Tbl LevelObj
  phases  : Tbl LevelObj
  jobObjs : Tbl LevelObj
  /-- The round-robin pointers of each die and priority (R23), by die × 4 + priority. -/
  rr      : Vector (BitVec 14) 16
  /-- The bank's lists by die, tenant and class (R321). -/
  banks   : Tbl BankList
  /-- Hosts, peers and bias; firmware, measurement and power. -/
  host    : HostPorts
  plat    : Platform
  /-- The local memories of the service cores, by die × 4 + core (R377). -/
  sv      : Vector Memory 16
  /-- The model's own: who moves next, the thread that moves when the agenda is empty, whether it moves by one portion only,
  the free values used. -/
  agenda  : List Act
  cur     : Tid
  portion : Bool
  freeCtr : Nat
deriving DecidableEq, Repr

/-! ### The state after module reset (R381) -/

/-- A context after reset: the reset column of R49, and zero for what the spec gives no reset value (DESIGN CHOICE, log 2). -/
def Ctx.reset : Ctx where
  g := Vector.replicate 32 0
  v := Vector.replicate 32 0
  fill := Vector.replicate 32 0
  m := Vector.replicate 8 0
  pc := 0
  vl := 0
  vtype := 0
  vstart := 0
  fcsr := 0
  status := 0
  tstat := 0
  tcause := 0
  tpc := 0
  tval := 0
  tframe := 0
  yreq := false
  cancel := false
  tenant := 0
  quota := 0
  lim1 := 0
  lim2 := 0
  slots := Vector.replicate 16 none
  vrt := []
  ld := 0
  st := 0
  cp := 0
  mx := 0
  fx := 0
  seq := 0
  run := .free
  waiting := false
  pushWait := false
  wfi := none
  wake := false
  inst := none
  pendTrap := none
  fabStop := none
  declined := []
  preempt := none
  board := none
  inv := none
  mxJobs := []
  mxWait := none
  xfers := []
  issued := 0
  groups := Vector.replicate 16 ⟨false, 0, 0⟩
  lchk := 0
  resumed := none
  issuedAt := []
  cvtSrc := none
  leftRows := []
  stepFx := none
  parked := []

/-- A handle after reset names no region and is FREE (DESIGN CHOICE, log 2). -/
def Handle.reset : Handle := ⟨none, 0, 0, 0, .free, 0, false, .free⟩

/-- A core after reset. -/
def Core.reset : Core where
  ctxN := Ctx.reset
  ctxU := Ctx.reset
  bufW := []
  bufA := []
  bufC := []
  badW := []
  badA := []
  badC := []
  front := ⟨none, none⟩
  shadow := ⟨none, none⟩
  gen := 0
  owner := none
  ring := []
  ringOut := []
  handles := Vector.replicate 64 Handle.reset
  l1 := []
  tvec := 0
  tail := 0
  head := 0
  nseq := 0
  notices := []
  args := Vector.replicate 4 0
  cmdCx := .n
  stat := 0
  busy := none

/-- Hosts and peers after reset: links up, no owner of SEM, every page at device bias (R370, R371, DESIGN CHOICE, log 2). -/
def HostPorts.reset : HostPorts where
  down := 0
  peerDown := 0
  modified := []
  orphans := []
  orphanBase := 0
  orphanCap := 0
  semOwn := 0
  semErr := false
  bias := []
  biasBase := 0
  flips := []
  flipped := 0
  lines := []
  snoops := []
  snoopInv := []
  vfPort := Vector.replicate 17 none
  lres := []
  errlog := []
  data := []
  config := none

/-- A firmware slot as the module was made (DESIGN CHOICE, log 5). -/
def FwSlot.factory (b : Bool) : FwSlot :=
  ⟨Config.factoryKey b, Config.factoryImage b, Config.factorySig b, Config.factoryVersion b⟩

/-- MEAS(0) once the boot ROM has extended it with the active body's digest (R384). -/
def bootMeas (body : List Byte) : BitVec 512 :=
  sha3 (leBytes 64 0 ++ leBytes 64 (sha3 body).toNat)

/-- The platform after reset from firmware slot A (DESIGN CHOICE, log 5). -/
def Platform.reset : Platform where
  slotA := FwSlot.factory false
  slotB := FwSlot.factory true
  activeB := false
  nextB := false
  stuck := false
  opened := none
  rollback := Config.fuseRollback
  fwst := 0
  meas := (Vector.replicate 8 0).set 0 (bootMeas (Config.factoryImage false))
  nonce := 0
  nonceNext := none
  qbusy := false
  qdone := false
  qbuf := []
  pcap := 2800
  celsius := 0
  tripped := false
  withheld := false
  flr := []
  toSet := List.range 194

/-- The module right after reset (R381): the executive is about to do step 5. -/
def State.reset : State where
  cores := Vector.replicate 64 Core.reset
  clock := 0
  mem := []
  poison := []
  dir := []
  owning := []
  l2 := []
  txs := []
  firsts := 0
  roots := Vector.replicate 17 0
  limited := 0
  slots := []
  accepts := 0
  jobs := []
  graphs := []
  phases := []
  jobObjs := []
  rr := Vector.replicate 16 0
  banks := []
  host := HostPorts.reset
  plat := Platform.reset
  sv := Vector.replicate 16 []
  agenda := []
  cur := ⟨0, .n⟩
  portion := false
  freeCtr := 0

/-! ### How a step may stop -/

/-- Why the machine stops with a fault. No instruction of the spec does: every trap and every wait is a next
state (R346). -/
inductive Fault where
  /-- Raised by nothing: kept so that the type has a value a reader can name. Safe: the machine never stops. -/
  | none
deriving DecidableEq, Repr

/-- Why an instruction has no meaning. -/
inductive Refusal where
  /-- Raised by the arms of exec whose instruction is not modelled yet. Safe: the model says nothing of it. -/
  | notModelled (mnemonic : String)
deriving DecidableEq, Repr

end Sys2Proof.Machine
end

