-- ==== Sys2Proof/Machine/Regs.lean ====
section
/-! DEFINITION. Contexts and their registers: the one place that reads or writes a register (R44 to R55), the trap
causes (R345), and how an instruction's meaning may end before its last effect (a trap, an abort, a wait). -/

namespace Sys2Proof.Machine

/-! ### Cores and contexts -/

/-- Core c. -/
def State.core (s : State) (c : BitVec 6) : Core := s.cores[c.toNat]'(c.isLt)

/-- The state with core c replaced. -/
def State.setCore (s : State) (c : BitVec 6) (k : Core) : State :=
  { s with cores := s.cores.set c.toNat k c.isLt }

/-- A context of a core. -/
def Core.ctx (k : Core) : Cx → Ctx
  | .n => k.ctxN
  | .u => k.ctxU

/-- A core with a context replaced. -/
def Core.setCtx (k : Core) (x : Cx) (c : Ctx) : Core :=
  match x with
  | .n => { k with ctxN := c }
  | .u => { k with ctxU := c }

/-- The context of thread t. -/
def State.ctx (s : State) (t : Tid) : Ctx := (s.core t.core).ctx t.cx

/-- The state with thread t's context replaced. -/
def State.setCtx (s : State) (t : Tid) (c : Ctx) : State :=
  s.setCore t.core ((s.core t.core).setCtx t.cx c)

/-- The state with thread t's context changed by f. -/
def State.onCtx (s : State) (t : Tid) (f : Ctx → Ctx) : State := s.setCtx t (f (s.ctx t))

/-- The state with core c changed by f. -/
def State.onCore (s : State) (c : BitVec 6) (f : Core → Core) : State := s.setCore c (f (s.core c))

/-- The context of the thread that moves. -/
def State.me (s : State) : Ctx := s.ctx s.cur

/-- The state with the moving thread's context changed by f. -/
def State.onMe (s : State) (f : Ctx → Ctx) : State := s.onCtx s.cur f

/-- The core of the thread that moves. -/
def State.myCore (s : State) : Core := s.core s.cur.core

/-- The die of a core (R54). -/
def dieOf (c : BitVec 6) : BitVec 2 := c.extractLsb' 4 2

/-- All cores. -/
def allCores : List (BitVec 6) := (List.range 64).map (BitVec.ofNat 6)

/-- All threads, N before U within a core. -/
def allTids : List Tid := allCores.flatMap (fun c => [⟨c, .n⟩, ⟨c, .u⟩])

/-- The other context of a core. -/
def Cx.other : Cx → Cx
  | .n => .u
  | .u => .n

/-! ### General registers (R44) -/

/-- G(r): general register r, g0 reading as zero. -/
def Ctx.G (c : Ctx) (r : BitVec 5) : Word := if r = 0 then 0 else c.g[r.toNat]'(r.isLt)

/-- A write of general register r; writes to g0 are discarded. -/
def Ctx.setG (c : Ctx) (r : BitVec 5) (x : Word) : Ctx :=
  if r = 0 then c else { c with g := c.g.set r.toNat x r.isLt }

/-- G(r) of the moving thread. -/
def State.G (s : State) (r : BitVec 5) : Word := s.me.G r

/-- The state with the moving thread's register r written. -/
def State.setG (s : State) (r : BitVec 5) (x : Word) : State := s.onMe (fun c => c.setG r x)

/-- The PC of the moving thread. -/
def State.pc (s : State) : Word := s.me.pc

/-- The state with the moving thread's PC at x. -/
def State.setPc (s : State) (x : Word) : State := s.onMe (fun c => { c with pc := x })

/-- The state after an instruction of n bytes that continues at the next one; the thread no longer waits. -/
def State.advance (s : State) (n : Nat) : State :=
  s.onMe (fun c => { c with pc := c.pc + BitVec.ofNat 64 n, waiting := false })

/-! ### Vector registers, fill counts and masks (R45 to R47) -/

/-- The element width code in bits (R51). -/
def ewOf (vtype : BitVec 4) : Nat := 8 * 2 ^ (vtype.extractLsb' 0 2).toNat

/-- The grouping factor (R51). -/
def gfOf (vtype : BitVec 4) : Nat := 2 ^ (vtype.extractLsb' 2 2).toNat

/-- The element width of the context. -/
def Ctx.ew (c : Ctx) : Nat := ewOf c.vtype

/-- The grouping factor of the context. -/
def Ctx.gf (c : Ctx) : Nat := gfOf c.vtype

/-- VLMAX = 4096 × GF / EW (R51). -/
def vlmaxOf (vtype : BitVec 4) : Nat := 4096 * gfOf vtype / ewOf vtype

/-- VLMAX of the context. -/
def Ctx.vlmax (c : Ctx) : Nat := vlmaxOf c.vtype

/-- Vector register r (numbers are taken modulo 32). -/
def Ctx.vreg (c : Ctx) (r : Nat) : BitVec 4096 := c.v[r % 32]'(Nat.mod_lt _ (by decide))

/-- A write of vector register r. -/
def Ctx.setVreg (c : Ctx) (r : Nat) (x : BitVec 4096) : Ctx :=
  { c with v := c.v.set (r % 32) x (Nat.mod_lt _ (by decide)) }

/-- Element i, of width ew, of the group that starts at register d (R45). -/
def Ctx.el (c : Ctx) (ew d i : Nat) : Nat :=
  ((c.vreg (d + i / (4096 / ew))).extractLsb' (ew * (i % (4096 / ew))) ew).toNat

/-- Bits lo to lo + w - 1 of x replaced by the low w bits of v. -/
def setBits {n : Nat} (x : BitVec n) (lo w v : Nat) : BitVec n :=
  BitVec.ofNat n (x.toNat - (x.toNat / 2 ^ lo % 2 ^ w) * 2 ^ lo + (v % 2 ^ w) * 2 ^ lo)

/-- A write of element i, of width ew, of the group that starts at register d. -/
def Ctx.setEl (c : Ctx) (ew d i v : Nat) : Ctx :=
  let r := d + i / (4096 / ew)
  c.setVreg r (setBits (c.vreg r) (ew * (i % (4096 / ew))) ew v)

/-- The fill count of register r in bytes. -/
def Ctx.fillOf (c : Ctx) (r : Nat) : Nat := c.fill[r % 32]'(Nat.mod_lt _ (by decide))

/-- A write of the fill count of register r in bytes. -/
def Ctx.setFill (c : Ctx) (r x : Nat) : Ctx :=
  { c with fill := c.fill.set (r % 32) x (Nat.mod_lt _ (by decide)) }

/-- Mask register r, m0 reading as all ones (R47). -/
def Ctx.M (c : Ctx) (r : BitVec 3) : BitVec 512 := if r = 0 then BitVec.allOnes 512 else c.m[r.toNat]'(r.isLt)

/-- A write of mask register r; writes to m0 are discarded. -/
def Ctx.setM (c : Ctx) (r : BitVec 3) (x : BitVec 512) : Ctx :=
  if r = 0 then c else { c with m := c.m.set r.toNat x r.isLt }

/-- The mask register that a 5-bit field names; the field is 0 to 7 in a well-formed instruction (R47). -/
def maskField (r : BitVec 5) : BitVec 3 := r.extractLsb' 0 3

/-- Whether element i is governed active under mask register r: bit i, and every element under m0 (R47). -/
def Ctx.active (c : Ctx) (r : BitVec 3) (i : Nat) : Bool := r == 0 || (c.M r).getLsbD i

/-! ### Status bits (R53, R55) -/

/-- fcsr RM (R53). -/
def Ctx.rm (c : Ctx) : Nat := (c.fcsr.extractLsb' 0 2).toNat

/-- fcsr with exception flags raised; flags are NX, UF, OF, DZ, NV from bit 0 upward (R53). -/
def Ctx.raiseFlags (c : Ctx) (f : BitVec 5) : Ctx := { c with fcsr := c.fcsr ||| (f ++ 0#2) }

/-- The state with flags raised in the moving thread's fcsr. -/
def State.raiseFlags (s : State) (f : BitVec 5) : State := s.onMe (fun c => c.raiseFlags f)

/-- status TXA (R55). -/
def Ctx.txa (c : Ctx) : Bool := c.status.getLsbD 4
/-- status ESTEP (R364). -/
def Ctx.estep (c : Ctx) : Bool := c.status.getLsbD 3
/-- status PUE (R300). -/
def Ctx.pue (c : Ctx) : Bool := c.status.getLsbD 2
/-- status PUR set. -/
def Ctx.setPur (c : Ctx) : Ctx := { c with status := c.status ||| 0b00010#5 }
/-- status SDN set (R340). -/
def Ctx.setSdn (c : Ctx) : Ctx := { c with status := c.status ||| 0b00001#5 }
/-- status TXA written. -/
def Ctx.setTxa (c : Ctx) (b : Bool) : Ctx :=
  { c with status := if b then c.status ||| 0b10000#5 else c.status &&& 0b01111#5 }

/-! ### Free values (DESIGN CHOICE, log 4) -/

/-- A fresh free value, and the state that has used it. -/
def State.fresh (s : State) : Word × State := (Config.freeWord s.freeCtr, { s with freeCtr := s.freeCtr + 1 })

/-! ### Trap causes (R345) -/

/-- The causes, in the order of their numbers 1 to 23. -/
inductive Cause where
  | illop | misalign | page | perm | vpage | vwin | ptag | pipover | pipfull | pipunder | findef | fnum
  | fmtmis | fabstall | stream | bankerr | handle | poison | link | ecall | brk | step | preempt
deriving DecidableEq, Repr

/-- A cause's number (R345). -/
def Cause.num : Cause → Nat
  | .illop => 1 | .misalign => 2 | .page => 3 | .perm => 4 | .vpage => 5 | .vwin => 6 | .ptag => 7
  | .pipover => 8 | .pipfull => 9 | .pipunder => 10 | .findef => 11 | .fnum => 12 | .fmtmis => 13
  | .fabstall => 14 | .stream => 15 | .bankerr => 16 | .handle => 17 | .poison => 18 | .link => 19
  | .ecall => 20 | .brk => 21 | .step => 22 | .preempt => 23

/-- The Res. column of R345; a PERM of an instruction's own rules is not resumable, and a BANKERR is per R324. -/
def Cause.resumable : Cause → Bool
  | .illop | .misalign | .perm | .vwin | .pipover | .fmtmis | .fabstall | .stream | .bankerr => false
  | _ => true

/-- How a meaning may end before its instruction completes: a trap in state s; an abort of the open transaction
with its cause and the trap cause it records (R343); a wait, in which the instruction has done nothing but what s
shows and starts again at its PC (R347). -/
inductive Stop where
  | trap  (s : State) (t : Trap)
  | abort (s : State) (cause tcause : Nat)
  | wait  (s : State)
deriving DecidableEq, Repr

/-- A meaning under way: an answer, or a stop. -/
abbrev Run (α : Type) := Except Stop α

/-- The trap of the instruction at the PC, resuming at it, with no progress record (R95). -/
def trapT (s : State) (c : Cause) (tval : Word) (res : Bool := c.resumable) : Trap :=
  ⟨c.num, tval, s.pc, s.pc, res, false, 0, [], []⟩

/-- The trap of the instruction at the PC, resuming at the next instruction, n bytes on. -/
def trapN (s : State) (c : Cause) (tval : Word) (n : Nat) : Trap :=
  ⟨c.num, tval, s.pc, s.pc + BitVec.ofNat 64 n, c.resumable, false, 0, [], []⟩

/-- Stops with the trap of the instruction at the PC. -/
def trapNow {α : Type} (s : State) (c : Cause) (tval : Word) : Run α := .error (.trap s (trapT s c tval))

/-- Stops with a trap whose resumability the rule states. -/
def trapRes {α : Type} (s : State) (c : Cause) (tval : Word) (res : Bool) : Run α :=
  .error (.trap s (trapT s c tval res))

/-- Stops with a wait. -/
def waitNow {α : Type} (s : State) : Run α := .error (.wait s)

/-- Stops with a trap whose tval the spec does not state: a free value (DESIGN CHOICE, log 4). -/
def trapOpen {α : Type} (s : State) (c : Cause) : Run α := trapNow s.fresh.2 c s.fresh.1

/-- Goes on when b holds, else traps. -/
def need (s : State) (b : Bool) (c : Cause) (tval : Word) : Run Unit :=
  if b then .ok () else trapNow s c tval

/-- Inside a transaction, an instruction that a transaction does not admit aborts it with cause 7 (R343). -/
def notInTx (s : State) : Run Unit := if s.me.txa then .error (.abort s 7 0) else .ok ()

end Sys2Proof.Machine
end

