-- ==== Sys2Proof/Machine/Space.lean ====
section
/-! DEFINITION. Physical memory as every agent reaches it: the address map (R289, R290, R367), bytes and poison
(R386), the directory and the L1 caches (R291 to R295), pipped lines (R301 to R303), transactions' conflicts (R343),
bias and snoops (R371, R372), and links that are down (R375). -/

namespace Sys2Proof.Machine

/-! ### The address map (R289, R367) -/

/-- Populated device memory (R289): the first 96,000,000,000 bytes of each die's window. -/
def populated (pa : Nat) : Bool := decide (pa < 0x8000000000) && decide (pa % 0x2000000000 < 96000000000)

/-- The host port that an address is homed on (R367). -/
def hostPortOf (pa : Nat) : Option (BitVec 1) :=
  if 0x100000000000 ≤ pa && pa < 0x200000000000 then some 0
  else if 0x200000000000 ≤ pa && pa < 0x300000000000 then some 1 else none

/-- The peer port that an address lies behind (R367). -/
def peerPortOf (pa : Nat) : Option (BitVec 2) :=
  if 0x300000000000 ≤ pa && pa < 0x340000000000 then some (BitVec.ofNat 2 ((pa - 0x300000000000) / 0x10000000000))
  else none

/-- Memory homed outside the module: host-homed, and peer-homed, which the model treats as host-homed memory where R343 (cause 9) and
the other rules on lines name the latter alone (DESIGN CHOICE, log 23). -/
def foreign (pa : Nat) : Bool := (hostPortOf pa).isSome || (peerPortOf pa).isSome

/-- Every byte from pa to pa + n - 1 may be named by a leaf (R355, R356): populated device memory, or the memory of a
host or peer. -/
def mapped (pa n : Nat) : Bool :=
  (populated pa && populated (pa + n - 1) && decide (pa / 0x2000000000 = (pa + n - 1) / 0x2000000000))
    || (foreign pa && foreign (pa + n - 1))

/-- The home slice of an address (R290, R367): its die and local core. -/
def homeCore (pa : Nat) : BitVec 6 :=
  let a := BitVec.ofNat 64 (if foreign pa then pa % 0x2000000000 else pa)
  let die : BitVec 2 :=
    match hostPortOf pa, peerPortOf pa with
    | some p, _ => p ++ 0#1
    | none, some k => k
    | none, none => a.extractLsb' 37 2
  let s : BitVec 4 := a.extractLsb' 7 4 ^^^ a.extractLsb' 11 4 ^^^ a.extractLsb' 15 4 ^^^ a.extractLsb' 19 4
    ^^^ a.extractLsb' 23 4 ^^^ a.extractLsb' 27 4 ^^^ a.extractLsb' 31 4 ^^^ (0#2 ++ a.extractLsb' 35 2)
  die ++ s

/-! ### Bytes -/

/-- What an address that the device has not written reads as: device memory is zero after reset (R381, step 4); the
memory of a host or peer holds a free value (DESIGN CHOICE, log 3). -/
def memDefault (a : Nat) : Byte := if foreign a then Config.hostByte a else 0

/-- The byte at a physical address. -/
def State.byte (s : State) (pa : Nat) : Byte := Memory.read memDefault s.mem pa

/-- n bytes at a physical address. -/
def State.bytes (s : State) (pa n : Nat) : List Byte := Memory.readBytes memDefault s.mem pa n

/-- n bytes read little-endian. -/
def State.num (s : State) (pa n : Nat) : Nat := leNat (s.bytes pa n)

/-- A doubleword at a physical address. -/
def State.dword (s : State) (pa : Nat) : Word := BitVec.ofNat 64 (s.num pa 8)

/-- A byte of the n from pa lies in a poisoned granule (R386). -/
def State.poisoned (s : State) (pa n : Nat) : Bool :=
  s.poison.any (fun g => decide (g * 32 < pa + n) && decide (pa < (g + 1) * 32))

/-- Which of the n bytes from pa are poisoned. -/
def State.poisonMap (s : State) (pa n : Nat) : List Bool :=
  (List.range n).map (fun i => s.poison.contains ((pa + i) / 32))

/-- The state with bytes written at pa: granules wholly covered lose their poison (R386). -/
def State.put (s : State) (pa : Nat) (bs : List Byte) : State :=
  { s with
    mem := Memory.writeBytes memDefault s.mem pa bs
    poison := s.poison.filter (fun g => !(decide (pa ≤ g * 32) && decide ((g + 1) * 32 ≤ pa + bs.length))) }

/-- The state with the granules of the n bytes from pa poisoned (R386). -/
def State.addPoison (s : State) (pa n : Nat) : State :=
  if n = 0 then s
  else { s with poison :=
    (List.range ((pa + n - 1) / 32 - pa / 32 + 1)).foldl (fun p i => NatSet.add p (pa / 32 + i)) s.poison }

/-- The number of the 128-byte line of an address. -/
def lineOf (pa : Nat) : Nat := pa / 128

/-- The lines that n bytes from pa touch. -/
def linesOf (pa n : Nat) : List Nat :=
  if n = 0 then [] else (List.range (lineOf (pa + n - 1) - lineOf pa + 1)).map (· + lineOf pa)

/-! ### The directory and L1 (R291 to R293) -/

/-- The entry of a line that no L1 holds. -/
def DirEntry.none : DirEntry := ⟨.uncached, false, [], 0, 0, 0, 0, .n, false, false, [], 0⟩

/-- The directory entry of a line. -/
def State.dirOf (s : State) (line : Nat) : DirEntry := Tbl.getD s.dir line DirEntry.none

/-- The state with a line's directory entry. -/
def State.setDir (s : State) (line : Nat) (e : DirEntry) : State :=
  { s with dir := if e = DirEntry.none then Tbl.drop s.dir line else Tbl.put s.dir line e }

/-- The line is pending or live pipped (R301). -/
def State.pipped (s : State) (line : Nat) : Bool := (s.dirOf line).st == .pipped

/-- The cores that an entry names (R293): the pointers, or all four cores of each set group. -/
def DirEntry.named (e : DirEntry) : List (BitVec 6) :=
  if e.st == .pipped || e.st == .uncached then []
  else if e.cv then allCores.filter (fun c => e.vec.getLsbD (c.toNat / 4)) else e.ptrs

/-- The coarse vector of some cores. -/
def coarse (cs : List (BitVec 6)) : BitVec 16 := cs.foldl (fun v c => v ||| (1#16 <<< (c.toNat / 4))) 0

/-- An entry with a reader added (R293): a pointer while fewer than four are in use, else the coarse vector. -/
def DirEntry.addReader (e : DirEntry) (c : BitVec 6) : DirEntry :=
  match e.st with
  | .pipped => e
  | .uncached => { DirEntry.none with st := .shared, ptrs := [c] }
  | _ =>
    if e.cv then { e with st := .shared, vec := e.vec ||| coarse [c] }
    else if e.ptrs.contains c then (if e.st == .owned then e else { e with st := .shared })
    else if e.ptrs.length < 4 then { e with st := .shared, ptrs := e.ptrs ++ [c] }
    else { e with st := .shared, cv := true, ptrs := [], vec := coarse (e.ptrs ++ [c]) }

/-- The entry of a line owned by c (R293). -/
def DirEntry.ownedBy (c : BitVec 6) : DirEntry := { DirEntry.none with st := .owned, ptrs := [c] }

/-- Core k's L1 holds the line. -/
def Core.hasLine (k : Core) (line : Nat) : Bool := k.l1.any (fun l => l.line == line)

/-- A core without the line in L1. -/
def Core.dropLine (k : Core) (line : Nat) : Core := { k with l1 := k.l1.filter (fun l => l.line != line) }

/-- A core with the line in L1. -/
def Core.fillLine (k : Core) (line : Nat) (m : Bool) (x : Cx) : Core :=
  if k.hasLine line then
    { k with l1 := k.l1.map (fun l => if l.line == line then { l with modified := l.modified || m } else l) }
  else { k with l1 := k.l1 ++ [⟨line, m, x⟩] }

/-- The state with the line taken from the L1 caches of some cores. -/
def State.dropFrom (s : State) (line : Nat) (cs : List (BitVec 6)) : State :=
  cs.foldl (fun s c => s.onCore c (fun k => k.dropLine line)) s

/-- A read miss of core c (R293): the entry gains the reader, L1 gains a clean copy, and a modified copy elsewhere is
written into the slice and stays as a clean one. -/
def State.readMiss (s : State) (c : BitVec 6) (x : Cx) (line : Nat) : State :=
  let e := s.dirOf line
  let s1 := if e.st == .owned then
      e.ptrs.foldl (fun s o => s.onCore o (fun k =>
        { k with l1 := k.l1.map (fun l => if l.line == line then { l with modified := false } else l) })) s
    else s
  (s1.setDir line (e.addReader c)).onCore c (fun k => k.fillLine line false x)

/-- Core c takes ownership of a line (R293): every other core that the entry names is invalidated and acknowledges,
and the entry becomes owned with c in P0. -/
def State.takeOwned (s : State) (c : BitVec 6) (x : Cx) (line : Nat) : State :=
  let e := s.dirOf line
  ((s.dropFrom line (e.named.filter (· != c))).setDir line (DirEntry.ownedBy c)).onCore c
    (fun k => k.fillLine line true x)

/-- A line taken from every L1, as for a pipped reservation or a write at the home slice (R301, R336). -/
def State.uncacheLine (s : State) (line : Nat) : State :=
  let e := s.dirOf line
  if e.st == .pipped then s else (s.dropFrom line allCores).setDir line DirEntry.none

/-! ### The ways of an L2 slice (R216, R291, R294, R295) -/

/-- A write that has reached the line's home slice waits there for acknowledgements (R293): later accesses wait for it. -/
def State.owningLine (s : State) (line : Nat) : Bool := s.owning.any (fun r => lineOf r.pa == line)

/-- A line leaves its L2 slice (R291). -/
def State.dropL2 (s : State) (line : Nat) : State := { s with l2 := Tbl.drop s.l2 line }

/-- A line that is given up leaves its slice, and with it every L1: the slice keeps the entries of the lines it holds
(R292). -/
def State.giveUp (s : State) (line : Nat) : State := (s.uncacheLine line).dropL2 line

/-- The lines of a context in its core's L2 slice, and in the core's L1 (R294). -/
def State.occ2 (s : State) (t : Tid) : Nat := s.l2.countP (fun p => p.2.who == t && homeCore (p.1 * 128) == t.core)

/-- The lines of a context in its core's L1 (R294). -/
def State.occ1 (s : State) (t : Tid) : Nat := (s.core t.core).l1.countP (fun l => l.cx == t.cx)

/-- The lines of a context in its core's slice have reached its soft limit (R294, R295). -/
def State.over2 (s : State) (t : Tid) : Bool :=
  let m := (s.ctx t).lim2.toNat
  m != 0 && decide (m ≤ s.occ2 t / 16)

/-- The lines of a context in its core's L1 have reached its soft limit (R294, R295). -/
def State.over1 (s : State) (t : Tid) : Bool :=
  let m := (s.ctx t).lim1.toNat
  m != 0 && decide (m ≤ s.occ1 t / 4)

/-- Two lines of one slice take one of its 1,024 sets. -/
def sameSet (a b : Nat) : Bool := Config.l2Set a % 1024 == Config.l2Set b % 1024

/-- The lines in a slice's own ways. -/
def State.ownWays (s : State) (home : BitVec 6) : List (Nat × L2Line) :=
  s.l2.filter (fun p => p.2.lent.isNone && homeCore (p.1 * 128) == home)

/-- The record of tile n of a position has arrived: packets carry the header, the entry table and six port records before
those of the tiles (R219, R226). -/
def Position.tileIn (p : Position) (n : Nat) : Bool := p.coming.isEmpty || decide (9 + n ≤ p.arrived)

/-- The CACHE tiles that lend a core's slice a way (R216), from the arrival of their records on (R226). -/
def Core.lent (k : Core) : List (Cx × Fin 8) :=
  [Cx.n, Cx.u].flatMap (fun x =>
    match (k.ctx x).board with
    | some p => ((List.finRange 8).filter (fun n => p.tileIn n.val && (p.image.tiles[n.val]?.map TileRec.role).getD 0 == 3)).map (fun n => (x, n))
    | none => [])

/-- The lines of a slice in a lent way that take the set of a line. -/
def State.lentMates (s : State) (line : Nat) (w : Cx × Fin 8) : List (Nat × L2Line) :=
  s.l2.filter (fun p => p.2.lent == some w && homeCore (p.1 * 128) == homeCore (line * 128) && sameSet p.1 line)

/-- The lines among those of a set that it may give up (R295): none that is pinned or that a write waits for; only those of
contexts at their limit, if it holds one. -/
def State.victims (s : State) (ps : List (Nat × L2Line)) : List (Nat × L2Line) :=
  let free := ps.filter (fun p => !(s.pipped p.1) && !(s.owningLine p.1))
  let full := free.filter (fun p => s.over2 p.2.who)
  if full.isEmpty then free else full

/-- Which of the lines that a set may give up leaves. -/
def State.victim (s : State) (ps : List (Nat × L2Line)) : Option (Nat × L2Line) :=
  let vs := s.victims ps
  vs[Config.victim (vs.map (·.1)) % vs.length]?

/-- Room for a line in its slice's ways (R291): the state in which the line that must leave has left, and the way it takes;
none while the set has only lines that stay. -/
def State.makeRoom (s : State) (line : Nat) (pin : Bool) : Option (State × Option (Cx × Fin 8)) :=
  let home := homeCore (line * 128)
  let own := s.ownWays home
  if own.length < 16 then some (s, none)
  else
    let mates := own.filter (fun p => sameSet p.1 line)
    let lent := if pin then [] else (s.core home).lent
    if mates.length < 16 then some (s, none)
    else
      match lent.find? (fun w => (s.lentMates line w).isEmpty) with
      | some w => some (s, some w)
      | none => (s.victim (mates ++ lent.flatMap (s.lentMates line))).map (fun p => (s.giveUp p.1, p.2.lent))

/-- The L2 slice of a device line's home holds it from now on, allocated by thread t, unless it holds it already (R291,
R294); a line that finds no way is not held. -/
def State.fillL2 (s : State) (t : Tid) (line : Nat) : State :=
  if foreign (line * 128) || (Tbl.find s.l2 line).isSome then s
  else
    match s.makeRoom line false with
    | some (s1, w) => { s1 with l2 := Tbl.put s1.l2 line ⟨t, w⟩ }
    | none => s

/-- The slice pins a line for thread t, never in a lent way (R301); where every way of its set is pinned, the limit of R304
alone refuses it (DESIGN CHOICE, log 12). A line that the slice held already goes on counting toward the context whose access
allocated it (R294). -/
def State.pinL2 (s : State) (t : Tid) (line : Nat) : State :=
  match Tbl.find s.l2 line with
  | some ⟨_, none⟩ => s
  | old =>
    let s1 := match (s.dropL2 line).makeRoom line true with
      | some (s1, _) => s1
      | none => s
    { s1 with l2 := Tbl.put s1.l2 line ⟨(old.map L2Line.who).getD t, none⟩ }

/-- The effect of a device read of a line on the caches. An uncached access, and an access to a pipped line, fills no
L1 (R291, R337). -/
def State.touchRead (s : State) (c : BitVec 6) (x : Cx) (unc : Bool) (line : Nat) : State :=
  let s1 := s.fillL2 ⟨c, x⟩ line
  if unc || s.pipped line || (s.core c).hasLine line then s1 else s1.readMiss c x line

/-- The effect of a device write of a line on the caches: ownership (R293), or a dirty pipped line (R301); a
host-homed line becomes modified (R374). -/
def State.touchWrite (s : State) (c : BitVec 6) (x : Cx) (unc : Bool) (line : Nat) : State :=
  let e := s.dirOf line
  let s1 : State := if foreign (line * 128)
    then { s with host := { s.host with modified := NatSet.add s.host.modified line } } else s.fillL2 ⟨c, x⟩ line
  if e.st == .pipped then s1.setDir line { e with dirty := true }
  else if unc then s1
  else s1.takeOwned c x line

/-! ### Bias (R371, R372) -/

/-- The bias bits of a page of device memory. -/
def State.biasOf (s : State) (page : Nat) : BitVec 2 := Tbl.getD s.host.bias page 0

/-- The page has host bias. -/
def State.hostBias (s : State) (pa : Nat) : Bool := (s.biasOf (pa / 4096)).getLsbD 0

/-- A flip of the page has begun and is not done. -/
def State.flipping (s : State) (page : Nat) : Bool := s.host.flips.any (fun f => f.page == page && f.begun)

/-! ### Whether an access may be performed now -/

/-- What an access to a line meets: it may be performed in the state; it waits, the state recording what it waits
for; a transaction of another party holds the line; the port's link is down; the line is orphaned (R375). -/
inductive Gate where
  | pass (s : State)
  | hold (s : State)
  | conflict (s : State)
  | linkDown
  | orphaned

/-- The transaction of a thread. -/
def State.txOf (s : State) (t : Tid) : Option Tx := (s.txs.find? (fun p => p.1 == t)).map (·.2)

/-- The state with a thread's transaction replaced. -/
def State.setTx (s : State) (t : Tid) (x : Tx) : State :=
  { s with txs := s.txs.map (fun p => if p.1 == t then (t, x) else p) }

/-- The transaction conflicts with an access to the line (R343): a write of a line in its read set, or any access to
a line in its write set. -/
def Tx.conflicts (x : Tx) (line : Nat) (write : Bool) : Bool :=
  x.wset.contains line || (write && x.rset.contains line)

/-- When a thread's transaction first accessed a line (R343). -/
def State.firstAt (s : State) (t : Tid) (line : Nat) : Option Nat := (s.txOf t).bind (fun x => Tbl.find x.first line)

/-- Every transaction, other than who's own, that an access to the line conflicts with. -/
def State.allRivals (s : State) (who : Option Tid) (line : Nat) (write : Bool) : List (Tid × Tx) :=
  s.txs.filter (fun p => (some p.1 != who) && p.2.conflicts line write)

/-- Who's own transaction accessed the line before the other one did: the earlier requester wins (R343). -/
def State.earlier (s : State) (who : Option Tid) (line : Nat) (x : Tx) : Bool :=
  match who.bind (fun t => s.firstAt t line), Tbl.find x.first line with
  | some k, some j => decide (k < j)
  | _, _ => false

/-- The transactions that an access to the line must give way to: those it conflicts with and did not precede. -/
def State.rivals (s : State) (who : Option Tid) (line : Nat) (write : Bool) : List (Tid × Tx) :=
  (s.allRivals who line write).filter (fun p => !(s.earlier who line p.2))

/-! ### Aborting a transaction (R342 to R344) -/

/-- `tstat` after an abort: the cause, the trap cause of cause 4, and the code already there (R344). -/
def abortStat (tstat : Word) (cause tcause : Nat) : Word :=
  (tstat &&& 0xFC00#64) ||| BitVec.ofNat 64 (cause * 2 ^ 4 + tcause * 2 ^ 16)

/-- Aborts the open transaction of a thread (R342): its stores are discarded, TXA is cleared, tstat and the
destination of the `tbegin` take the status, and the PC is the recorded one. In element-step mode the step ends (R364). -/
def State.abortTx (s : State) (t : Tid) (cause tcause : Nat) : State :=
  match s.txOf t with
  | none => s
  | some x =>
    let s1 := { s with txs := s.txs.filter (fun p => p.1 != t) }
    s1.onCtx t (fun c =>
      let st := abortStat c.tstat cause tcause
      { (c.setTxa false).setG x.dest st with
        tstat := st, pc := x.resume, waiting := false, wfi := none
        stepFx := if c.estep then some (x.resume - 4) else c.stepFx })

/-- The transactions that an access of who to a line conflicts with and preceded abort with cause 1 (R343). -/
def State.abortLater (s : State) (who : Option Tid) (write : Bool) (line : Nat) : State :=
  ((s.allRivals who line write).filter (fun p => s.earlier who line p.2)).foldl (fun s p => s.abortTx p.1 1 0) s

/-- The state with the rivals marked as blocking an access. -/
def State.markBlocks (s : State) (ts : List (Tid × Tx)) : State :=
  ts.foldl (fun s p => s.setTx p.1 { p.2 with blocks := true }) s

/-- A snoop of a line that a host may hold is sent: an invalidating one for a write or atomic (R371). -/
def State.snoop (s : State) (line : Nat) (write : Bool) : State :=
  { s with host := { s.host with
      snoops := NatSet.add s.host.snoops line
      snoopInv := if write then NatSet.add s.host.snoopInv line else s.host.snoopInv } }

/-- The gate of the host's cached copies under host bias (R371): an access waits for the answer to a snoop. Once the host
has given the line up, it is no longer tracked; a shared copy that it keeps serves one read. -/
def State.gateBias (s : State) (line : Nat) (write : Bool) : Gate :=
  if s.flipping (line / 32) || s.owningLine line then .hold s
  else
    match Tbl.find s.host.lines line with
    | none => .pass s
    | some h =>
      if h.granted then .pass { s with host := { s.host with lines := Tbl.drop s.host.lines line } }
      else if h.shared && !write then
        .pass { s with host := { s.host with lines := Tbl.put s.host.lines line { h with shared := false } } }
      else .hold (s.snoop line write)

/-- What an access by who (none: an agent other than a thread's LS path) to a line meets. -/
def State.gateLine (s : State) (who : Option Tid) (line : Nat) (write : Bool) : Gate :=
  let pa := line * 128
  let isDown : Bool :=
    match hostPortOf pa, peerPortOf pa with
    | some p, _ => s.host.down.getLsbD p.toNat
    | none, some k => s.host.peerDown.getLsbD k.toNat
    | none, none => false
  if s.host.orphans.contains line && !write then .orphaned
  else if isDown then .linkDown
  else
    let rv := s.rivals who line write
    if rv.isEmpty then s.gateBias line write else .conflict (s.markBlocks rv)

/-- What an access to several lines meets, in order. -/
def State.gateLines (s : State) (who : Option Tid) (write : Bool) : List Nat → Gate
  | [] => .pass s
  | l :: ls =>
    match s.gateLine who l write with
    | .pass s1 => s1.gateLines who write ls
    | g => g

/-- The state s of an access that must wait, with what the wait asked for in s1: snoops, and blocked transactions. -/
def State.holdFrom (s s1 : State) : State :=
  { s with
    host := { s.host with snoops := s1.host.snoops, snoopInv := s1.host.snoopInv }
    txs := s.txs.map (fun p => match s1.txOf p.1 with | some x => (p.1, { p.2 with blocks := p.2.blocks || x.blocks }) | none => p) }

/-- What an access to n bytes at pa meets. -/
def State.gate (s : State) (who : Option Tid) (pa n : Nat) (write : Bool) : Gate :=
  match s.gateLines who write (linesOf pa n) with
  | .pass s1 => .pass ((linesOf pa n).foldl (fun s l => s.abortLater who write l) s1)
  | .hold s1 => .hold (s.holdFrom s1)
  | .conflict s1 => .conflict (s.holdFrom s1)
  | g => g

/-- What a read of some lines by an agent that uses up no answer of a host meets, such as a page-table walk, an instruction
fetch or a read of a frame: none when it can be performed, else the state with what the wait asks for (R343, R371, R372). -/
def State.heldUp (s : State) (ls : List Nat) : Option State :=
  let held (l : Nat) : Bool := match Tbl.find s.host.lines l with | some h => !(h.granted || h.shared) | none => false
  if ls.any (fun l => s.flipping (l / 32) || s.owningLine l || held l || !(s.rivals none l false).isEmpty) then
    some (ls.foldl (fun s l => (if held l then s.snoop l false else s).markBlocks (s.rivals none l false)) s)
  else none

/-! ### Accesses of a thread's LS path -/

/-- An aborted transaction's cause, or a wait, for what a thread's access met. -/
def Gate.toRun (g : Gate) (s : State) (t : Tid) (va : Word) : Run State :=
  match g with
  | .pass s1 => .ok s1
  | .hold s1 => waitNow s1
  | .conflict s1 => if (s.txOf t).isSome then .error (.abort s 1 0) else waitNow s1
  | .linkDown => trapNow s .link va
  | .orphaned => trapNow s .poison va

/-- Inside a transaction, a line that a transaction does not admit aborts it with cause 9 (R343). -/
def State.admitLine (s : State) (t : Tid) (pa n : Nat) : Run Unit :=
  if (s.txOf t).isSome && (foreign pa || s.hostBias pa || (linesOf pa n).any s.pipped)
  then .error (.abort s 9 0) else .ok ()

/-- A transaction with the number n of the first access to some lines, where it has accessed them not before (R343). -/
def Tx.noteFirst (x : Tx) (ls : List Nat) (n : Nat) : Tx :=
  { x with first := ls.foldl (fun f l => if (Tbl.find f l).isSome then f else Tbl.put f l n) x.first }

/-- A transaction with lines read; more than 64 abort it with cause 2 (R343). -/
def Tx.noteRead (x : Tx) (ls : List Nat) : Tx :=
  { x with rset := List.foldl NatSet.add x.rset (ls.filter (fun l => !x.wset.contains l)) }

/-- A transaction with lines written; more than 32 abort it with cause 3 (R343). -/
def Tx.noteWrite (x : Tx) (ls : List Nat) : Tx :=
  { x with wset := List.foldl NatSet.add x.wset ls, rset := List.filter (fun l => !ls.contains l) x.rset }

/-- The state with a thread's transaction after an access to lines, numbered as the next first access. -/
def State.noteTx (s : State) (t : Tid) (x : Tx) (ls : List Nat) : State :=
  { s.setTx t (x.noteFirst ls s.firsts) with firsts := s.firsts + 1 }

/-- The bytes that a thread reads at pa: its own uncommitted stores first (R342). -/
def State.bytesFor (s : State) (t : Tid) (pa n : Nat) : List Byte :=
  match s.txOf t with
  | none => s.bytes pa n
  | some x => (List.range n).map (fun i => Tbl.getD x.writes (pa + i) (s.byte (pa + i)))

/-- A transaction has stored every byte of a granule. -/
def Tx.covers (x : Tx) (g : Nat) : Bool := (List.range 32).all (fun i => (Tbl.find x.writes (g * 32 + i)).isSome)

/-- A byte of the n from pa is poisoned for thread t: of the granules that its open transaction has stored whole it sees its
own stores (R342, R386). -/
def State.poisonedFor (s : State) (t : Tid) (pa n : Nat) : Bool :=
  match s.txOf t with
  | none => s.poisoned pa n
  | some x => s.poison.any (fun g => decide (g * 32 < pa + n) && decide (pa < (g + 1) * 32) && !(x.covers g))

/-- A thread's LS-path read of n bytes at virtual address va, physical address pa: the bytes and the state. The last
trap of R110 is POISON. -/
def lsRead (s : State) (t : Tid) (va : Word) (pa n : Nat) (unc : Bool) : Run (State × List Byte) := do
  s.admitLine t pa n
  let s1 ← (s.gate (some t) pa n false).toRun s t va
  if s1.poisonedFor t pa n then trapNow s .poison va
  let ls := linesOf pa n
  match s1.txOf t with
  | none => .ok (ls.foldl (fun s l => s.touchRead t.core t.cx unc l) s1, s1.bytes pa n)
  | some x =>
    let x1 := x.noteRead ls
    if x1.rset.length > 64 then .error (.abort s 2 0)
    else .ok (ls.foldl (fun s l => s.touchRead t.core t.cx unc l) (s1.noteTx t x1 ls), s1.bytesFor t pa n)

/-- A thread's LS-path write of bytes at virtual address va, physical address pa. Inside a transaction the bytes go
to the write set (R342). -/
def lsWrite (s : State) (t : Tid) (va : Word) (pa : Nat) (unc : Bool) (bs : List Byte) : Run State := do
  s.admitLine t pa bs.length
  let s1 ← (s.gate (some t) pa bs.length true).toRun s t va
  let ls := linesOf pa bs.length
  match s1.txOf t with
  | none => .ok ((ls.foldl (fun s l => s.touchWrite t.core t.cx unc l) s1).put pa bs)
  | some x =>
    let x1 := x.noteWrite ls
    if x1.wset.length > 32 then .error (.abort s 3 0)
    else
      let w := (bs.zipIdx pa).foldl (fun m p => Tbl.put m p.2 p.1) x1.writes
      let u := if unc then List.foldl NatSet.add x1.unc (ls.filter (fun l => !x.wset.contains l))
        else List.filter (fun l => !ls.contains l) x1.unc
      .ok (s1.noteTx t { x1 with writes := w, unc := u } ls)

/-! ### Accesses of the other agents -/

/-- A read of n bytes by an agent that is not a thread's LS path; none while it must wait. -/
def State.agentRead (s : State) (pa n : Nat) : State × Option (List Byte) :=
  match s.gate none pa n false with
  | .pass s1 => (s1, some (s1.bytes pa n))
  | .hold s1 | .conflict s1 => (s1, none)
  | .linkDown | .orphaned => (s, none)

/-- Bytes written at the home slices by an agent that is not a thread's LS path, which takes the lines from every L1 (R336); a
line homed elsewhere is held owned (R374), and a pending or live pipped line becomes dirty, as by a store (R301; of the device's
own frames and notices DEDUCED, log 9). -/
def State.homeWrite (s : State) (pa : Nat) (bs : List Byte) : State :=
  let s2 := (linesOf pa bs.length).foldl (fun s l =>
    let s' := s.uncacheLine l
    let e := s'.dirOf l
    let s'' : State := if foreign (l * 128)
      then { s' with host := { s'.host with modified := NatSet.add s'.host.modified l } } else s'
    if e.st == .pipped then s''.setDir l { e with dirty := true } else s'') s
  s2.put pa bs

/-- Such a write where it can be made now; false while it must wait. -/
def State.agentWrite (s : State) (pa : Nat) (bs : List Byte) : State × Bool :=
  match s.gate none pa bs.length true with
  | .pass s1 => (s1.homeWrite pa bs, true)
  | .hold s1 | .conflict s1 => (s1, false)
  | .linkDown | .orphaned => (s, false)

/-- The bias bits of a page written into the table at a base, at the home slice (R371); false while the write must wait. -/
def State.putBias (s : State) (base page : Nat) (b : BitVec 2) : State × Bool :=
  let a := base + page / 4
  let k := 4 ^ (page % 4)
  let old := (s.byte a).toNat
  s.agentWrite a [BitVec.ofNat 8 (old / (4 * k) * (4 * k) + b.toNat * k + old % k)]

/-! ### Pipped lines (R301 to R304) -/

/-- A directory entry is a line of the context's pip group. -/
def DirEntry.inGroup (e : DirEntry) (t : Tid) (g : BitVec 4) : Bool :=
  e.st == .pipped && e.core == t.core && e.cx == t.cx && e.group == g

/-- The lines of a context's pip group. -/
def State.groupLines (s : State) (t : Tid) (g : BitVec 4) : List (Nat × DirEntry) :=
  s.dir.filter (fun p => p.2.inGroup t g)

/-- pipq USE (R304): pending and live lines of the context's open groups, saturating. -/
def State.pipUse (s : State) (t : Tid) : Nat :=
  Nat.min 65535 (s.dir.countP (fun p => p.2.st == .pipped && p.2.core == t.core && p.2.cx == t.cx))

/-- The context's pending and live lines at one home slice (R304). -/
def State.pipsAt (s : State) (t : Tid) (home : BitVec 6) : Nat :=
  s.dir.countP (fun p => p.2.st == .pipped && p.2.core == t.core && p.2.cx == t.cx && homeCore (p.1 * 128) == home)

/-- All pinned lines at one home slice (R304). -/
def State.pinnedAt (s : State) (home : BitVec 6) : Nat :=
  s.dir.countP (fun p => p.2.st == .pipped && homeCore (p.1 * 128) == home)

/-- The poison of a line's four granules, granule 0 in bit 0. -/
def State.linePoison (s : State) (line : Nat) : BitVec 4 :=
  (List.range 4).foldl (fun b i => if s.poison.contains (line * 4 + i) then b ||| (1#4 <<< i) else b) 0

/-- The state with a line's bytes and poison set. -/
def State.setLine (s : State) (line : Nat) (bs : List Byte) (p : BitVec 4) : State :=
  (List.range 4).foldl
    (fun s i => if p.getLsbD i then { s with poison := NatSet.add s.poison (line * 4 + i) } else s)
    (s.put (line * 128) bs)

/-- A pipped line is dropped without a write-back (R302, R303 step 1): its entry leaves ST 3 and memory holds what it
held before the reservation. -/
def State.dropPipped (s : State) (line : Nat) : State :=
  let e := s.dirOf line
  let s1 := if e.dirty then s.setLine line e.saved e.savedPoison else s
  (s1.setDir line DirEntry.none).dropL2 line

/-- A live pipped line is closed (R303 step 2): a dirty one is written back, a clean one dropped; either way memory
holds its bytes. -/
def State.closePipped (s : State) (line : Nat) : State := (s.setDir line DirEntry.none).dropL2 line

/-- Reserves a line for a pip group (R301): taken from every L1, pending, with what memory held kept. -/
def State.reserveLine (s : State) (t : Tid) (line : Nat) (pips : BitVec 8) (g : BitVec 4) : State :=
  let s1 := (s.uncacheLine line).setDir line
    { DirEntry.none with
      st := .pipped, pips := pips, group := g, core := t.core, cx := t.cx, pending := true
      saved := s.bytes (line * 128) 128, savedPoison := s.linePoison line }
  s1.pinL2 t line

/-- Closes a pip group (R303): a pending line (its fill was discarded) is dropped without write-back, a live one is
closed, and the residue counts both and the lines that a bias flip closed. The group is closed afterwards. -/
def State.closeGroup (s : State) (t : Tid) (g : BitVec 4) : State × Nat :=
  let grp := (s.ctx t).groups[g.toNat]'(g.isLt)
  if grp.isOpen then
    let ls := s.groupLines t g
    let s1 := ls.foldl (fun s p => if p.2.pending then s.dropPipped p.1 else s.closePipped p.1) s
    (s1.onCtx t (fun c => { c with groups := c.groups.set g.toNat ⟨false, 0, 0⟩ g.isLt }), ls.length + grp.flipped)
  else (s, 0)

/-- A fill of the group is still under way (R303, step 1). -/
def Ctx.fillsGroup (c : Ctx) (g : BitVec 4) : Bool := c.xfers.any (fun x => x.op == .fill && x.group == g)

end Sys2Proof.Machine
end

