-- ==== Sys2Proof/Machine/Translate.lean ====
section
/-! DEFINITION. Address translation (R354 to R357): the untranslated regions, the page tables, the vector resident
table, and where a scalar access or an instruction fetch of a thread goes. -/

namespace Sys2Proof.Machine

/-- The untranslated regions (R354). -/
inductive Region where
  | command
  | remote
  | tile
  | queue
deriving DecidableEq, Repr

/-- The untranslated region that an address falls in. -/
def regionOf (va : Word) : Option Region :=
  match va.toNat / 2 ^ 40 with
  | 0xFFFFFC => some .command
  | 0xFFFFFD => some .remote
  | 0xFFFFFE => some .tile
  | 0xFFFFFF => some .queue
  | _ => none

/-- Bits 63:47 are all equal (R354). -/
def canonical (va : Word) : Bool := va.extractLsb' 47 17 == 0 || va.extractLsb' 47 17 == BitVec.allOnes 17

/-- A leaf of the page tables for an address: the physical address, uncached, the leaf's permissions, its position
tag and its level (0: 4 KiB, 1: 2 MiB, 2: 1 GiB). -/
structure Leaf where
  pa  : Nat
  unc : Bool
  r   : Bool
  w   : Bool
  x   : Bool
  tag : BitVec 8
  lvl : Nat
deriving DecidableEq, Repr

/-- A reserved bit of a page-table entry is set (R356). -/
def pteReserved (e : Word) : Bool := e.extractLsb' 52 4 != 0 || e.extractLsb' 8 4 != 0 || e.extractLsb' 4 3 != 0

/-- What the entry of a walk's table gives: the next table's address, or a leaf. -/
inductive Entry where
  | next (t : Nat)
  | leaf (l : Leaf)
deriving DecidableEq, Repr

/-- The entry that a walk reads at a level, checked in the order of R356; t is the table's address. -/
def State.walkEntry (s : State) (va : Word) (t lvl : Nat) : Except Cause Entry :=
  let at8 := t + 8 * (va.toNat / 2 ^ (12 + 9 * lvl) % 512)
  if !(populated t) then .error .page
  else if s.poisoned at8 8 then .error .poison
  else
    let e := s.dword at8
    let ppn := e.extractLsb' 12 40
    if !e.getLsbD 0 || pteReserved e then .error .page
    else if !e.getLsbD 1 && !e.getLsbD 2 && !e.getLsbD 3 then
      if lvl == 0 || e.extractLsb' 56 8 != 0 || e.getLsbD 7 then .error .page
      else .ok (.next (ppn.toNat * 4096))
    else if e.getLsbD 2 && !e.getLsbD 1 then .error .page
    else if lvl ≥ 3 then .error .page
    else if ppn.toNat % 2 ^ (9 * lvl) != 0 then .error .page
    else
      let pa := ppn.toNat * 4096 + va.toNat % 2 ^ (12 + 9 * lvl)
      if mapped pa 1 then
        .ok (.leaf ⟨pa, e.getLsbD 7, e.getLsbD 1, e.getLsbD 2, e.getLsbD 3, e.extractLsb' 56 8, lvl⟩)
      else .error .page

/-- The walk from the table at t, at a level and those below it (R356). -/
def State.walkAt (s : State) (va : Word) (t : Nat) : Nat → Except Cause Leaf
  | 0 =>
    match s.walkEntry va t 0 with
    | .ok (.leaf l) => .ok l
    | .ok (.next _) => .error .page
    | .error c => .error c
  | lvl + 1 =>
    match s.walkEntry va t (lvl + 1) with
    | .ok (.leaf l) => .ok l
    | .ok (.next t1) => s.walkAt va t1 lvl
    | .error c => .error c

/-- The page-table root of a tenant (R356); tenants are 0 to 16. -/
def State.root (s : State) (ten : BitVec 5) : Word := s.roots[ten.toNat % 17]'(Nat.mod_lt _ (by decide))

/-- Walks the page tables of a tenant's address space. -/
def State.walk (s : State) (ten : BitVec 5) (va : Word) : Except Cause Leaf :=
  if canonical va then s.walkAt va (s.root ten).toNat 3 else .error .page

/-- The lines of the entries that a walk from the table at t reads, at a level and those below it. -/
def State.walkFrom (s : State) (va : Word) (t : Nat) : Nat → List Nat
  | 0 => if populated t then [lineOf (t + 8 * (va.toNat / 2 ^ 12 % 512))] else []
  | lvl + 1 =>
    if populated t then
      lineOf (t + 8 * (va.toNat / 2 ^ (12 + 9 * (lvl + 1)) % 512)) ::
        (match s.walkEntry va t (lvl + 1) with
          | .ok (.next t1) => s.walkFrom va t1 lvl
          | _ => [])
    else []

/-- The lines of page tables that a walk reads. -/
def State.walkLines (s : State) (ten : BitVec 5) (va : Word) : List Nat :=
  if canonical va then s.walkFrom va (s.root ten).toNat 3 else []

/-- A walk whose reads must wait (R343, R371, R372): the state with what the wait asks for; none when it can be made. -/
def State.walkWaits (s : State) (ten : BitVec 5) (va : Word) : Option State := s.heldUp (s.walkLines ten va)

/-- The permission that an access needs (R356). -/
inductive Need where
  | read
  | write
  | both
  | fetch
deriving DecidableEq, Repr

/-- A leaf permits the access. -/
def Leaf.permits (l : Leaf) : Need → Bool
  | .read => l.r
  | .write => l.w
  | .both => l.r && l.w
  | .fetch => l.x

/-- Translates through the page tables with the permission check. The PERM of a leaf is resumable (R345). -/
def State.translate (s : State) (ten : BitVec 5) (va : Word) (k : Need) : Except Cause Leaf :=
  match s.walk ten va with
  | .ok l => if l.permits k then .ok l else .error .perm
  | .error c => .error c

/-! ### The vector resident table (R355) -/

/-- The first address of the vector window. -/
def windowBase : Nat := 0x4000000000

/-- Translates n bytes of a vector access through the resident table: the physical address and uncached, or the
cause it meets. -/
def Ctx.resident (c : Ctx) (va : Word) (n : Nat) (write : Bool) : Except Cause (Nat × Bool) :=
  let a := va.toNat
  if a < windowBase || 0xC000000000 ≤ a then .error .vwin
  else
    let j := (a - windowBase) / 0x4000000
    let e := Tbl.getD c.vrt j 0
    let pa := (e.extractLsb' 26 26).toNat * 0x4000000 + (a - windowBase) % 0x4000000
    if !e.getLsbD 63 then .error .vpage
    else if !mapped pa n then .error .vpage
    else if (if write then e.getLsbD 61 else e.getLsbD 62) then .ok (pa, e.getLsbD 60)
    else .error .perm

/-! ### Where a scalar access goes (R110, R214, R20) -/

/-- Where an access goes: memory at a physical address; a byte offset in a BUF tile of the thread's position; an
offset in the queue-port region. -/
inductive Place where
  | mem (pa : Nat) (unc : Bool)
  | tile (n : Fin 8) (off : Nat)
  | queue (off : Nat)
deriving DecidableEq, Repr

/-- The tile of a position is a BUF tile (R214). -/
def Position.isBuf (p : Position) (n : Nat) : Bool :=
  match p.image.tiles[n]? with
  | some t => t.role == 1
  | none => false

/-- The tile of a position is a BUF tile with REMOTE set (R308). -/
def Position.isRemote (p : Position) (n : Nat) : Bool :=
  match p.image.tiles[n]? with
  | some t => t.role == 1 && t.remote
  | none => false

/-- An access to n bytes at an offset of a tile waits for a packet (R226): that of the tile's record, or the last one of the
initial data that it reaches. -/
def Position.dataWaits (p : Position) (t off n : Nat) : Bool :=
  !(p.tileIn t) ||
    match p.image.tiles[t]? with
    | some d =>
      !p.coming.isEmpty && d.role == 1 && decide (off < d.initlen)
        && decide (p.arrived ≤ (d.initoff + Nat.min (off + n) d.initlen - 1) / 64)
    | none => false

/-- The same for a context's position. -/
def Ctx.dataWaits (c : Ctx) (t : Fin 8) (off n : Nat) : Bool :=
  match c.board with
  | some p => p.dataWaits t.val off n
  | none => false

/-- The place that a tile-window address names for a context: a BUF tile of its position, else none (R214). -/
def Ctx.tilePlace (c : Ctx) (va : Word) : Option (Fin 8 × Nat) :=
  let off := va.toNat % 2 ^ 40
  let n := off / 0x20000
  match c.board with
  | some p => if off < 0x100000 && p.isBuf n then some (Fin.ofNat 8 n, off % 0x20000) else none
  | none => none

/-- Inside a transaction, an access to an untranslated region aborts it with cause 9 (R343). -/
def txRegion (s : State) : Run Unit := if s.me.txa then .error (.abort s 9 0) else .ok ()

/-- Where a scalar access of n bytes by the moving thread goes, with the traps of R110 in their order: MISALIGN, then
PERM in place of PAGE for the untranslated regions, PAGE, PERM. rest says whether the access may reach a tile
(not an `ldc`) and a queue port (not an `ldc` or an atomic). -/
def scalarPlace (s : State) (va : Word) (n : Nat) (k : Need) (tileOk queueOk : Bool) : Run Place :=
  if va.toNat % n != 0 then trapNow s .misalign va
  else
    match regionOf va with
    | some .tile => do
      txRegion s
      match s.me.tilePlace va with
      | some (t, off) =>
        if !tileOk then trapNow s .perm va
        else if s.me.dataWaits t off n then waitNow s
        else .ok (.tile t off)
      | none => trapNow s .perm va
    | some .queue => do
      txRegion s
      if queueOk then .ok (.queue (va.toNat % 2 ^ 40)) else trapNow s .perm va
    | some _ => do
      txRegion s
      trapNow s .perm va
    | none =>
      match s.walkWaits s.me.tenant va with
      | some s1 => waitNow s1
      | none =>
        match s.translate s.me.tenant va k with
        | .ok l => .ok (.mem l.pa l.unc)
        | .error .perm => trapRes s .perm va true
        | .error c => trapNow s c va

/-- An access to a line meets a down link or an orphaned line (R375): the cause of a read, if any. -/
def State.linkFault (s : State) (line : Nat) : Option Cause :=
  match s.gateLine none line false with
  | .orphaned => some .poison
  | .linkDown => some .link
  | _ => none

/-- Where the instruction word at va is fetched from (R354, R357, R375). -/
def State.fetchPlace (s : State) (ten : BitVec 5) (va : Word) : Except (Cause × Bool) Nat :=
  if (regionOf va).isSome then .error (.perm, false)
  else
    match s.translate ten va .fetch with
    | .ok l =>
      match s.linkFault (lineOf l.pa) with
      | some c => .error (c, true)
      | none => if s.poisoned l.pa 4 then .error (.poison, true) else .ok l.pa
    | .error c => .error (c, true)

/-- The lines that the fetch of the word at va reads: those of its walk, and its own. -/
def State.fetchLines (s : State) (ten : BitVec 5) (va : Word) : List Nat :=
  s.walkLines ten va ++ (match s.translate ten va .fetch with | .ok l => [lineOf l.pa] | .error _ => [])

/-- A fetch of the word at va that must wait (R343, R371, R372). -/
def State.fetchWaits (s : State) (ten : BitVec 5) (va : Word) : Option State :=
  if (regionOf va).isSome then none else s.heldUp (s.fetchLines ten va)

/-- The tile with its bytes at an offset written. -/
def Tile.put (t : Tile) (off : Nat) (bs : List Byte) : Tile := { t with mem := Memory.writeBytes zeroByte t.mem off bs }

/-- The position with a tile changed. -/
def Position.onTile (p : Position) (n : Fin 8) (f : Tile → Tile) : Position :=
  { p with tiles := p.tiles.set n.val (f (p.tiles[n.val]'(n.isLt))) n.isLt }

/-- A tile of a position. -/
def Position.tile (p : Position) (n : Fin 8) : Tile := p.tiles[n.val]'(n.isLt)

end Sys2Proof.Machine
end

