-- ==== Sys2Proof/Machine/Xfer.lean ====
section
/-! DEFINITION. Handles and their regions (R296 to R300), the transfer unit: its addresses, its blocks, increments of
sync words (R306 to R311), pip fills (R301, R319), and the kind 4 and kind 6 progress records (R350). -/

namespace Sys2Proof.Machine

/-! ### Handles -/

/-- Handle h of a core. -/
def Core.handle (k : Core) (h : BitVec 6) : Handle := k.handles[h.toNat]'(h.isLt)

/-- The core with handle h replaced. -/
def Core.setHandle (k : Core) (h : BitVec 6) (x : Handle) : Core :=
  { k with handles := k.handles.set h.toNat x h.isLt }

/-- Handle h of a thread's core. -/
def State.handle (s : State) (t : Tid) (h : BitVec 6) : Handle := (s.core t.core).handle h

/-- The state with handle h of a thread's core changed. -/
def State.onHandle (s : State) (t : Tid) (h : BitVec 6) (f : Handle → Handle) : State :=
  s.onCore t.core (fun k => k.setHandle h (f (k.handle h)))

/-- The region of a handle in bytes: its offset. -/
def Handle.off (h : Handle) : Nat := 64 * h.offb.toNat

/-- The region of a handle in bytes: its size. -/
def Handle.size (h : Handle) : Nat := 64 * h.sizeb.toNat

/-- The handle names a region for a thread of the tenant (R297). -/
def Handle.names (h : Handle) (ten : BitVec 5) : Bool := h.buf.isSome && h.ten == ten

/-- The code of a handle state (R297). -/
def HState.code : HState → Nat
  | .free => 0
  | .filling => 1
  | .full => 2
  | .draining => 3
  | .spent => 4

/-- The code of a buffer (R297). -/
def bufCode : Option Buf → Nat
  | none => 0
  | some .w => 1
  | some .a => 2
  | some .c => 3

/-- The handle status word (R297). UNL shows how the last `copy` left the handle, in every state: also while it is DRAINING and
after a `drain.r` has made it FREE (DESIGN CHOICE, log 41: the table says 'FULL without a reader count'). -/
def Handle.status (h : Handle) : Word :=
  BitVec.ofNat 64 ((if h.unl then 0 else h.pips.toNat) * 2 ^ 48 + bufCode h.buf * 2 ^ 43 + h.st.code * 2 ^ 40
    + (if h.unl then 2 ^ 39 else 0) + h.offb.toNat * 2 ^ 24 + h.sizeb.toNat * 2 ^ 9)

/-- The size of a buffer in bytes (R296). -/
def bufSize : Buf → Nat
  | .w => 0x100000
  | .a => 0x80000
  | .c => 0x80000

/-- The bytes of a buffer of a core. -/
def Core.buf (k : Core) : Buf → Memory
  | .w => k.bufW
  | .a => k.bufA
  | .c => k.bufC

/-- The core with a buffer's bytes replaced. -/
def Core.setBuf (k : Core) (b : Buf) (m : Memory) : Core :=
  match b with
  | .w => { k with bufW := m }
  | .a => { k with bufA := m }
  | .c => { k with bufC := m }

/-- n bytes at an offset of a buffer. -/
def Core.bufBytes (k : Core) (b : Buf) (off n : Nat) : List Byte := Memory.readBytes zeroByte (k.buf b) off n

/-- The poisoned granules of a buffer. -/
def Core.bad (k : Core) : Buf → NatSet
  | .w => k.badW
  | .a => k.badA
  | .c => k.badC

/-- The core with a buffer's poisoned granules replaced. -/
def Core.setBad (k : Core) (b : Buf) (g : NatSet) : Core :=
  match b with
  | .w => { k with badW := g }
  | .a => { k with badA := g }
  | .c => { k with badC := g }

/-- The core with bytes written at an offset of a buffer; granules that they cover whole hold no poison (R386). -/
def Core.putBuf (k : Core) (b : Buf) (off : Nat) (bs : List Byte) : Core :=
  (k.setBuf b (Memory.writeBytes zeroByte (k.buf b) off bs)).setBad b
    ((k.bad b).filter (fun g => !(decide (off ≤ g * 32) && decide ((g + 1) * 32 ≤ off + bs.length))))

/-- The offset in the handle's region of the first poisoned byte of the n bytes at an offset of it. -/
def Core.firstBad (k : Core) (h : Handle) (off n : Nat) : Option Nat :=
  match h.buf with
  | some b =>
    if (k.bad b).isEmpty then none
    else ((List.range n).find? (fun i => (k.bad b).contains ((h.off + off + i) / 32))).map (· + off)
  | none => none

/-- n bytes at an offset of a handle's region; no bytes where it names none. -/
def Core.regionBytes (k : Core) (h : Handle) (off n : Nat) : List Byte :=
  match h.buf with
  | some b => k.bufBytes b (h.off + off) n
  | none => []

/-- The core with bytes written at an offset of a handle's region. -/
def Core.putRegion (k : Core) (h : Handle) (off : Nat) (bs : List Byte) : Core :=
  match h.buf with
  | some b => k.putBuf b (h.off + off) bs
  | none => k

/-- Two byte ranges overlap. -/
def overlap (a n b m : Nat) : Bool := decide (a < b + m) && decide (b < a + n)

/-- The handles that the instruction of a matrix job names. -/
def MxJob.handles : MxJob → List (BitVec 6)
  | .row hs .. => hs
  | .zero hs .. => hs

/-- A pending matrix job writes into the region. -/
def MxJob.touches (j : MxJob) (h : Handle) : Bool :=
  h.buf == some .c &&
    match j with
    | .row _ off .. => overlap off 256 h.off h.size
    | .zero _ off _ => overlap off 256 h.off h.size

/-- An earlier access of the thread to the handle's region is not performed yet (R299): a transfer of its own into or
out of an overlapping region, or a matrix job. -/
def State.regionBusy (s : State) (t : Tid) (h : BitVec 6) : Bool :=
  let hd := s.handle t h
  (s.ctx t).mxJobs.any (fun j => j.touches hd) ||
  (s.ctx t).xfers.any (fun x =>
    match x.handle with
    | some k => let o := s.handle t k; o.buf == hd.buf && overlap o.off o.size hd.off hd.size
    | none => false)

/-! ### Sync words (R306) -/

/-- A sync word after an increment of n bytes (R306). -/
def syncAdd (w : Word) (n : Nat) : Word :=
  let gen := (w.extractLsb' 56 8).toNat
  let count := (w.extractLsb' 28 28).toNat
  let target := (w.extractLsb' 0 28).toNat
  let big := Nat.min (count + n) (2 ^ 28 - 1)
  let (gen', count') :=
    if count > target then (gen, big)
    else if count + n = target then ((gen + 1) % 256, 0)
    else if count + n < target then (gen, count + n)
    else (gen, big)
  BitVec.ofNat 64 (gen' * 2 ^ 56 + count' * 2 ^ 28 + target)

/-! ### Remote tiles (R308) -/

/-- The tile and offset that an address of the remote tile window names: core, tile, offset. -/
def remotePlace (va : Word) : Option (BitVec 6 × Fin 8 × Nat) :=
  let off := va.toNat % 2 ^ 40
  if off < 0x4000000 then
    some (BitVec.ofNat 6 (off / 0x100000), Fin.ofNat 8 (off / 0x20000 % 8), off % 0x20000)
  else none

/-- The context of core c whose resident position, of the tenant, has the tile as a remote BUF tile (R308). -/
def State.remoteOwner (s : State) (c : BitVec 6) (n : Fin 8) (ten : BitVec 5) : Option Cx :=
  let ok (x : Cx) : Bool :=
    match ((s.core c).ctx x).board with
    | some p => p.isRemote n.val && ((s.core c).ctx x).tenant == ten
    | none => false
  if ok .n then some .n else if ok .u then some .u else none

/-- The state with a tile of a context's position changed. -/
def State.onTile (s : State) (t : Tid) (n : Fin 8) (f : Tile → Tile) : State :=
  s.onCtx t (fun c => { c with board := c.board.map (fun p => p.onTile n f) })

/-- The bytes of a tile of a context's position. -/
def State.tileBytes (s : State) (t : Tid) (n : Fin 8) (off len : Nat) : List Byte :=
  match (s.ctx t).board with
  | some p => Memory.readBytes zeroByte (p.tile n).mem off len
  | none => []

/-! ### The two ends of a transfer -/

/-- What the transfer unit meets at an address: done; must wait; a fault with cause and address (R309). -/
inductive Moved (α : Type) where
  | done (a : α)
  | wait (s : State)
  | fault (c : Cause) (va : Word)

/-- Reads n bytes of one source line piece at a virtual address for the transfer unit (R308): the bytes, and which of
them are poisoned. The poison itself is a fault of a copy, and travels with a pip fill (R305). -/
def State.unitRead (s : State) (ten : BitVec 5) (va : Word) (n : Nat) : Moved (State × List Byte × List Bool) :=
  match regionOf va with
  | some .remote =>
    match remotePlace va with
    | some (c, t, off) =>
      match s.remoteOwner c t ten with
      | some x =>
        if (s.ctx ⟨c, x⟩).dataWaits t off n then .wait s
        else .done (s, s.tileBytes ⟨c, x⟩ t off n, List.replicate n false)
      | none => .fault .perm va
    | none => .fault .perm va
  | some _ => .fault .perm va
  | none =>
    match s.walkWaits ten va with
    | some s1 => .wait s1
    | none =>
      match s.translate ten va .read with
      | .error c => .fault c va
      | .ok l =>
        match s.gate none l.pa n false with
        | .pass s1 => .done (s1, s1.bytes l.pa n, s1.poisonMap l.pa n)
        | .hold s1 | .conflict s1 => .wait s1
        | .linkDown | .orphaned => .fault .poison va

/-- Writes bytes of one destination line piece at a virtual address for the transfer unit (R308). -/
def State.unitWrite (s : State) (ten : BitVec 5) (va : Word) (bs : List Byte) : Moved State :=
  match regionOf va with
  | some .remote =>
    match remotePlace va with
    | some (c, t, off) =>
      match s.remoteOwner c t ten with
      | some x =>
        if (s.ctx ⟨c, x⟩).dataWaits t off bs.length then .wait s
        else .done (s.onTile ⟨c, x⟩ t (fun k => k.put off bs))
      | none => .fault .perm va
    | none => .fault .perm va
  | some _ => .fault .perm va
  | none =>
    match s.walkWaits ten va with
    | some s1 => .wait s1
    | none =>
      match s.translate ten va .write with
      | .error c => .fault c va
      | .ok l =>
        match s.gate none l.pa bs.length true with
        | .linkDown | .orphaned => .fault .poison va
        | _ =>
          match s.agentWrite l.pa bs with
          | (s1, true) => .done s1
          | (s1, false) => .wait s1

/-- Reads n bytes at a virtual address, split at line boundaries; the first poisoned byte faults when strict. -/
def State.unitReads (s : State) (ten : BitVec 5) (va : Word) (n : Nat) (strict : Bool) :
    Moved (State × List Byte × List Bool) :=
  let room := 128 - va.toNat % 128
  let n1 := Nat.min n room
  match s.unitRead ten va n1 with
  | .fault c a => .fault c a
  | .wait s1 => .wait s1
  | .done (s1, b1, p1) =>
    if strict && p1.any id then .fault .poison (va + BitVec.ofNat 64 (p1.findIdx id))
    else if n ≤ n1 then .done (s1, b1, p1)
    else
      let va2 := va + BitVec.ofNat 64 n1
      match s1.unitRead ten va2 (n - n1) with
      | .fault c a => .fault c a
      | .wait s2 => .wait s2
      | .done (s2, b2, p2) =>
        if strict && p2.any id then .fault .poison (va2 + BitVec.ofNat 64 (p2.findIdx id))
        else .done (s2, b1 ++ b2, p1 ++ p2)

/-! ### Blocks of a transfer (R309) -/

/-- The length of the destination block that starts at byte b of a transfer to destination offset d. -/
def blockLen (d b count : Nat) : Nat := Nat.min (128 - (d + b) % 128) (count - b)

/-- Checks the sync word of a transfer before its first byte (R314). -/
def State.syncOk (s : State) (ten : BitVec 5) (x : Xfer) : Bool :=
  x.sync == 0 ||
    match remotePlace x.sync with
    | some (c, t, off) => (s.remoteOwner c t ten).isSome && decide (off + 8 ≤ 0x20000)
    | none => false

/-- The transfer's sync word lies in initial data of its tile that has not arrived (R226): its increment waits. -/
def State.syncWaits (s : State) (ten : BitVec 5) (x : Xfer) : Bool :=
  x.sync != 0 &&
    match remotePlace x.sync with
    | some (c, t, off) =>
      match s.remoteOwner c t ten with
      | some cx => (s.ctx ⟨c, cx⟩).dataWaits t off 8
      | none => false
    | none => false

/-- Adds n bytes to the transfer's sync word (R306). -/
def State.syncBump (s : State) (ten : BitVec 5) (x : Xfer) (n : Nat) : State :=
  if x.sync == 0 || n == 0 then s
  else
    match remotePlace x.sync with
    | some (c, t, off) =>
      match s.remoteOwner c t ten with
      | some cx =>
        let w := BitVec.ofNat 64 (leNat (s.tileBytes ⟨c, cx⟩ t off 8))
        s.onTile ⟨c, cx⟩ t (fun k => k.put off (leBytes 8 (syncAdd w n).toNat))
      | none => s
    | none => s

/-- The physical line that the next bytes of a fill go to: as reserved, or, for a fill issued again from a record, by the
current translation. -/
def State.fillLine (s : State) (ten : BitVec 5) (x : Xfer) : Except Cause Nat :=
  match x.lines[x.done / 128]? with
  | some n => .ok n
  | none =>
    match s.translate ten (x.dst + BitVec.ofNat 64 x.done) .write with
    | .ok l => .ok (lineOf l.pa)
    | .error c => .error c

/-- What that translation waits for, if it must (R343, R371, R372). -/
def State.fillWaits (s : State) (ten : BitVec 5) (x : Xfer) : Option State :=
  match x.lines[x.done / 128]? with
  | some _ => none
  | none => s.walkWaits ten (x.dst + BitVec.ofNat 64 x.done)

/-- A fill takes its bytes from the line that it fills (R301), or the wait of the walk that tells. -/
def State.fillsItself (s : State) (ten : BitVec 5) (va : Word) (line : Nat) : Moved Bool :=
  if (regionOf va).isSome then .done false
  else
    match s.walkWaits ten va with
    | some s1 => .wait s1
    | none => .done (match s.translate ten va .read with | .ok l => l.pa == line * 128 | .error _ => false)

/-- Performs the block of a transfer of thread t that starts at its bytes done, with its increment: the state and the
new bytes done. -/
def State.xferBlock (s : State) (t : Tid) (x : Xfer) : Moved (State × Nat) :=
  let ten := (s.ctx t).tenant
  let at64 (a : Word) := a + BitVec.ofNat 64 x.done
  if x.done == 0 && !(s.syncOk ten x) then .fault .perm x.sync
  else if s.syncWaits ten x then .wait s
  else
    match x.op, x.handle with
    | .copy, some h =>
      let hd := s.handle t h
      let n := blockLen (hd.off + x.off) x.done x.count
      match s.unitReads ten (at64 x.src) n true with
      | .fault c a => .fault c a
      | .wait s1 => .wait s1
      | .done (s1, bs, _) =>
        .done ((s1.onCore t.core (fun k => k.putRegion hd (x.off + x.done) bs)), x.done + n)
    | .drain, some h | .drainR, some h =>
      let hd := s.handle t h
      let n := blockLen x.dst.toNat x.done x.count
      match s.unitWrite ten (at64 x.dst) ((s.core t.core).regionBytes hd (x.off + x.done) n) with
      | .fault c a => .fault c a
      | .wait s1 => .wait s1
      | .done s1 => .done (s1.syncBump ten x n, x.done + n)
    | .fill, _ =>
      -- one reserved line: its bytes arrive and the line becomes live (R301); a line no longer pending takes none
      -- (DEDUCED, log 9)
      match s.fillWaits ten x, s.fillLine ten x with
      | some s1, _ => .wait s1
      | none, .error c => .fault c (at64 x.dst)
      | none, .ok line =>
        let e := s.dirOf line
        if !(e.st == .pipped && e.pending) then .done (s, x.done + 128)
        else
        match s.fillsItself ten (at64 x.src) line with
        | .fault c a => .fault c a
        | .wait s1 => .wait s1
        | .done true => .done (s.setDir line { e with pending := false }, x.done + 128)
        | .done false =>
          match s.unitReads ten (at64 x.src) 128 false with
          | .fault c a => .fault c a
          | .wait s1 => .wait s1
          | .done (s1, bs, bad) =>
            let p := (List.range 4).foldl
              (fun b i => if (bad.drop (32 * i)).take 32 |>.any id then b ||| (1#4 <<< i) else b) 0
            .done ((s1.setLine line bs p).setDir line { e with pending := false, dirty := true }, x.done + 128)
    | _, _ =>
      let n := blockLen x.dst.toNat x.done x.count
      match s.unitReads ten (at64 x.src) n true with
      | .fault c a => .fault c a
      | .wait s1 => .wait s1
      | .done (s1, bs, _) =>
        match s1.unitWrite ten (at64 x.dst) bs with
        | .fault c a => .fault c a
        | .wait s2 => .wait s2
        | .done s2 => .done (s2.syncBump ten x n, x.done + n)

/-- How a run of blocks ends: every byte performed; a wait; a fault, with the blocks below it performed. -/
inductive Ran where
  | all (s : State)
  | wait (s : State) (done : Nat)
  | fault (s : State) (done : Nat) (c : Cause) (va : Word)

/-- Performs the remaining blocks of a transfer in ascending order; fuel bounds their number. -/
def State.xferRun (s : State) (t : Tid) (x : Xfer) : Nat → Ran
  | 0 => .all s
  | fuel + 1 =>
    if x.count ≤ x.done then .all s
    else
      match s.xferBlock t x with
      | .done (s1, d) => s1.xferRun t { x with done := d } fuel
      | .wait s1 => .wait (s.holdFrom s1) x.done
      | .fault c a => .fault s x.done c a

/-- Enough fuel for every block of a transfer. -/
def Xfer.fuel (x : Xfer) : Nat := x.count / 128 + 2

/-! ### The list of a context's transfers -/

/-- A context's transfer by number. -/
def Ctx.xfer (c : Ctx) (id : Nat) : Option Xfer := c.xfers.find? (fun x => x.id == id)

/-- A number that no transfer of the context has. -/
def Ctx.freshId (c : Ctx) : Nat := c.xfers.foldl (fun m x => Nat.max m (x.id + 1)) 0

/-- The context with a transfer replaced. -/
def Ctx.setXfer (c : Ctx) (x : Xfer) : Ctx :=
  { c with xfers := c.xfers.map (fun y => if y.id == x.id then x else y) }

/-- The context without a transfer, its copy counter one lower (R310). -/
def Ctx.dropXfer (c : Ctx) (id : Nat) : Ctx :=
  { c with xfers := c.xfers.filter (fun y => y.id != id), cp := c.cp - 1 }

/-- The context with a transfer issued, its copy counter one higher (R310). -/
def Ctx.addXfer (c : Ctx) (x : Xfer) : Ctx :=
  { c with xfers := c.xfers ++ [{ x with id := c.freshId, order := c.issued }], issued := c.issued + 1, cp := c.cp + 1 }

/-- The transfer unit holds at most 64 outstanding transfers of a context (R361). -/
def Ctx.xferFull (c : Ctx) : Bool := decide (64 ≤ c.xfers.length)

/-- A transfer with every optional field empty. -/
def Xfer.blank (op : XferOp) (tpc : Word) : Xfer where
  id := 0
  op := op
  handle := none
  sc := 2
  pips := 0
  dst := 0
  src := 0
  count := 0
  off := 0
  sync := 0
  done := 0
  lines := []
  faulted := none
  group := 0
  tpc := tpc
  xreq := false
  piece := 0
  req := 0
  aux := []
  notice := none
  order := 0

/-- A completed transfer's handle (R298): a copy makes it FULL with its pips, a drain returns it to the state it left,
a drain.r makes it FREE. The drains change neither PIPS (R315) nor UNL, which stays 1 (DESIGN CHOICE, log 41). -/
def Handle.complete (h : Handle) (x : Xfer) : Handle :=
  match x.op with
  | .copy => { h with st := .full, pips := x.pips, unl := x.pips == 0 }
  | .drain => { h with st := h.left }
  | .drainR => { h with st := .free }
  | _ => h

/-- A declined or discarded transfer's handle returns to the state it left (R309, R363). -/
def Handle.restore (h : Handle) (x : Xfer) : Handle :=
  match x.op with
  | .copy | .drain | .drainR => { h with st := h.left }
  | _ => h

/-- The state after a transfer has been taken from its context with its handle moved by f. -/
def State.endXfer (s : State) (t : Tid) (x : Xfer) (f : Handle → Xfer → Handle) : State :=
  let s1 := s.onCtx t (fun c => c.dropXfer x.id)
  match x.handle with
  | some h => s1.onHandle t h (fun k => f k x)
  | none => s1

/-! ### Records (R350) -/

/-- A list of bytes brought to a length with zeros. -/
def padTo (n : Nat) (bs : List Byte) : List Byte := (bs ++ List.replicate (n - bs.length) 0).take n

/-- The operation code of a kind 4 record. -/
def XferOp.code : XferOp → Nat
  | .copy => 0
  | .copyl => 1
  | .drain => 2
  | .drainR => 3
  | .fill => 4

/-- The operation of a code. -/
def xferOpOf : Nat → XferOp
  | 0 => .copy
  | 1 => .copyl
  | 2 => .drain
  | 3 => .drainR
  | _ => .fill

/-- The kind 4 record of a transfer; cz is byte 0x03, the cause in a COPY notice. The pip group and the pips of a fill stand
in the directory, and its record has zeros at 0x02 and 0x04 (R350). -/
def Xfer.record (x : Xfer) (cz : Nat) : List Byte :=
  padTo 64 (
    leBytes 1 x.op.code
    ++ leBytes 1 (match x.handle with | some h => h.toNat | none => 0xFF)
    ++ leBytes 1 (if x.op == .copyl then x.sc.toNat else 0)
    ++ leBytes 1 cz
    ++ leBytes 2 (if x.op == .copy then x.pips.toNat else 0) ++ leBytes 2 0
    ++ leBytes 8 x.dst.toNat ++ leBytes 8 x.src.toNat
    ++ leBytes 8 (x.count % 2 ^ 40 + x.off * 2 ^ 40)
    ++ leBytes 8 x.sync.toNat ++ leBytes 8 x.done)

/-- n bytes from offset o of a list, as a number. -/
def numAt (bs : List Byte) (o n : Nat) : Nat := leNat ((bs.drop o).take n)

/-- The transfer that a kind 4 record holds, issued by the instruction at tpc. -/
def xferOfRecord (r : List Byte) (tpc : Word) : Xfer :=
  let op := xferOpOf (numAt r 0 1)
  let h := numAt r 1 1
  { Xfer.blank op tpc with
    handle := if h < 64 then some (BitVec.ofNat 6 h) else none
    sc := BitVec.ofNat 2 (numAt r 2 1)
    pips := BitVec.ofNat 16 (numAt r 4 2)
    dst := BitVec.ofNat 64 (numAt r 8 8)
    src := BitVec.ofNat 64 (numAt r 0x10 8)
    count := numAt r 0x18 5
    off := numAt r 0x1D 3
    sync := BitVec.ofNat 64 (numAt r 0x20 8)
    done := numAt r 0x28 8 }

/-- What reading a recorded fill's pip group waits for, if it must. -/
def State.recordWaits (s : State) (ten : BitVec 5) (x : Xfer) : Option State :=
  if x.op == .fill then s.fillWaits ten x else none

/-- A recorded fill's pip group, as the directory has it for the next of its lines (R301). -/
def State.recordGroup (s : State) (ten : BitVec 5) (x : Xfer) : BitVec 4 :=
  match s.fillLine ten x with
  | .ok line => (s.dirOf line).group
  | .error _ => 0

/-- The kind 6 record of a `pfill` stopped at line i (R350). -/
def linesRecord (i : Nat) (ga gb gd : Word) : List Byte :=
  padTo 64 (leBytes 4 i ++ leBytes 4 0 ++ leBytes 8 ga.toNat ++ leBytes 8 gb.toNat ++ leBytes 8 gd.toNat)

/-! ### Pip fills (R319) -/

/-- How reserving the lines of a `pfill` ends: all reserved; or stopped at a line with a cause, the lines below
reserved. -/
inductive Reserved where
  | all (s : State)
  | wait (s : State)
  | stop (s : State) (i : Nat) (c : Cause) (res : Bool) (va : Word)

/-- Reserves the lines i to i + n - 1 of a `pfill` of thread t to destination ga (R319). -/
def State.reserveLines (s : State) (t : Tid) (ga : Word) (pips : BitVec 8) (g : BitVec 4) (i : Nat) : Nat → Reserved
  | 0 => .all s
  | n + 1 =>
    let va := ga + BitVec.ofNat 64 (128 * i)
    match (match regionOf va with
      | some _ => .fault .perm va
      | none =>
        match s.walkWaits (s.ctx t).tenant va with
        | some s1 => .wait s1
        | none =>
          match s.translate (s.ctx t).tenant va .write with
          | .ok l => .done l
          | .error c => .fault c va : Moved Leaf) with
    | .fault c _ => .stop s i c true va
    | .wait s1 => .wait s1
    | .done l =>
      let line := lineOf l.pa
      let home := homeCore l.pa
      if foreign l.pa then .stop s i .perm true va
      else if s.pipped line then .stop s i .perm true va
      else
        match s.gateLine none line true with
        | .hold s1 | .conflict s1 => .wait s1
        | .linkDown | .orphaned => .stop s i .perm true va
        | .pass s1 =>
          if decide ((s1.ctx t).quota.toNat ≤ s1.pipsAt t home) || decide (8192 ≤ s1.pinnedAt home) then
            .stop s1 i .pipfull true va
          else (s1.reserveLine t line pips g).reserveLines t ga pips g (i + 1) n

/-- The physical lines of the lines i to j - 1 of a `pfill`, which have been reserved. -/
def State.linesFrom (s : State) (ten : BitVec 5) (ga : Word) (i j : Nat) : List Nat :=
  (List.range (j - i)).filterMap (fun k =>
    match s.translate ten (ga + BitVec.ofNat 64 (128 * (i + k))) .write with
    | .ok l => some (lineOf l.pa)
    | .error _ => none)

/-- The fill transfer of the lines i to j - 1 of a `pfill` (R319). -/
def State.fillXfer (s : State) (ten : BitVec 5) (tpc ga gb : Word) (pips : BitVec 8) (g : BitVec 4) (i j : Nat) : Xfer :=
  { Xfer.blank .fill tpc with
    dst := ga + BitVec.ofNat 64 (128 * i)
    src := gb + BitVec.ofNat 64 (128 * i)
    count := 128 * (j - i)
    pips := BitVec.zeroExtend 16 pips
    group := g
    lines := s.linesFrom ten ga i j }

/-- A pip group once a `pfill` of a thread of the tenant has opened it (R301). -/
def PipGroup.opened (g : PipGroup) (ten : BitVec 5) : PipGroup := if g.isOpen then g else ⟨true, 0, ten⟩

/-- Carries a `pfill` of thread t on from line i (R319): its lines are reserved, its group opens, and the fill of the
reserved lines is issued. A stop gives the trap with its kind 6 record. -/
def State.fillFrom (s : State) (t : Tid) (tpc rpc ga gb gd : Word) (i : Nat) : Run State :=
  let pips := gd.extractLsb' 0 8
  let g := gd.extractLsb' 8 4
  let count := (gd.extractLsb' 12 16).toNat
  let opened := s.onCtx t (fun c => { c with groups := c.groups.set g.toNat (c.groups[g.toNat]'(g.isLt) |>.opened c.tenant) g.isLt })
  match opened.reserveLines t ga pips g i (count - i) with
  | .wait s1 => waitNow (s.holdFrom s1)
  | .all s1 => .ok (s1.onCtx t (fun c => c.addXfer (s1.fillXfer (s.ctx t).tenant tpc ga gb pips g i count)))
  | .stop s1 j c res va =>
    let s2 := if j = i then s1 else s1.onCtx t (fun k => k.addXfer (s1.fillXfer (s.ctx t).tenant tpc ga gb pips g i j))
    .error (.trap s2 ⟨c.num, va, tpc, rpc, res, false, 6, linesRecord j ga gb gd, []⟩)

end Sys2Proof.Machine
end

