-- ==== Sys2Proof/Machine/Ops.lean ====
section
/-! DEFINITION. The operations that every family shares: notices to the executive (R352), taking a trap (R346 to
R349) and returning from one (R351), aborting a transaction (R342), how a meaning ends, and orderings under the
tenant scope limit (R340). -/

namespace Sys2Proof.Machine

/-! ### Notices (R352) -/

/-- The 64 bytes of a notice with its sequence number. -/
def Notice.bytes (n : Notice) (seq : BitVec 32) : List Byte :=
  leBytes 1 n.type ++ leBytes 1 (if n.cx then 1 else 0) ++ leBytes 1 n.core ++ leBytes 1 n.tenant.toNat
    ++ leBytes 4 seq.toNat ++ leBytes 8 n.a.toNat ++ leBytes 8 n.b.toNat ++ leBytes 8 n.c.toNat ++ padTo 32 n.more

/-- The ring of a core is full (R352). -/
def Core.ringFull (k : Core) : Bool := k.tail - k.head == 1024

/-- Where the next notice of a core goes (R352). -/
def Core.noticeAt (k : Core) : Nat := k.tvec.toNat + 64 * (k.tail.toNat % 1024)

/-- The state in which an access has passed its gate. -/
def State.passed (s : State) (g : Gate) : State :=
  match g with
  | .pass s1 => s1
  | _ => s

/-- The state with what a waiting access asked for, if it must wait. -/
def Gate.held (g : Gate) : Option State :=
  match g with
  | .hold s1 | .conflict s1 => some s1
  | _ => none

/-- Writes one notice into the ring of core c, on the SV path. -/
def State.writeNotice (s : State) (c : BitVec 6) (bs : List Byte) : State :=
  let pa := (s.core c).noticeAt
  ((s.passed (s.gate none pa 64 true)).homeWrite pa bs).onCore c (fun k => { k with tail := k.tail + 1 })

/-- A notice to core c must wait: older ones wait, its ring is full, or the access to its entry waits. -/
def State.noticeWaits (s : State) (c : BitVec 6) : Option State :=
  let k := s.core c
  if !k.notices.isEmpty || k.ringFull then some s else (s.gate none k.noticeAt 64 true).held

/-- Sends a notice to the ring of core c: it is written, or waits in order while it must; none is dropped. -/
def State.notify (s : State) (c : BitVec 6) (n : Notice) : State :=
  let k := s.core c
  let bs := n.bytes k.nseq
  let s1 := s.onCore c (fun k => { k with nseq := k.nseq + 1 })
  match s.noticeWaits c with
  | none => s1.writeNotice c bs
  | some s2 => (s1.holdFrom s2).onCore c (fun k => { k with notices := k.notices ++ [bs] })

/-- A notice about a thread, for the ring of its core. -/
def State.threadNotice (s : State) (t : Tid) (type : Nat) (a b c : Word) (more : List Byte) : Notice :=
  ⟨type, t.cx == .u, t.core.toNat, (s.ctx t).tenant, a, b, c, more⟩

/-- A LAUNCH, QFULL or QFAULT notice, for the ring of local core 0 of a die (R352). -/
def State.dieNotify (s : State) (die : BitVec 2) (ten : BitVec 5) (type : Nat) (a b c : Word) (more : List Byte) :
    State :=
  s.notify (die ++ 0#4) ⟨type, false, 0xFF, ten, a, b, c, more⟩

/-! ### Taking a trap (R346 to R349) -/

/-- The `tcause` value of a trap (R348). -/
def Trap.tcause (q : Trap) : Word :=
  BitVec.ofNat 64 ((if q.res then 2 ^ 16 else 0) + (if q.asy then 2 ^ 15 else 0) + q.kind * 2 ^ 8 + q.cause)

/-- The 256 bytes of a trap frame (R349). -/
def frameBytes (q : Trap) (seq : BitVec 32) (clock : Word) : List Byte :=
  leBytes 8 q.tcause.toNat ++ leBytes 8 q.tpc.toNat ++ leBytes 8 q.tval.toNat ++ leBytes 8 q.rpc.toNat
    ++ leBytes 4 1 ++ leBytes 4 seq.toNat ++ leBytes 8 clock.toNat ++ leBytes 16 0
    ++ padTo 64 q.prog ++ padTo 64 q.aux ++ leBytes 64 0

/-- A frame of 256 bytes meets a down link or an orphaned line (R375). -/
def State.frameFault (s : State) (pa : Nat) : Option Cause := (linesOf pa 256).findSome? s.linkFault

/-- Where a thread's frame lies: its physical address, or none when it cannot be written (R348): a translation
fault, poison, an address that is no memory, or one behind a link that is down (R375, DEDUCED, log 42). -/
def State.framePlace (s : State) (t : Tid) : Option Nat :=
  let fa := (s.ctx t).tframe
  if (regionOf fa).isSome then none
  else
    match s.translate (s.ctx t).tenant fa .write with
    | .ok l => if s.poisoned l.pa 256 || (s.frameFault l.pa).isSome then none else some l.pa
    | .error _ => none

/-- What the access to a thread's frame waits for, if it must (R343, R371, R372). -/
def State.frameWaits (s : State) (t : Tid) : Option State :=
  let fa := (s.ctx t).tframe
  if (regionOf fa).isSome then none
  else
    match s.walkWaits (s.ctx t).tenant fa with
    | some s1 => some s1
    | none => (s.framePlace t).bind (fun pa => (s.gate none pa 256 true).held)

/-- The address of the frame. -/
def Ctx.frameAddr (c : Ctx) : Word := c.tframe

/-- The thread stops issuing: the state of its context in a trap, its trap count one higher (R346, R349). -/
def Ctx.stopFor (c : Ctx) (r : RunState) : Ctx :=
  { c with run := r, waiting := false, pushWait := false, wfi := none, mxWait := none, seq := c.seq + 1 }

/-- Taking a trap now (R346): the frame is written at `tframe` with its VALID mark, `tcause`, `tpc` and `tval` take its
values, a TRAP notice is sent and the thread is suspended. With VALID already set, or with a frame that cannot be
written, nothing is written, the thread is held, and a DOUBLE or FRAME notice is sent (R348). -/
def State.trapNow (s : State) (t : Tid) (q : Trap) : State :=
  let c := s.ctx t
  match s.framePlace t with
  | none =>
    (s.onCtx t (fun c => c.stopFor .held)).notify t.core
      (s.threadNotice t 3 c.frameAddr q.tcause q.tval [])
  | some pa =>
    if (s.byte (pa + 0x20)).getLsbD 0 then
      (s.onCtx t (fun c => c.stopFor .held)).notify t.core
        (s.threadNotice t 2 q.tcause q.tpc q.tval [])
    else
      let s1 := (s.passed (s.gate none pa 256 true)).homeWrite pa (frameBytes q (c.seq + 1) s.clock)
      let s2 := s1.onCtx t (fun c =>
        { c.stopFor .suspended with tcause := q.tcause, tpc := q.tpc, tval := q.tval })
      s2.notify t.core (s.threadNotice t 1 q.tcause q.tpc q.tval (leBytes 8 c.frameAddr.toNat))

/-- The thread stops issuing and its trap waits (R352). -/
def Ctx.pendFor (c : Ctx) (q : Trap) : Ctx := { c with pendTrap := some q, run := .running, waiting := false }

/-- Taking a trap (R346): at once, or, while the notice ring has no room for its notice (R352) or an access to the frame
or to the ring must wait, as soon as it can be. -/
def State.takeTrap (s : State) (t : Tid) (q : Trap) : State :=
  match s.noticeWaits t.core with
  | some s1 => (s.holdFrom s1).onCtx t (fun c => c.pendFor q)
  | none =>
    match s.frameWaits t with
    | some s1 => (s.holdFrom s1).onCtx t (fun c => c.pendFor q)
    | none => s.trapNow t q

/-- A thread tries its waiting trap again. -/
def State.retryTrap (s : State) (t : Tid) (q : Trap) : State := (s.onCtx t (fun c => { c with pendTrap := none })).takeTrap t q

/-! ### Trap conditions and transactions (R343) -/

/-- A trap condition of the thread: a trap, or, inside a transaction, an abort with cause 4 (R343). -/
def State.raise (s : State) (t : Tid) (q : Trap) : State :=
  if (s.txOf t).isSome then s.abortTx t 4 q.cause else s.takeTrap t q

/-! ### How a meaning ends -/

/-- The next state of a meaning: its answer, the trap taken, the transaction aborted, or the thread waiting. -/
def settle : Run State → State
  | .ok s => s
  | .error (.trap s q) => s.raise s.cur q
  | .error (.abort s c tc) => s.abortTx s.cur c tc
  | .error (.wait s) => s.onMe (fun c => { c with waiting := true })

/-- The outcome of a meaning: every instruction answers a next state (R346). -/
def finish (r : Run State) : Host.Outcome State Fault Refusal := .next (settle r)

/-- The ILLOP trap of an instruction that decodes and may not execute (R62): tval holds its words. -/
def illop {α : Type} (s : State) (i : Instr) : Run α :=
  match encode i with
  | some w => trapNow s .illop (w.second ++ w.first)
  | none => trapNow s .illop 0

/-- Goes on when b holds, else ILLOP of the instruction. -/
def legal (s : State) (i : Instr) (b : Bool) : Run Unit := if b then .ok () else illop s i

/-! ### Orderings -/

/-- The tenant of the moving thread is limited to dev scope (R340). -/
def State.scopeLimited (s : State) : Bool := s.limited.getLsbD s.me.tenant.toNat

/-- An ordering at a scope: accesses are performed at once and in order in this model (DESIGN CHOICE, log 6), so its effect is the
tenant rule alone: a `sys` scope under the limit is carried out at `dev`, and SDN is set (R340). -/
def State.order (s : State) (scope : BitVec 2) : State :=
  if scope == 3 && s.scopeLimited then s.onMe (fun c => c.setSdn) else s

/-! ### Returning from a trap (R351) -/

/-- The words at an address, as an instruction fetch reads them: the first, and the second of a long form. -/
def State.fetchWords (s : State) (t : Tid) (va : Word) : Except (Cause × Word × Bool) (BitVec 32 × BitVec 32) :=
  match s.fetchPlace (s.ctx t).tenant va with
  | .error (c, r) => .error (c, va, r)
  | .ok pa =>
    let w := BitVec.ofNat 32 (s.num pa 4)
    if isLongWord w then
      match s.fetchPlace (s.ctx t).tenant (va + 4) with
      | .error (c, r) => .error (c, va + 4, r)
      | .ok pb => .ok (w, BitVec.ofNat 32 (s.num pb 4))
    else .ok (w, 0)

/-- A fetch of the words at an address that must wait (R343, R371, R372). -/
def State.wordsWait (s : State) (t : Tid) (va : Word) : Option State :=
  let ten := (s.ctx t).tenant
  match s.fetchWaits ten va with
  | some s1 => some s1
  | none =>
    match s.fetchPlace ten va with
    | .ok pa => if isLongWord (BitVec.ofNat 32 (s.num pa 4)) then s.fetchWaits ten (va + 4) else none
    | .error _ => none

/-- The spilled accesses of an AGEN issued again (R240, R246). -/
def AgenState.reissue (a : AgenState) : AgenState :=
  { a with blocked := false, accs := a.accs.map (fun x =>
      match x.st with
      | .spilled _ => { x with st := .issued }
      | _ => x) }

/-- A position with the spilled accesses of every AGEN issued again. -/
def Position.reissue (p : Position) : Position :=
  { p with pieces := p.pieces.map (fun e =>
      (e.1, match e.2.kind with
        | .agen a => { e.2 with kind := .agen a.reissue }
        | _ => e.2)) }

/-- A held invocation resumes from its cut (R243, R351), its spilled elements replayed (R240) and its declined requests
issued again (R311); it counts again in its class counter. -/
def Ctx.resumeInv (c : Ctx) : Ctx :=
  match c.inv with
  | some v =>
    { c with
      inv := some { v with held := false, cut := none, quiet := 0, stall := 0 }
      board := c.board.map Position.reissue
      xfers := c.xfers.map (fun x => if x.xreq && x.notice.isNone then { x with faulted := none } else x)
      fx := c.fx + 1 }
  | none => c

/-- The context holds a held invocation. -/
def Ctx.isHeld (c : Ctx) : Bool := match c.inv with | some v => v.held | none => false

/-- The context holds an invocation that a pre-emption or a save has cut, and that no frame records: it goes on with the
thread (R247, R360). -/
def Ctx.heldBare (c : Ctx) : Bool :=
  match c.inv with
  | some v => v.held && (match v.cut with | some q => q.cause == 0 && q.prog.isEmpty | none => false)
  | none => false

/-- The context goes on at pc: it runs, and an invocation that no frame records goes on with it. -/
def Ctx.goOn (c : Ctx) (pc : Word) : Ctx :=
  let c1 := { c with pc := pc, waiting := false, run := .running }
  if c.heldBare then c1.resumeInv else c1

/-- The reissue of a recorded transfer of thread t waits: its handle is not ready, an earlier access of the thread to
its region is not performed, or the transfer unit is full (R298, R299, R361). -/
def State.reissueWaits (s : State) (t : Tid) (x : Xfer) : Bool :=
  (s.ctx t).xferFull ||
    match x.handle with
    | some h =>
      let st := (s.handle t h).st
      (x.op == .copy && (st == .filling || st == .draining || st == .full))
        || ((x.op == .drain || x.op == .drainR) && (st == .filling || st == .draining)) || s.regionBusy t h
    | none => false

/-- A recorded transfer of thread t outstanding again from its bytes done; a fill's group is the one that the directory has for
its lines (R301). -/
def State.addRecorded (s : State) (t : Tid) (x : Xfer) : State :=
  let y := if x.op == .fill then { x with group := s.recordGroup (s.ctx t).tenant x } else x
  s.onCtx t (fun c => c.addXfer y)

/-- Issues a recorded transfer of thread t again from its bytes done, its handle moving as the instruction moves it
(R309, R351). -/
def State.reissue (s : State) (t : Tid) (x : Xfer) : State :=
  let s1 := s.addRecorded t x
  match x.handle, x.op with
  | some h, .copy => s1.onHandle t h (fun k => { k with st := .filling, left := k.st })
  | some h, .drain | some h, .drainR => s1.onHandle t h (fun k => { k with st := .draining, left := k.st })
  | _, _ => s1

/-- The frame of the thread s.cur for `tret` or RESUME (R348, R351): where it lies, or the trap or the wait that its
access meets. -/
def frameForReturn (s : State) : Run Nat :=
  let fa := s.me.frameAddr
  let ten := s.me.tenant
  if (regionOf fa).isSome then trapNow s .perm fa
  else
    match s.walkWaits ten fa with
    | some s1 => waitNow (s.holdFrom s1)
    | none =>
      match s.translate ten fa .write with
      | .error .perm => trapRes s .perm fa true
      | .error e => trapNow s e fa
      | .ok l =>
        match s.frameFault l.pa, (s.gate none l.pa 256 true).held with
        | some e, _ => trapNow s e fa
        | none, some s1 => waitNow (s.holdFrom s1)
        | none, none => if s.poisoned l.pa 256 then trapNow s .poison fa else .ok l.pa

/-- The PC at an address of a frame: bits 1:0 of a PC are always zero (R42, DEDUCED, log 42). -/
def alignPc (a : Word) : Word := a &&& ~~~(3#64)

/-- A kind 1 record that the frame at an address gives back, with the element at which its instruction was issued and whether
its lane group 0 is complete, as its trap noted them; without a note, element 0 and what the counters say (DEDUCED, log 7). -/
def Ctx.vectorGiven (c : Ctx) (fa : Word) (e : List Nat) : Resumed :=
  let (k, full, _) := Tbl.getD c.issuedAt fa.toNat (0, false, none)
  .vector .given (Nat.min k (e.foldl Nat.min 8192)) (if full then e.set 0 8192 else e)

/-- The context with noted what the record of a trap to its frame does not say. -/
def Ctx.noteIssue (c : Ctx) (k : Nat) (full : Bool) : Ctx :=
  { c with issuedAt := Tbl.put c.issuedAt c.frameAddr.toNat (k, full, c.cvtSrc), cvtSrc := none }

/-- The rows of the `mmab` at pc that has left its wait for the trap whose frame is at fa: it restarts at them (R275, R347; DEDUCED,
log 42). -/
def Ctx.takeRows (c : Ctx) (fa pc : Word) : Ctx :=
  match Tbl.find c.leftRows fa.toNat with
  | some (at_, k, tag, pip) =>
    if at_ == pc then { c with resumed := some (.matrix .given k tag pip), leftRows := Tbl.drop c.leftRows fa.toNat } else c
  | none => c

/-- Returning from a trap (R351), for the thread s.cur: the checks, the VALID mark cleared, and the recorded work given
back to the context, which goes on with it. A trap of the checks is taken with the mark as it stood. The held invocation that a
kind 2 frame gives back goes on beside the thread: in element-step mode it takes no STEP of its own (DESIGN CHOICE, log 53: R364 does
not say whether it is the instruction resumed). -/
def returnFrom (s : State) : Run State := do
  let t := s.cur
  let c := s.me
  let fa := c.frameAddr
  let pa ← frameForReturn s
  let cause := s.num pa 8
  let kind := cause / 2 ^ 8 % 16
  let tpc := s.dword (pa + 0x08)
  let rpc := alignPc (s.dword (pa + 0x18))
  let prog := s.bytes (pa + 0x40) 64
  if !((s.byte (pa + 0x20)).getLsbD 0 && decide (cause / 2 ^ 16 % 2 = 1)) then trapNow s .perm fa
  if kind == 1 || kind == 3 then
    match s.wordsWait t rpc with
    | some s1 => waitNow (s.holdFrom s1)
    | none =>
      match s.fetchWords t rpc with
      | .error (e, va, r) => trapRes s e va r
      | .ok (w, w2) =>
        if !(w.toNat == numAt prog 0x10 4 && w2.toNat == numAt prog 0x14 4) then trapNow s .perm rpc
  if kind == 2 && !c.isHeld then trapNow s .stream 0x0700
  let s1 := (s.passed (s.gate none pa 256 true)).homeWrite (pa + 0x20) (leBytes 4 (s.num (pa + 0x20) 4 / 2 * 2))
  let s2 := s1.onMe (fun c => c.goOn rpc)
  let give (r : Resumed) : State := s2.onMe (fun c => { c with resumed := some r })
  let dw (o : Nat) : Word := BitVec.ofNat 64 (numAt prog o 8)
  match kind with
  | 1 =>
    .ok ((give (c.vectorGiven fa ((List.range 8).map (fun j => numAt prog (2 * j) 2)))).onMe
      (fun c => { c with
        cvtSrc := (Tbl.getD c.issuedAt fa.toNat (0, false, none)).2.2, issuedAt := Tbl.drop c.issuedAt fa.toNat }))
  | 2 => .ok (s2.onMe (fun c => (if c.isHeld then c.resumeInv else c).takeRows fa rpc))
  | 3 => .ok (give (.matrix .given (numAt prog 0 4) (BitVec.ofNat 16 (numAt prog 4 2)) (decide (numAt prog 6 1 % 2 = 1))))
  | 4 => .ok (give (.copy (xferOfRecord prog tpc)))
  | 6 => .ok (give (.lines tpc (dw 0x08) (dw 0x10) (dw 0x18) (numAt prog 0 4)))
  | _ => .ok s2

/-- The recorded work of a thread goes on before the instruction at its PC (R309, R319, R351): the transfer is issued
again, or the `pfill` continues, once neither must wait; a fresh stop of a continued `pfill` records the address of the
`pfill` and resumes at the PC. -/
def State.resumeWork (s : State) (t : Tid) : State :=
  let c := s.ctx t
  let clear (c : Ctx) : Ctx := { c with resumed := none, waiting := false }
  let wait (s : State) : State := s.onCtx t (fun c => { c with waiting := true })
  match c.resumed with
  | some (.copy x) =>
    if s.reissueWaits t x then wait s
    else
      match s.recordWaits c.tenant x with
      | some s1 => wait (s.holdFrom s1)
      | none => (s.onCtx t (fun c => (clear c).takeRows c.frameAddr c.pc)).reissue t x
  | some (.lines tpc ga gb gd i) =>
    if c.xferFull then wait s
    else
      match (s.onCtx t clear).fillFrom t tpc c.pc ga gb gd i with
      | .ok s1 => s1
      | .error (.trap s1 q) => s1.takeTrap t q
      | .error (.wait s1) => wait (s.holdFrom s1)
      | .error (.abort _ _ _) => wait s
  | _ => s

/-- Recorded work goes on before the instruction at the PC. -/
def Ctx.hasWork (c : Ctx) : Bool :=
  match c.resumed with
  | some (.copy _) | some (.lines ..) => true
  | _ => false

end Sys2Proof.Machine
end

