-- ==== Sys2Proof/Machine/Operands.lean ====
section
/-! DEFINITION. The operand forms of scalar instructions: immediates and displacements (R57), sizes and extensions
(R112), the special registers' values (R49 to R55) and the integer results of the ALU, MDV and AMO tables. -/

namespace Sys2Proof.Machine

/-! ### Immediates and addresses (R57) -/

/-- A sign-extended immediate. -/
def sextW {n : Nat} (i : BitVec n) : Word := i.signExtend 64

/-- The target of a branch or `jal`: PC + sext(disp) × 4 (R57). -/
def target {n : Nat} (pc : Word) (disp : BitVec n) : Word := pc + (disp.signExtend 62 ++ 0#2)

/-- The upper immediate sext(imm16) × 65,536 (R99). -/
def upper (i : BitVec 16) : Word := (i ++ 0#16).signExtend 64

/-- The address G(a) + sext(disp) of the M format (R57). -/
def memAddr {n : Nat} (base : Word) (disp : BitVec n) : Word := base + sextW disp

/-! ### The w field (R112) -/

/-- The bytes of a scalar access. -/
def widthBytes (w : BitVec 3) : Nat :=
  match w.toNat with
  | 0 | 1 => 1
  | 2 | 3 => 2
  | 4 | 5 => 4
  | _ => 8

/-- A loaded value extended as w selects. -/
def extend (w : BitVec 3) (x : Nat) : Word :=
  match w.toNat with
  | 0 => (BitVec.ofNat 8 x).signExtend 64
  | 2 => (BitVec.ofNat 16 x).signExtend 64
  | 4 => (BitVec.ofNat 32 x).signExtend 64
  | _ => BitVec.ofNat 64 x

/-! ### Integer results (R96, R100, R101) -/

/-- 1 or 0. -/
def boolWord (b : Bool) : Word := if b then 1 else 0

/-- Leading zero bits of a (R96). -/
def clzWord (a : Word) : Word := if a = 0 then 64 else BitVec.ofNat 64 (63 - Nat.log2 a.toNat)

/-- Trailing zero bits of a (R96). -/
def ctzWord (a : Word) : Word := BitVec.ofNat 64 (((List.range 64).find? (fun i => a.getLsbD i)).getD 64)

/-- One bits of a (R96). -/
def popWord (a : Word) : Word := BitVec.ofNat 64 ((List.range 64).countP (fun i => a.getLsbD i))

/-- The high 64 bits of an exact product (R100). -/
def highOf (p : Int) : Word := BitVec.ofInt 64 (p / 2 ^ 64)

/-- The signed quotient, truncated toward zero, with the fixed edge results (R101). -/
def divWord (a b : Word) : Word := if b = 0 then BitVec.allOnes 64 else BitVec.ofInt 64 (Int.tdiv a.toInt b.toInt)

/-- The signed remainder, with the sign of a (R101). -/
def remWord (a b : Word) : Word := if b = 0 then a else BitVec.ofInt 64 (Int.tmod a.toInt b.toInt)

/-- The unsigned quotient (R101). -/
def divuWord (a b : Word) : Word := if b = 0 then BitVec.allOnes 64 else BitVec.ofNat 64 (a.toNat / b.toNat)

/-- The unsigned remainder (R101). -/
def remuWord (a b : Word) : Word := if b = 0 then a else BitVec.ofNat 64 (a.toNat % b.toNat)

/-! ### Special registers (R49 to R55) -/

/-- vl after a write (R52): a value above VLMAX stores VLMAX. -/
def capVl (vtype : BitVec 4) (x : Nat) : BitVec 13 := BitVec.ofNat 13 (Nat.min x (vlmaxOf vtype))

/-- The `ctx` register (R54). -/
def ctxWord (x : Cx) (ten : BitVec 5) : Word :=
  BitVec.ofNat 64 (ten.toNat * 2 ^ 8 + (match x with | .n => 0 | .u => 1))

/-- The `occl` register of a context (R294). -/
def State.occl (s : State) (t : Tid) : Word :=
  let c := s.ctx t
  BitVec.ofNat 64 (c.lim2.toNat * 2 ^ 48 + Nat.min 0xFFFF (s.occ2 t / 16) * 2 ^ 32 + c.lim1.toNat * 2 ^ 24
    + Nat.min 0xFF (s.occ1 t / 4) * 2 ^ 16)

/-- The value of special register n for thread t, reserved bits zero (R49, R50). -/
def State.sreg (s : State) (t : Tid) (n : Nat) : Word :=
  let c := s.ctx t
  match n with
  | 0x000 => c.vl.zeroExtend 64
  | 0x001 => c.vtype.zeroExtend 64
  | 0x002 => c.vstart.zeroExtend 64
  | 0x003 => c.fcsr.zeroExtend 64
  | 0x008 => ctxWord t.cx c.tenant
  | 0x009 => t.core.zeroExtend 64
  | 0x00A => s.clock
  | 0x010 => (s.core t.core).tvec
  | 0x011 => c.tframe
  | 0x012 => c.tcause
  | 0x013 => c.tpc
  | 0x014 => c.tval
  | 0x018 => c.status.zeroExtend 64
  | 0x019 => boolWord c.yreq
  | 0x01A => boolWord c.cancel
  | 0x01B => c.tstat
  | 0x020 => BitVec.ofNat 64 (c.quota.toNat * 2 ^ 16 + s.pipUse t)
  | 0x021 => s.occl t
  | _ => 0

/-- The w1c bits of status: PUR and SDN (R55). -/
def statusW1c : BitVec 5 := 0b00011#5

/-- The rw bits of status: ESTEP and PUE (R55). -/
def statusRw : BitVec 5 := 0b01100#5

/-- A context with the rw fields of special register n at the bits of v, and its w1c fields cleared by the bits of
clr; fields of access r and reserved bits are unchanged (R50, R123). R52 applies to the value stored. -/
def Ctx.setSreg (c : Ctx) (n : Nat) (v clr : Word) : Ctx :=
  match n with
  | 0x000 => { c with vl := capVl c.vtype (v.extractLsb' 0 13).toNat }
  | 0x001 =>
    let vt : BitVec 4 := v.extractLsb' 0 4
    { c with vtype := vt, vl := capVl vt c.vl.toNat }
  | 0x002 => { c with vstart := capVl c.vtype (v.extractLsb' 0 13).toNat }
  | 0x003 => { c with fcsr := v.extractLsb' 0 7 }
  | 0x018 =>
    let w : BitVec 5 := v.extractLsb' 0 5
    let k : BitVec 5 := clr.extractLsb' 0 5
    { c with status := (c.status &&& ~~~statusRw &&& ~~~(k &&& statusW1c)) ||| (w &&& statusRw) }
  | 0x021 => { c with lim2 := v.extractLsb' 48 16, lim1 := v.extractLsb' 24 8 }
  | _ => c

end Sys2Proof.Machine
end

