-- ==== Sys2Proof/Machine/Launch.lean ====
section
/-! DEFINITION. Launches, stages and queues (R10 to R21, R28 to R30, R33, R40): records and their checks, acceptance,
final states and levels, pushes and pops, and the end of an instance. -/

namespace Sys2Proof.Machine

/-! ### Slots and queues -/

/-- A launch slot (R18). -/
def State.slot (s : State) (n : Nat) : LaunchSlot := Tbl.getD s.slots n ⟨0, none⟩

/-- The launch in a slot. -/
def State.launchAt (s : State) (n : Nat) : Option Launch := (s.slot n).launch

/-- The state with a slot's launch changed. -/
def State.onLaunch (s : State) (n : Nat) (f : Launch → Launch) : State :=
  let k := s.slot n
  match k.launch with
  | some l => { s with slots := Tbl.put s.slots n { k with launch := some (f l) } }
  | none => s

/-- The identifier of the launch in a slot (R18). -/
def launchId (gen : BitVec 22) (slot : Nat) : BitVec 32 := gen ++ BitVec.ofNat 10 slot

/-- The state is final (R15). -/
def LaunchState.isFinal : LaunchState → Bool
  | .held | .running => false
  | .complete | .cancelled | .faulted => true

/-- The capacity of a queue (R12). -/
def Queue.cap (q : Queue) : Nat := q.onchip + q.spillcap

/-- Entries held and not reserved for an instance. -/
def Queue.unreserved (q : Queue) : Nat := q.chip.length + q.waiting.length + q.spilled

/-- Entries held, reserved ones included (R20). -/
def Queue.held (q : Queue) : Nat := q.chip.length + q.waiting.length + q.spilled + q.reserved

/-- A queue is DRAINED: closed, not FAULTED (R30), and holding no entry, reserved ones included (R37). -/
def Queue.drained (q : Queue) : Bool := q.closed && !q.faulted && q.held == 0

/-- The state code of a queue's status word (R20). -/
def Queue.code (q : Queue) : Nat :=
  if q.faulted then 3 else if q.drained then 2 else if q.closed then 1 else 0

/-- The status word of a queue (R20). -/
def Queue.status (q : Queue) : Word :=
  BitVec.ofNat 64 (q.code * 2 ^ 60 + q.dropped.toNat * 2 ^ 32 + Nat.min q.held (2 ^ 32 - 1))

/-- The queue has room on chip for an entry that nothing older waits before. -/
def Queue.chipRoom (q : Queue) : Bool := decide (q.chip.length + q.reserved < q.onchip)

/-- A push must wait: at capacity, FAULTED, or an earlier entry has not been written to the spill area yet (R21,
DEDUCED, log 13). -/
def Queue.blocked (q : Queue) : Bool := decide (q.cap ≤ q.held) || q.faulted || !q.waiting.isEmpty

/-- The queue with an entry at its tail (R29). -/
def Queue.push (q : Queue) (e : BitVec 128) : Queue :=
  if q.spilled == 0 && q.waiting.isEmpty && q.chipRoom then { q with chip := q.chip ++ [e] }
  else { q with waiting := q.waiting ++ [e] }

/-- The dropped-entry count one higher, saturating (R20). -/
def Queue.drop (q : Queue) : Queue := { q with dropped := if q.dropped = BitVec.allOnes 28 then q.dropped else q.dropped + 1 }

/-- Entries that wait for their spill write come on chip while nothing is spilled and there is room (R29), in FAULTED too,
where they are on-chip entries older than every spilled one (R30). -/
def Queue.refill (q : Queue) : Queue :=
  if q.spilled == 0 && q.chipRoom then
    match q.waiting with
    | e :: es => { q with chip := q.chip ++ [e], waiting := es }
    | [] => q
  else q

/-- The head unreserved entry where the die's SRAM holds it: on chip, or, with nothing spilled, waiting for its spill
write (R29). -/
def Queue.head (q : Queue) : Option (BitVec 128) :=
  match q.chip, q.waiting with
  | e :: _, _ => some e
  | [], e :: _ => if q.spilled == 0 then some e else none
  | [], [] => none

/-- The queue without that entry. -/
def Queue.behead (q : Queue) : Queue :=
  match q.chip, q.waiting with
  | _ :: es, _ => { q with chip := es }
  | [], _ :: es => { q with waiting := es }
  | [], [] => q

/-- The queue once that entry has been popped. -/
def Queue.pop (q : Queue) : Queue := q.behead.refill

/-- The queue with no entry, as a cancel or a final state leaves it (R13, R40). -/
def Queue.empty (q : Queue) : Queue :=
  { q with chip := [], waiting := [], spilled := 0, reserved := 0, heldStores := [] }

/-- The queue of a launch that becomes final: the stores that back-pressure holds are discarded and counted (R20). -/
def Queue.final (q : Queue) : Queue := (q.heldStores.foldl (fun x _ => x.drop) q).empty

/-- Back-pressure holds an entry of a store that an agent has posted: what the agent orders behind its stores waits (R21, R329,
R330, R368). -/
def State.holdsStore (s : State) (who : Poster) : Bool :=
  s.slots.any (fun p =>
    match p.2.launch with
    | some l => l.queues.any (fun q => q.heldStores.any (fun e => e.2.2 == who))
    | none => false)

/-- An entry of a queue-port store that back-pressure held has been pushed or discarded: once none of the store is held, the
thread's store counter falls (R162, R334). -/
def State.storeDone (s : State) (who : Poster) : State :=
  match who with
  | .thread t => if s.holdsStore who then s else s.onCtx t (fun c => { c with st := c.st - 1 })
  | .port _ | .gone => s

/-- The entries that back-pressure held in some queues have been discarded. -/
def State.storesDone (s : State) (qs : List Queue) : State :=
  (qs.flatMap (fun q => q.heldStores.map (fun e => e.2.2))).eraseDups.foldl State.storeDone s

/-- No store that back-pressure holds counts for thread t any more (R363). -/
def State.disownStores (s : State) (t : Tid) : State :=
  { s with slots := s.slots.map (fun p => (p.1, { p.2 with launch := p.2.launch.map (fun l =>
      { l with queues := l.queues.map (fun q => { q with heldStores := q.heldStores.map (fun e =>
          (e.1, e.2.1, if e.2.2 == .thread t then .gone else e.2.2)) }) }) })) }

/-- The queue of a launch. -/
def Launch.queue (l : Launch) (q : Nat) : Option Queue := l.queues[q]?

/-- The launch with a queue replaced. -/
def Launch.setQueue (l : Launch) (q : Nat) (x : Queue) : Launch := { l with queues := l.queues.set q x }

/-- The stages that name queue q as an output. -/
def Launch.feeders (l : Launch) (q : Nat) : List Nat :=
  (List.range l.stages.length).filter (fun i =>
    match l.stages[i]? with
    | some st => st.outmask.getLsbD q
    | none => false)

/-! ### Instances -/

/-- The threads that run an instance of the launch in a slot. -/
def State.instances (s : State) (slot : Nat) : List Tid :=
  let gen := (s.slot slot).gen
  allTids.filter (fun t =>
    match (s.ctx t).inst with
    | some i => i.slot.toNat == slot && i.gen == gen
    | none => false)

/-- The stage of a thread's instance. -/
def State.stageOf (s : State) (t : Tid) : Nat :=
  match (s.ctx t).inst with
  | some i => i.stage
  | none => 0

/-- The saved instances of the launch in a slot changed by f (R362). -/
def State.onParked (s : State) (slot : Nat) (f : Instance → Parked → Parked) : State :=
  let gen := (s.slot slot).gen
  let hit (p : Parked) : Parked :=
    match p.inst with
    | some i => if i.slot.toNat == slot && i.gen == gen then f i p else p
    | none => p
  (allTids.filter (fun t => !(s.ctx t).parked.isEmpty)).foldl
    (fun s t => s.onCtx t (fun c => { c with parked := c.parked.map hit })) s

/-- `yreq` bit 0 written in the instances of every stage that names queue q as an output (R28). A cancelled instance
keeps it set (R40). -/
def State.setYreq (s : State) (slot q : Nat) (b : Bool) : State :=
  match s.launchAt slot with
  | none => s
  | some l =>
    let fs := l.feeders q
    ((s.instances slot).foldl
      (fun s t => if fs.contains (s.stageOf t)
        then s.onCtx t (fun c => { c with yreq := b || c.cancel }) else s) s).onParked slot
      (fun i p => if fs.contains i.stage then { p with yreq := b || p.cancel } else p)

/-- Sends the QFULL notice of a queue (R21, R30). -/
def State.qfull (s : State) (slot q : Nat) (l : Launch) : State :=
  s.dieNotify l.die l.tenant 6 ((launchId (s.slot slot).gen slot).zeroExtend 64) (BitVec.ofNat 64 q) 0 []

/-- A queue of a launch replaced, with what its new number of entries starts: `yreq` set at the high-water mark and
cleared below half of it (R28), and one QFULL notice at capacity (R30). -/
def State.putQueue (s : State) (slot q : Nat) (x : Queue) : State :=
  match s.launchAt slot with
  | none => s
  | some l =>
    match l.queue q with
    | none => s
    | some old =>
      let s1 := s.onLaunch slot (fun l => l.setQueue q x)
      let s2 := if old.held < old.hwm && x.hwm ≤ x.held then s1.setYreq slot q true
        else if x.held < x.hwm / 2 && old.hwm / 2 ≤ old.held then s1.setYreq slot q false else s1
      if old.held < old.cap && x.cap ≤ x.held then s2.qfull slot q l else s2

/-- What a push to a queue waits for when it brings the queue to capacity and its QFULL notice must wait (R30, R352). -/
def State.qfullWaits (s : State) (slot q : Nat) : Option State :=
  match (s.launchAt slot).bind (fun l => (l.queue q).map (fun x => (l, x))) with
  | some (l, x) => if x.held < x.cap && decide (x.cap ≤ x.held + 1) then s.noticeWaits (l.die ++ 0#4) else none
  | none => none

/-! ### Levels (R17, R33) -/

/-- A level object that no launch has joined. -/
def LevelObj.fresh : LevelObj := ⟨0, 0, false, false, false, false⟩

/-- The key of a graph. -/
def graphKey (job : BitVec 8) (phase graph : BitVec 16) : Nat := (job ++ phase ++ graph).toNat

/-- The key of a phase. -/
def phaseKey (job : BitVec 8) (phase : BitVec 16) : Nat := (job ++ phase).toNat

/-- A level object after a launch is accepted in it: a finished object is done with, and a new one starts (R17). -/
def LevelObj.join (o : Option LevelObj) (closes : Bool) : LevelObj :=
  let b := match o with
    | some x => if x.finished then LevelObj.fresh else x
    | none => LevelObj.fresh
  { b with accepted := b.accepted + 1, sealedBy := b.sealedBy || closes }

/-- A level object after one of its launches reaches a final state (R17). -/
def LevelObj.count (o : LevelObj) (st : LaunchState) : LevelObj :=
  let x := { o with final := o.final + 1, faulted := o.faulted || decide (st = LaunchState.faulted),
                    cancelled := o.cancelled || decide (st = LaunchState.cancelled) }
  { x with finished := x.sealedBy && x.final == x.accepted }

/-- The status word of a level object (R33). -/
def LevelObj.status (o : Option LevelObj) : Word :=
  match o with
  | none => 4
  | some x =>
    let st := if !x.finished then 0 else if x.faulted then 3 else if x.cancelled then 2 else 1
    BitVec.ofNat 64 (x.final % 2 ^ 32 * 2 ^ 32 + st)

/-- The job with a number (R17). -/
def State.job (s : State) (n : BitVec 8) : Job := Tbl.getD s.jobs n.toNat ⟨0, 0⟩

/-- The state with the job's current phase set. -/
def State.setPhase (s : State) (n : BitVec 8) (p : BitVec 16) : State :=
  { s with jobs := Tbl.put s.jobs n.toNat { s.job n with phase := p } }

/-- One listed successor of a launch of a job decremented (R15): an identifier that names no HELD launch of the job is
ignored. -/
def State.decSucc (s : State) (job : BitVec 8) (id : BitVec 32) : State :=
  let n := (id.extractLsb' 0 10).toNat
  if (s.slot n).gen == id.extractLsb' 10 22 then
    s.onLaunch n (fun l => if l.state == .held && l.job == job then { l with waitcnt := l.waitcnt - 1 } else l)
  else s

/-- A slot is freed: its generation advances (R18). -/
def State.freeSlot (s : State) (n : Nat) : State :=
  { s with slots := Tbl.put s.slots n ⟨(s.slot n).gen + 1, none⟩ }

/-- A launch that was accepted reaches a final state (R15, R17, R18): its entries are discarded, its successors are
decremented, its graph, phase and job count it, a finished phase advances the job's phase, a finished job returns it to
0, and AUTOFREE frees the slot in the same step, so that a `cwait` already waiting on the launch then reads state 4, no such
object, and not the final state (DESIGN CHOICE, log 62: R41 does not say). -/
def State.finalize (s : State) (n : Nat) (st : LaunchState) : State :=
  match s.launchAt n with
  | none => s
  | some l =>
    let s1 := (s.onLaunch n (fun l => { l with state := st, queues := l.queues.map Queue.final })).storesDone l.queues
    let s2 := l.succ.foldl (fun s i => s.decSucc l.job i) s1
    let gk := graphKey l.job l.phase l.graph
    let pk := phaseKey l.job l.phase
    let ph := (Tbl.getD s2.phases pk LevelObj.fresh).count st
    let jb := (Tbl.getD s2.jobObjs l.job.toNat LevelObj.fresh).count st
    let s3 := { s2 with
      graphs := Tbl.put s2.graphs gk ((Tbl.getD s2.graphs gk LevelObj.fresh).count st)
      phases := Tbl.put s2.phases pk ph
      jobObjs := Tbl.put s2.jobObjs l.job.toNat jb }
    let s4 := if ph.finished then s3.setPhase l.job ((s3.job l.job).phase + 1) else s3
    let s5 := if jb.finished then s4.setPhase l.job 0 else s4
    if l.flags.getLsbD 0 then s5.freeSlot n else s5

/-- A stage is complete: its input queue is DRAINED and no instance of it remains (R16). -/
def Launch.stageDone (l : Launch) (st : Stage) : Bool :=
  st.running == 0 &&
    match l.queue st.inq with
    | some q => q.drained
    | none => false

/-- Closes each queue whose feeding stages are all complete (R16). -/
def Launch.closeFed (l : Launch) : Launch :=
  { l with queues := l.queues.mapIdx (fun i q =>
      let fs := l.stages.filter (fun st => st.outmask.getLsbD i)
      if !fs.isEmpty && fs.all l.stageDone then { q with closed := true } else q) }

/-- Closes queues until no more close; n bounds the stages. -/
def Launch.closeAll (l : Launch) : Nat → Launch
  | 0 => l
  | n + 1 => l.closeFed.closeAll n

/-- What follows a change of a launch's queues or instances (R16, R40): fed queues close; a cancelled launch whose last
instance has ended is CANCELLED; a running one whose stages are all complete is COMPLETE. -/
def State.settleLaunch (s : State) (n : Nat) : State :=
  match s.launchAt n with
  | none => s
  | some l =>
    if l.state != .running then s
    else if l.cancelling then (if l.stages.all (fun st => st.running == 0) then s.finalize n .cancelled else s)
    else
      let l1 := l.closeAll (l.stages.length + 1)
      let s1 := s.onLaunch n (fun _ => l1)
      if l1.stages.all l1.stageDone then s1.finalize n .complete else s1

/-! ### Pushes and pops -/

/-- One entry pushed to a queue that does not block it (R29): a cancelled launch discards it uncounted (R40). -/
def State.pushEntry (s : State) (slot q : Nat) (e : BitVec 128) : State :=
  match s.launchAt slot with
  | none => s
  | some l =>
    if l.cancelling then s
    else
      match l.queue q with
      | some x => s.putQueue slot q (x.push e)
      | none => s

/-- One entry of a queue-port store (R20, R21): discarded and counted when the launch is final or the queue CLOSED,
held by back-pressure for 10,000 ticks when the queue blocks it or its QFULL notice must wait, else pushed. While it is held,
what who orders behind its stores waits: of a thread State.storesBlock says what, of a host's port State.posts. -/
def State.portEntry (s : State) (who : Poster) (slot q : Nat) (e : BitVec 128) : State :=
  match s.launchAt slot with
  | none => s
  | some l =>
    if l.cancelling && !l.state.isFinal then s
    else
      match l.queue q with
      | none => s
      | some x =>
        if l.state.isFinal || (x.closed && !x.faulted) then s.onLaunch slot (fun l => l.setQueue q x.drop)
        else if x.blocked || !x.heldStores.isEmpty || (s.qfullWaits slot q).isSome then
          s.onLaunch slot (fun l => l.setQueue q { x with heldStores := x.heldStores ++ [(e, s.clock.toNat + 10000, who)] })
        else s.pushEntry slot q e

/-- Closes a queue (R20, R37). -/
def State.closeQueue (s : State) (slot q : Nat) : State :=
  (s.onLaunch slot (fun l =>
    match l.queue q with
    | some x => l.setQueue q { x with closed := true }
    | none => l)).settleLaunch slot

/-- The loaded value of a queue-port access of n bytes at an offset of the region, for a launch that the page shows
(R20). -/
def State.portLoad (s : State) (off n : Nat) : Word :=
  match s.launchAt (off / 0x10000) with
  | none => 0
  | some l =>
    match l.queue (off / 0x800 % 32) with
    | some q => if off % 0x800 == 0x7F0 && n == 8 then q.status else 0
    | none => 0

/-! ### Reading launch records (R13, R34) -/

/-- One byte of a launch record, list or map at a virtual address of a tenant; who is the launching thread, if any. -/
def State.recByte (s : State) (who : Option Tid) (ten : BitVec 5) (va : Word) : Moved (State × Byte) :=
  if (regionOf va).isSome then .fault .perm va
  else
    match s.walkWaits ten va with
    | some s1 => .wait s1
    | none =>
      match s.translate ten va .read with
      | .error c => .fault c va
      | .ok l =>
        match s.gate who l.pa 1 false with
        | .pass s1 => if s1.poisoned l.pa 1 then .fault .poison va else .done (s1, s1.byte l.pa)
        | .hold s1 | .conflict s1 => .wait s1
        | .linkDown => .fault .link va
        | .orphaned => .fault .poison va

/-- n bytes of a launch record, list or map; the first address that cannot be read faults. -/
def State.recBytes (s : State) (who : Option Tid) (ten : BitVec 5) (va : Word) : Nat → Moved (State × List Byte)
  | 0 => .done (s, [])
  | n + 1 =>
    match s.recByte who ten va with
    | .fault c a => .fault c a
    | .wait s1 => .wait s1
    | .done (s1, b) =>
      match s1.recBytes who ten (va + 1) n with
      | .done (s2, bs) => .done (s2, b :: bs)
      | r => r

/-- The placement map's entries up to its ending entry, at most 65 (R26); true when an ending entry was found. The base of the
ending entry maps nothing, and is not checked (DESIGN CHOICE, log 62). -/
def State.recMap (s : State) (who : Option Tid) (ten : BitVec 5) (va : Word) :
    Nat → Moved (State × List (List Byte) × Bool)
  | 0 => .done (s, [], false)
  | n + 1 =>
    match s.recBytes who ten va 16 with
    | .fault c a => .fault c a
    | .wait s1 => .wait s1
    | .done (s1, e) =>
      if numAt e 8 8 / 4 == 0 then .done (s1, [], true)
      else
        match s1.recMap who ten (va + 16) n with
        | .done (s2, es, b) => .done (s2, e :: es, b)
        | r => r

/-- Several lists of bytes at their addresses, in order. -/
def State.recLists (s : State) (who : Option Tid) (ten : BitVec 5) :
    List (Word × Nat) → Moved (State × List (List Byte))
  | [] => .done (s, [])
  | (va, n) :: ls =>
    match s.recBytes who ten va n with
    | .fault c a => .fault c a
    | .wait s1 => .wait s1
    | .done (s1, bs) =>
      match s1.recLists who ten ls with
      | .done (s2, r) => .done (s2, bs :: r)
      | r => r

/-- What a launch record holds, as bytes: its header, stage and queue descriptors, bind lists by stage, and the
placement map with whether its end was found. -/
structure RecordBytes where
  head   : List Byte
  stages : List (List Byte)
  queues : List (List Byte)
  binds  : List (List Byte)
  pmap   : List (List Byte)
  ended  : Bool
deriving DecidableEq, Repr

/-- A list cut into pieces of n, at most k. -/
def cut {α : Type} (n : Nat) (bs : List α) : Nat → List (List α)
  | 0 => []
  | k + 1 => bs.take n :: cut n (bs.drop n) k

/-- Reads a launch record (R13): numbers of stages, queues and bind entries outside their ranges are read as none,
since the record then has no further extent. -/
def State.readRecord (s : State) (who : Option Tid) (ten : BitVec 5) (va : Word) : Moved (State × RecordBytes) :=
  match s.recBytes who ten va 64 with
  | .fault c a => .fault c a
  | .wait s1 => .wait s1
  | .done (s1, h) =>
    let ns := if numAt h 4 1 ≤ 16 && numAt h 5 1 ≤ 32 then numAt h 4 1 else 0
    let nq := if numAt h 4 1 ≤ 16 && numAt h 5 1 ≤ 32 then numAt h 5 1 else 0
    match s1.recBytes who ten (va + 64) (32 * ns + 16 * nq) with
    | .fault c a => .fault c a
    | .wait s2 => .wait s2
    | .done (s2, d) =>
      let sts := cut 32 d ns
      let lists := sts.map (fun b =>
        (BitVec.ofNat 64 (numAt b 0x10 8), if numAt b 0x18 1 ≤ 16 then 16 * numAt b 0x18 1 else 0))
      match s2.recLists who ten lists with
      | .fault c a => .fault c a
      | .wait s3 => .wait s3
      | .done (s3, bs) =>
        let qs := cut 16 (d.drop (32 * ns)) nq
        let pm := BitVec.ofNat 64 (numAt h 0x18 8)
        if pm == 0 then .done (s3, ⟨h, sts, qs, bs, [], true⟩)
        else
          match s3.recMap who ten pm 65 with
          | .fault c a => .fault c a
          | .wait s4 => .wait s4
          | .done (s4, es, e) => .done (s4, ⟨h, sts, qs, bs, es, e⟩)

/-- The successor identifiers of a header, read at acceptance: none where the list faults (DESIGN CHOICE, log 14); a read
that must wait holds the acceptance. -/
def State.readSucc (s : State) (who : Option Tid) (ten : BitVec 5) (h : List Byte) :
    Moved (State × List (BitVec 32)) :=
  let n := numAt h 0x0E 2
  if n ≤ 16 then
    match s.recBytes who ten (BitVec.ofNat 64 (numAt h 0x10 8)) (4 * n) with
    | .done (s1, bs) => .done (s1, (cut 4 bs n).map (fun b => BitVec.ofNat 32 (leNat b)))
    | .wait s1 => .wait s1
    | .fault _ _ => .done (s, [])
  else .done (s, [])

/-! ### The checks of a record (R13) -/

/-- Every byte is zero. -/
def allZero (bs : List Byte) : Bool := bs.all (fun b => b == 0)

/-- n bytes at an offset. -/
def bytesAt (bs : List Byte) (o n : Nat) : List Byte := (bs.drop o).take n

/-- The first field that fails, in order: pairs of an address and whether the field there passes. -/
def firstBad (l : List (Word × Bool)) : Option Word := (l.find? (fun p => !p.2)).map (·.1)

/-- The fields of a header at its address (R10). -/
def headFields (va : Word) (h : List Byte) : List (Word × Bool) :=
  [(va, numAt h 0 4 == 1),
   (va + 4, 1 ≤ numAt h 4 1 && numAt h 4 1 ≤ 16),
   (va + 5, 1 ≤ numAt h 5 1 && numAt h 5 1 ≤ 32),
   (va + 6, numAt h 6 2 < 16),
   (va + 0x0E, numAt h 0x0E 2 ≤ 16),
   (va + 0x28, allZero (bytesAt h 0x28 24))]

/-- The fields of a stage descriptor (R11). -/
def stageFields (nq : Nat) (va : Word) (b : List Byte) : List (Word × Bool) :=
  [(va, numAt b 0 8 % 4 == 0),
   (va + 0x0C, numAt b 0x0C 1 < nq),
   (va + 0x0D, numAt b 0x0D 1 / 4 % 32 == 0),
   (va + 0x0E, numAt b 0x0E 1 ≤ 128),
   (va + 0x0F, numAt b 0x0E 1 ≤ numAt b 0x0F 1 && numAt b 0x0F 1 ≤ 128 && 1 ≤ numAt b 0x0F 1),
   (va + 0x18, numAt b 0x18 1 ≤ 16),
   (va + 0x19, allZero (bytesAt b 0x19 7))]

/-- A power of two from 16 to 4,096. -/
def isQueueSize (n : Nat) : Bool := [16, 32, 64, 128, 256, 512, 1024, 2048, 4096].contains n

/-- The fields of a queue descriptor (R12). An aligned spill address beside a spillcap of 0, and a spill address of 0 beside
one that is not, pass (DESIGN CHOICE, log 62). -/
def queueFields (va : Word) (b : List Byte) : List (Word × Bool) :=
  [(va, numAt b 0 8 % 128 == 0),
   (va + 8, numAt b 8 4 % 8 == 0),
   (va + 0x0C, isQueueSize (numAt b 0x0C 2)),
   (va + 0x0E, numAt b 0x0E 2 ≤ numAt b 0x0C 2 + numAt b 8 4)]

/-- The fields of a bind list entry (R11). -/
def bindFields (va : Word) (b : List Byte) : List (Word × Bool) :=
  [(va, numAt b 0 8 % 128 == 0), (va + 8, numAt b 8 1 ≤ 15), (va + 9, numAt b 9 2 ≤ 15),
   (va + 0x0B, allZero (bytesAt b 0x0B 5))]

/-- Fields of several descriptors of n bytes from an address upward. -/
def fieldsOf (f : Word → List Byte → List (Word × Bool)) (va : Word) (n : Nat) (bs : List (List Byte)) :
    List (Word × Bool) :=
  bs.zipIdx.flatMap (fun p => f (va + BitVec.ofNat 64 (n * p.2)) p.1)

/-- Every checked field of a record in checking order, reason 3 (R13). A placement map without an ending entry among its
first 65 is reported at its 65th, at map + 1,024: R13 names no field for it (DESIGN CHOICE, log 62). -/
def RecordBytes.fields (r : RecordBytes) (va : Word) : List (Word × Bool) :=
  let nq := numAt r.head 5 1
  let pm := BitVec.ofNat 64 (numAt r.head 0x18 8)
  headFields va r.head
    ++ fieldsOf (stageFields nq) (va + 64) 32 r.stages
    ++ fieldsOf queueFields (va + 64 + BitVec.ofNat 64 (32 * r.stages.length)) 16 r.queues
    ++ (r.stages.zip r.binds).flatMap (fun p =>
        fieldsOf bindFields (BitVec.ofNat 64 (numAt p.1 0x10 8)) 16 (cut 16 p.2 (numAt p.1 0x18 1)))
    ++ fieldsOf (fun a b => [(a, numAt b 0 8 % 4096 == 0)]) pm 16 r.pmap
    ++ [(pm + 1024, r.ended)]

/-- The total on-chip entries of a record's queues. -/
def RecordBytes.sram (r : RecordBytes) : Nat := (r.queues.map (fun b => numAt b 0x0C 2)).sum

/-- A level object that a seal closes against further launches (R13, reason 7). -/
def sealedOpen (o : Option LevelObj) : Bool :=
  match o with
  | some x => x.sealedBy && !x.finished
  | none => false

/-- The reason and field address of a record's first failed check, reasons 3 to 7 (R13). -/
def State.recordFault (s : State) (ten : BitVec 5) (va : Word) (r : RecordBytes) : Option (Nat × Word) :=
  let h := r.head
  let job : BitVec 8 := BitVec.ofNat 8 (numAt h 0x0C 1)
  let phase : BitVec 16 := BitVec.ofNat 16 (numAt h 0x0A 2)
  let graph : BitVec 16 := BitVec.ofNat 16 (numAt h 8 2)
  match firstBad (r.fields va) with
  | some a => some (3, a)
  | none =>
    if 32768 < r.sram then some (4, 0)
    else if (s.job job).tenant != ten then some (5, va + 0x0C)
    else if phase.toNat < (s.job job).phase.toNat then some (6, va + 0x0A)
    else if sealedOpen (Tbl.find s.graphs (graphKey job phase graph)) then some (7, va + 8)
    else if sealedOpen (Tbl.find s.phases (phaseKey job phase)) then some (7, va + 0x0A)
    else if sealedOpen (Tbl.find s.jobObjs job.toNat) then some (7, va + 0x0C)
    else none

/-- A stage from its descriptor and its bind list (R11). -/
def stageFrom (b binds : List Byte) : Stage where
  entry := BitVec.ofNat 64 (numAt b 0 8)
  outmask := BitVec.ofNat 32 (numAt b 8 4)
  inq := numAt b 0x0C 1
  prio := BitVec.ofNat 2 (numAt b 0x0D 1)
  urgent := decide (128 ≤ numAt b 0x0D 1)
  minctx := numAt b 0x0E 1
  maxctx := numAt b 0x0F 1
  binds := (cut 16 binds (numAt b 0x18 1)).map (fun e =>
    ⟨BitVec.ofNat 64 (numAt e 0 8), BitVec.ofNat 4 (numAt e 8 1), BitVec.ofNat 4 (numAt e 9 2)⟩)
  running := 0
  aged := 0
  offered := false

/-- A queue from its descriptor (R12). -/
def queueFrom (b : List Byte) : Queue where
  spill := BitVec.ofNat 64 (numAt b 0 8)
  spillcap := numAt b 8 4
  onchip := numAt b 0x0C 2
  hwm := if numAt b 0x0E 2 == 0 then (numAt b 0x0C 2 + numAt b 8 4) * 7 / 8 else numAt b 0x0E 2
  chip := []
  waiting := []
  spilled := 0
  spillPos := 0
  reserved := 0
  closed := false
  faulted := false
  dropped := 0
  heldStores := []

/-- A launch with nothing known but its record's address, as one whose record cannot be read has (R13). -/
def Launch.bare (va : Word) (ten : BitVec 5) (die : BitVec 2) (order : Nat) : Launch where
  record := va
  tenant := ten
  die := die
  state := .faulted
  cancelling := false
  flags := 0
  graph := 0
  phase := 0
  job := 0
  waitcnt := 0
  succ := []
  pmap := []
  arg := 0
  stages := []
  queues := []
  retired := 0
  order := order

/-- A launch from its record (R10 to R12, R26). -/
def launchFrom (va : Word) (ten : BitVec 5) (die : BitVec 2) (order : Nat) (r : RecordBytes) (succ : List (BitVec 32)) :
    Launch :=
  let h := r.head
  { Launch.bare va ten die order with
    state := .held
    flags := BitVec.ofNat 4 (numAt h 6 2)
    graph := BitVec.ofNat 16 (numAt h 8 2)
    phase := BitVec.ofNat 16 (numAt h 0x0A 2)
    job := BitVec.ofNat 8 (numAt h 0x0C 1)
    waitcnt := numAt h 0x0D 1
    succ := succ
    pmap := r.pmap.map (fun e =>
      ⟨BitVec.ofNat 64 (numAt e 0 8), numAt e 8 8 / 4, BitVec.ofNat 2 (numAt e 8 1)⟩)
    arg := BitVec.ofNat 64 (numAt h 0x20 8)
    stages := (r.stages.zip r.binds).map (fun p => stageFrom p.1 p.2)
    queues := r.queues.map queueFrom }

/-- The lowest free launch slot (R34). -/
def State.freeLaunchSlot (s : State) : Option Nat := (List.range 1024).find? (fun n => (s.slot n).launch.isNone)

/-- A launch put in a slot, counted as an acceptance. -/
def State.placeLaunch (s : State) (n : Nat) (l : Launch) : State :=
  { s with slots := Tbl.put s.slots n ⟨(s.slot n).gen, some l⟩, accepts := s.accepts + 1 }

/-- A launch FAULTED at acceptance (R13): the LAUNCH notice, the successors of its record when they are known, and its
slot freed with AUTOFREE. -/
def State.faultLaunch (s : State) (n : Nat) (l : Launch) (reason : Nat) (at_ : Word) : State :=
  let s1 := s.placeLaunch n { l with state := .faulted, queues := [], stages := [] }
  let s2 := s1.dieNotify l.die l.tenant 8 l.record (BitVec.ofNat 64 reason) at_
    (leBytes 4 (launchId (s.slot n).gen n).toNat)
  let s3 := l.succ.foldl (fun s i => s.decSucc l.job i) s2
  if l.flags.getLsbD 0 then s3.freeSlot n else s3

/-- The objects of a job's graphs or phases that a launch of the job may join: when the launch forms a new job, because no
job of the number stands or it is finished, the unfinished ones of the old job are dropped (R17). -/
def State.joinable (s : State) (job : BitVec 8) (unit : Nat) (t : Tbl LevelObj) : Tbl LevelObj :=
  let stands := match Tbl.find s.jobObjs job.toNat with
    | some o => !o.finished
    | none => false
  t.filter (fun p => stands || p.2.finished || p.1 / unit != job.toNat)

/-- Accepts a record that has been read, with its list of successors, into a free slot (R13, R17, R34). -/
def State.acceptLaunch (s : State) (n : Nat) (va : Word) (ten : BitVec 5) (die : BitVec 2) (r : RecordBytes)
    (succ : List (BitVec 32)) : State :=
  let l := launchFrom va ten die s.accepts r succ
  match s.recordFault ten va r with
  | some (k, a) => s.faultLaunch n { l with succ := if (s.job l.job).tenant == ten then succ else [] } k a
  | none =>
    let gk := graphKey l.job l.phase l.graph
    let pk := phaseKey l.job l.phase
    let gs := s.joinable l.job (2 ^ 32) s.graphs
    let ps := s.joinable l.job (2 ^ 16) s.phases
    { s.placeLaunch n l with
      graphs := Tbl.put gs gk (LevelObj.join (Tbl.find gs gk) (l.flags.getLsbD 1))
      phases := Tbl.put ps pk (LevelObj.join (Tbl.find ps pk) (l.flags.getLsbD 2))
      jobObjs := Tbl.put s.jobObjs l.job.toNat (LevelObj.join (Tbl.find s.jobObjs l.job.toNat) (l.flags.getLsbD 3)) }

/-- A launch is to be accepted, or FAULTED, in slot n (R13, R34): where its record, its lists or its map cannot be read; a
read that must wait, and a LAUNCH notice that must (R352), hold it. -/
def State.tryLaunch (s : State) (who : Option Tid) (n : Nat) (va : Word) (ten : BitVec 5) (die : BitVec 2) : Moved State :=
  match s.readRecord who ten va with
  | .fault c a => .fault c a
  | .wait s1 => .wait s1
  | .done (s1, r) =>
    match s1.readSucc who ten r.head with
    | .fault c a => .fault c a
    | .wait s2 => .wait s2
    | .done (s2, succ) =>
      match (s2.recordFault ten va r).bind (fun _ => s2.noticeWaits (die ++ 0#4)) with
      | some s3 => .wait s3
      | none => .done (s2.acceptLaunch n va ten die r succ)

/-- The launch that a record which cannot be read whole leaves in its slot (R13, reason 2): what its header says where the
header itself can be read, with its successors when the job is the tenant's; else nothing but the record's address. -/
def State.unreadLaunch (s : State) (va : Word) (ten : BitVec 5) (die : BitVec 2) : Moved Launch :=
  match s.recBytes none ten va 64 with
  | .fault _ _ => .done (Launch.bare va ten die s.accepts)
  | .wait s1 => .wait s1
  | .done (s1, h) =>
    let l (succ : List (BitVec 32)) : Launch := launchFrom va ten die s.accepts ⟨h, [], [], [], [], true⟩ succ
    match s1.readSucc none ten h with
    | .fault _ _ => .done (l [])
    | .wait s2 => .wait s2
    | .done (_, succ) => .done (l (if (s.job (l succ).job).tenant == ten then succ else []))

/-! ### Naming objects (R33) -/

/-- A launch belongs to a job of the tenant; one FAULTED at acceptance belongs to its launching tenant (R13, R17). -/
def State.launchOwned (s : State) (l : Launch) (ten : BitVec 5) : Bool :=
  if l.state == .faulted then l.tenant == ten else (s.job l.job).tenant == ten

/-- The launch that a launch identifier names, generation included (R33). -/
def State.named (s : State) (id : Word) : Option (Nat × Launch) :=
  let n := (id.extractLsb' 0 10).toNat
  if (s.slot n).gen == id.extractLsb' 10 22 then (s.launchAt n).map (fun l => (n, l)) else none

/-- The status word of a launch (R33). -/
def Launch.status (l : Launch) : Word :=
  let st := match l.state with
    | .held | .running => 0
    | .complete => 1
    | .cancelled => 2
    | .faulted => 3
  BitVec.ofNat 64 (l.retired.toNat * 2 ^ 32 + st)

/-- Naming the object is not allowed: it is of a job assigned to another tenant (R33). -/
def State.foreignObject (s : State) (level : BitVec 2) (id : Word) (ten : BitVec 5) : Bool :=
  if level == 0 then
    match s.named id with
    | some (_, l) => !(s.launchOwned l ten)
    | none => false
  else (s.job (id.extractLsb' 56 8)).tenant != ten

/-- The status word of the object that a level identifier names (R33). -/
def State.levelStatus (s : State) (level : BitVec 2) (id : Word) : Word :=
  let job : BitVec 8 := id.extractLsb' 56 8
  let phase : BitVec 16 := id.extractLsb' 40 16
  let graph : BitVec 16 := id.extractLsb' 24 16
  match level.toNat with
  | 0 =>
    match s.named id with
    | some (_, l) => l.status
    | none => 4
  | 1 => LevelObj.status (Tbl.find s.graphs (graphKey job phase graph))
  | 2 => LevelObj.status (Tbl.find s.phases (phaseKey job phase))
  | _ => LevelObj.status (Tbl.find s.jobObjs job.toNat)

/-- The slots of the launches of an object that are not final (R40). -/
def State.openLaunches (s : State) (level : BitVec 2) (id : Word) : List Nat :=
  let job : BitVec 8 := id.extractLsb' 56 8
  let phase : BitVec 16 := id.extractLsb' 40 16
  let graph : BitVec 16 := id.extractLsb' 24 16
  let hits (n : Nat) (l : Launch) : Bool :=
    !l.state.isFinal &&
      match level.toNat with
      | 0 => (s.named id).isSome && n == (id.extractLsb' 0 10).toNat
      | 1 => l.job == job && l.phase == phase && l.graph == graph
      | 2 => l.job == job && l.phase == phase
      | _ => l.job == job
  (s.slots.filter (fun p =>
    match p.2.launch with
    | some l => hits p.1 l
    | none => false)).map (·.1)

/-- An instance that a cancel reaches: its reserved entry is discarded (R40). A later cancel of the same launch starts the
100,000 ticks again (DESIGN CHOICE, log 62). -/
def Instance.cancelled (i : Instance) (clock : Nat) : Instance :=
  { i with robbed := i.robbed || i.reserved.isSome, reserved := none, cancelAt := some clock }

/-- The context of an instance that a cancel reaches: `cancel` and `yreq` set (R40). -/
def Ctx.cancelled (c : Ctx) (clock : Nat) : Ctx :=
  { c with cancel := true, yreq := true, inst := c.inst.map (fun i => i.cancelled clock) }

/-- Cancels a launch that is not final (R40). -/
def State.cancelLaunch (s : State) (n : Nat) : State :=
  match s.launchAt n with
  | none => s
  | some l =>
    match l.state with
    | .held => s.finalize n .cancelled
    | .running =>
      let s1 := (s.onLaunch n (fun l => { l with cancelling := true, queues := l.queues.map Queue.empty })).storesDone l.queues
      let s2 := (s.instances n).foldl (fun s t => s.onCtx t (fun c => c.cancelled s.clock.toNat)) s1
      (s2.onParked n (fun i p =>
        { p with cancel := true, yreq := true, inst := some (i.cancelled s.clock.toNat) })).settleLaunch n
    | _ => s

/-! ### The end of an instance (R38, R363) -/

/-- An instance is counted as retired, and its reserved entry as consumed. -/
def State.retireInst (s : State) (i : Instance) : State :=
  let n := i.slot.toNat
  if (s.slot n).gen == i.gen then
    let s2 := s.onLaunch n (fun l =>
      { l with
        retired := l.retired + 1
        stages := l.stages.mapIdx (fun k st => if k == i.stage then { st with running := st.running - 1 } else st) })
    let s3 :=
      match s2.launchAt n, i.reserved with
      | some l, some _ =>
        match l.stages[i.stage]? with
        | some st =>
          match l.queue st.inq with
          | some q => s2.putQueue n st.inq { q with reserved := q.reserved - 1 }
          | none => s2
        | none => s2
      | _, _ => s2
    s3.settleLaunch n
  else s

/-- A context that no instance holds. -/
def Ctx.freed (c : Ctx) : Ctx := { c with run := .free, waiting := false, wfi := none, inst := none }

/-- The instance of a thread is counted as retired and its context is free. -/
def State.endInstance (s : State) (t : Tid) : State :=
  let s1 := s.onCtx t Ctx.freed
  match (s.ctx t).inst with
  | none => s1
  | some i => s1.retireInst i

end Sys2Proof.Machine
end

