-- ==== Sys2Proof/Machine/BoardImage.lean ====
section
/-! DEFINITION. Mladtik images (R195, R197 to R210, R219 to R225): the parameter fields of pieces, parsing, the checks
in their order, and what an image's routes join. -/

namespace Sys2Proof.Machine

/-! ### Kinds and fields (R183, R185, R197) -/

/-- The kinds of pieces, by code (R183). -/
inductive PKind where
  | map | cmp | sel | mrg | unq | srt | scn | red | exp | tbl | agen | xreq
deriving DecidableEq, Repr

/-- The kind that owns a piece number. -/
def kindOf (n : Nat) : PKind :=
  if n < 8 then .map else if n < 12 then .cmp else if n < 16 then .sel else if n < 20 then .mrg
  else if n < 22 then .unq else if n < 24 then .srt else if n < 26 then .scn else if n < 30 then .red
  else if n < 32 then .exp else if n < 34 then .tbl else if n < 42 then .agen else .xreq

/-- The first piece number and the count of each kind code. -/
def kindRange (code : Nat) : Option (Nat × Nat) :=
  [(0, 8), (8, 4), (12, 4), (16, 4), (20, 2), (22, 2), (24, 2), (26, 4), (30, 2), (32, 2), (34, 8), (42, 2)][code]?

/-- The number of inputs of a kind (R185). -/
def PKind.inputs : PKind → Nat
  | .tbl | .xreq => 1
  | .mrg | .agen => 4
  | _ => 2

/-- The number of outputs of a kind (R185). -/
def PKind.outputs : PKind → Nat
  | .mrg | .unq | .srt | .agen => 2
  | _ => 1

/-- Bits hi down to lo of word w of a piece's parameters. -/
def PieceRec.pf (r : PieceRec) (w hi lo : Nat) : Nat := (r.p.getD w 0).toNat / 2 ^ lo % 2 ^ (hi + 1 - lo)

/-- A whole parameter word. -/
def PieceRec.pw (r : PieceRec) (w : Nat) : BitVec 32 := r.p.getD w 0

/-- Input j of a piece is bound. -/
def PieceRec.bound (r : PieceRec) (j : Nat) : Bool := r.src.getD j 0xFFFF != 0xFFFF

/-- The reserved bits of the parameter words of a kind are zero (R198 to R210). -/
def PieceRec.reservedOk (r : PieceRec) : Bool :=
  let z (w hi lo : Nat) : Bool := r.pf w hi lo == 0
  match kindOf r.num with
  | .map => z 0 31 21 && z 0 17 16 && z 2 31 0 && z 3 31 0
  | .cmp => z 0 31 9 && z 2 31 0 && z 3 31 0
  | .sel => z 0 31 1 && z 1 31 0 && z 2 31 0 && z 3 31 0
  | .mrg => z 0 31 7 && z 1 31 0 && z 2 31 0 && z 3 31 0
  | .unq => z 0 31 1 && z 1 31 0 && z 2 31 0 && z 3 31 0
  | .srt => z 0 31 16 && z 1 31 0 && z 2 31 0 && z 3 31 0
  | .scn => z 0 31 11 && z 0 3 2 && z 2 31 0 && z 3 31 0
  | .red => z 0 31 11 && z 2 31 0 && z 3 31 0
  | .exp => z 0 31 0 && z 2 31 0 && z 3 31 0
  | .tbl => z 0 31 6
  | .agen => z 0 31 27 && z 0 20 20 && z 1 31 0
  | .xreq => z 0 31 1 && z 3 31 0

/-- A token format that MAP admits (R198). -/
def tokenFormat (f : Nat) : Bool := f ≤ 0xB && f != 6 && f != 7 && f != 9

/-- The parameter fields of a piece hold listed values in range (R197 to R210). -/
def PieceRec.fieldsOk (r : PieceRec) : Bool :=
  let ty := r.pf 0 7 4
  match kindOf r.num with
  | .map =>
    let op := r.pf 0 7 0
    let t := r.pf 0 11 8
    tokenFormat t && tokenFormat (r.pf 0 15 12)
      && (op == 0 || op == 0x10 || (op ≤ 0x0B && (t == 4 || t == 5))
        || (0x20 ≤ op && op ≤ 0x24 && (t == 0xA || t == 0xB)))
  | .cmp => let f := r.pf 0 7 0; f ≤ 9 || (0x10 ≤ f && f ≤ 0x15)
  | .mrg => r.pf 0 5 4 != 3 && (r.pf 0 3 2 != 3 || r.pf 0 1 0 == 0)
  | .srt => r.pf 0 9 8 != 3 && r.pf 0 6 0 ≤ 64
  | .scn => (ty == 4 || ty == 5 || ty == 0xB) && r.pf 0 1 0 != 3
  | .red =>
    let op := r.pf 0 3 0
    (ty == 4 || ty == 5 || ty == 0xB) && op ≤ 6 && (ty == 5 || !(3 ≤ op && op ≤ 5))
  | .tbl =>
    let base := r.pf 1 31 0
    let len := r.pf 2 31 0
    match r.pf 0 1 0 with
    | 0 => base % 4 == 0 && len ≤ 32768 && base + 4 * len ≤ 131072
    | 3 => false
    | _ => base % 8 == 0 && 1 ≤ len && len ≤ 14 && base + 8 * 2 ^ len ≤ 131072
  | .agen => r.pf 0 8 7 != 3 && r.pf 0 6 5 != 3 && r.pf 0 3 2 != 3 && r.pf 0 17 15 ≤ 4
  | _ => true

/-- What the settings of a piece say of an input: required, forbidden, or either (R198 to R213). -/
def PieceRec.wants (r : PieceRec) (j : Nat) : Option Bool :=
  match kindOf r.num, j with
  | .map, 1 =>
    let op := r.pf 0 7 0
    if r.pf 0 20 20 == 1 || op == 0x0B || op == 0x10 then some false else if op == 0 then none else some true
  | .cmp, 1 => some (r.pf 0 8 8 == 0)
  | .mrg, 2 | .mrg, 3 => if r.pf 0 3 2 == 1 || r.pf 0 3 2 == 3 then some true else none
  | .unq, 1 => if r.pf 0 0 0 == 1 then some false else none
  | .srt, 1 => none
  | .scn, 1 | .red, 1 => some (r.pf 1 31 0 == 0)
  | .agen, 0 => some (2 ≤ r.pf 0 1 0)
  | .agen, 1 => some (r.pf 0 1 0 % 2 == 1)
  | .agen, _ => none
  | _, _ => some true

/-! ### SPB level words (R195) -/

/-- KIND of a level word. -/
def lvKind (w : Word) : Nat := (w.extractLsb' 62 2).toNat
/-- SRC. -/
def lvSrc (w : Word) : Nat := (w.extractLsb' 56 6).toNat
/-- CNT. -/
def lvCnt (w : Word) : Nat := (w.extractLsb' 32 24).toNat
/-- STRIDE. -/
def lvStride (w : Word) : Word := (w.extractLsb' 0 32).signExtend 64

/-- SRC and CNT are zero where the KIND does not use them. -/
def lvZero (w : Word) : Bool :=
  (lvKind w == 1 || lvKind w == 2 || lvSrc w == 0) && (lvKind w == 0 || lvCnt w == 0)

/-- SRC names an operand field or a general register where the KIND uses it. -/
def lvRange (w : Word) : Bool :=
  match lvKind w with
  | 1 => 1 ≤ lvSrc w && lvSrc w ≤ 6
  | 2 => lvSrc w ≤ 31
  | _ => true

/-! ### Records of an image (R219 to R224) -/

/-- n words of 8 bytes at an offset. -/
def wordsAt (bs : List Byte) (o n : Nat) : List Word := (List.range n).map (fun j => BitVec.ofNat 64 (numAt bs (o + 8 * j) 8))

/-- The record of piece number num from 64 bytes. -/
def pieceRec (num : Nat) (b : List Byte) : PieceRec :=
  let p := (List.range 4).map (fun j => BitVec.ofNat 32 (numAt b (0x10 + 4 * j) 4))
  let nlev := if kindOf num == .agen then Nat.min 4 ((p.getD 0 0).extractLsb' 15 3).toNat else 0
  ⟨num, (List.range 4).map (fun j => BitVec.ofNat 16 (numAt b (8 + 2 * j) 2)), p, wordsAt b 0x20 nlev⟩

/-- A port record. -/
def portRec (b : List Byte) : PortRec :=
  ⟨BitVec.ofNat 16 (numAt b 2 2), wordsAt b 0x20 (Nat.min 4 (numAt b 4 1))⟩

/-- A tile record. -/
def tileRec (b : List Byte) : TileRec :=
  ⟨numAt b 0 1, numAt b 1 1 % 2 == 1, BitVec.ofNat 16 (numAt b 2 2), numAt b 4 4, numAt b 8 4, numAt b 12 4⟩

/-- The operand field that entry word w binds to stream port p (0 to 3 the inputs, 4 and 5 the outputs; 0: none). -/
def entryField (w : BitVec 32) (p : Nat) : Nat := w.toNat / 2 ^ (4 * p) % 16

/-- An entry is defined. -/
def entryDefined (w : BitVec 32) : Bool := w.getLsbD 31

/-- A defined entry binds stream port p. -/
def portBound (es : List (BitVec 32)) (p : Nat) : Bool := es.any (fun w => entryDefined w && entryField w p != 0)

/-- The bytes of an image cut into what the checks read: header, entry words, and the records' bytes. -/
structure RawImage where
  bytes   : List Byte
  size    : Nat
  npiece  : Nat
  entries : List (BitVec 32)
  ports   : List (List Byte)
  tiles   : List (List Byte)
  pieces  : List (List Byte)
deriving DecidableEq, Repr

/-- The image's parts. -/
def rawImage (bs : List Byte) : RawImage where
  bytes := bs
  size := numAt bs 8 4
  npiece := numAt bs 6 1
  entries := (List.range 16).map (fun e => BitVec.ofNat 32 (numAt bs (0x40 + 4 * e) 4))
  ports := cut 64 (bs.drop 0x80) 6
  tiles := cut 64 (bs.drop 0x200) 8
  pieces := cut 64 (bs.drop 0x400) (numAt bs 6 1)

/-- The piece number that kind and index of a record name. -/
def recordNumber (b : List Byte) : Option Nat :=
  match kindRange (numAt b 0 1) with
  | some (f, n) => if numAt b 1 1 < n then some (f + numAt b 1 1) else none
  | none => none

/-- The records with a listed kind, by any number of that kind. -/
def recordAs (b : List Byte) : Option PieceRec := (kindRange (numAt b 0 1)).map (fun p => pieceRec p.1 b)

/-! ### CRC-32C (R219) -/

/-- One bit of the CRC. -/
def crcBit (c : BitVec 32) : BitVec 32 := if c.getLsbD 0 then (c >>> 1) ^^^ 0x82F63B78#32 else c >>> 1

/-- One byte of the CRC. -/
def crcByte (c : BitVec 32) (b : Byte) : BitVec 32 :=
  (List.range 8).foldl (fun c _ => crcBit c) (c ^^^ b.zeroExtend 32)

/-- CRC-32C of bytes. -/
def crc32c (bs : List Byte) : BitVec 32 := bs.foldl crcByte (BitVec.allOnes 32) ^^^ BitVec.allOnes 32

/-! ### The checks (R225) -/

/-- Check 1 on the header alone. -/
def headOk (h : List Byte) : Bool :=
  numAt h 0 4 == 0x4B444C4D && numAt h 4 2 == 1 && numAt h 8 4 % 64 == 0 && 64 * (16 + numAt h 6 1) ≤ numAt h 8 4

/-- Check 1 on the initial data of BUF tiles. -/
def RawImage.dataOk (r : RawImage) : Bool :=
  (r.tiles.map tileRec).all (fun t => t.role != 1 || t.initlen == 0 || t.initoff + t.initlen ≤ r.size)

/-- Check 2. -/
def RawImage.crcOk (r : RawImage) : Bool :=
  (crc32c (r.bytes.take 12 ++ List.replicate 4 0 ++ r.bytes.drop 16)).toNat == numAt r.bytes 12 4

/-- A port's record has its zero fields (R222). -/
def portZero (es : List (BitVec 32)) (j : Nat) (b : List Byte) : Bool :=
  let q := portRec b
  allZero (bytesAt b 5 27) && allZero (b.drop (0x20 + 8 * q.spb.length)) && q.spb.all lvZero
    && (portBound es j || (numAt b 4 1 == 0 && q.src == 0xFFFF))

/-- A tile's record has its zero fields (R223): so are initoff and initlen of a tile that is not BUF, to which the table
gives no meaning, REMOTE of a tile that is not BUF, and initlen where initoff is 0 (DESIGN CHOICE, log 62). -/
def tileZero (b : List Byte) : Bool :=
  let t := tileRec b
  numAt b 1 1 ≤ 1 && allZero (b.drop 0x10) && (!t.remote || t.role == 1) && (t.role == 2 || t.depth == 0)
    && (t.role == 1 || (t.initoff == 0 && t.initlen == 0)) && (t.initoff != 0 || t.initlen == 0)

/-- A piece's record has its zero fields (R224); of a record of no listed kind only bytes 0x02 to 0x07 are known to be
such. -/
def pieceZero (b : List Byte) : Bool :=
  match recordAs b with
  | none => allZero (bytesAt b 2 6)
  | some r => allZero (bytesAt b 2 6) && r.reservedOk && allZero (b.drop (0x20 + 8 * r.spb.length)) && r.spb.all lvZero

/-- Check 3. -/
def RawImage.zeroOk (r : RawImage) : Bool :=
  allZero (bytesAt r.bytes 0x12 46)
    && r.entries.all (fun w => w.extractLsb' 24 7 == 0 && (entryDefined w || w == 0))
    && (r.ports.zipIdx.all (fun p => portZero r.entries p.2 p.1)) && r.tiles.all tileZero && r.pieces.all pieceZero

/-- Check 4. A count of piece records above 44 (R219) is a field value outside its range, and fails here; a FIFO tile may have
the source 0xFFFF whether or not an SRT names it as a run tile (DESIGN CHOICE, log 62). -/
def RawImage.rangeOk (r : RawImage) : Bool :=
  decide (r.npiece ≤ 44)
    && r.entries.all (fun w => (List.range 6).all (fun p => entryField w p ≤ 6))
    && r.ports.zipIdx.all (fun p => numAt p.1 0 2 == p.2 && numAt p.1 4 1 ≤ 4 && (portRec p.1).spb.all lvRange)
    && (r.tiles.map tileRec).all (fun t =>
      t.role ≤ 3 && (t.role != 2 || (1 ≤ t.depth && t.depth ≤ 32768)) && (t.role == 2 || t.src == 0xFFFF)
        && t.initoff % 64 == 0 && t.initlen % 4 == 0 && t.initlen ≤ 131072)
    && r.pieces.all (fun b =>
      match recordAs b with
      | none => false
      | some q => q.fieldsOk && q.spb.all lvRange && (q.src.drop (kindOf q.num).inputs).all (· == 0xFFFF))

/-- Numbers rise strictly. -/
def rising : List Nat → Bool
  | a :: b :: l => decide (a < b) && rising (b :: l)
  | _ => true

/-- Check 5. -/
def RawImage.orderOk (r : RawImage) : Bool :=
  r.pieces.all (fun b => (recordNumber b).isSome) && rising (r.pieces.filterMap recordNumber)

/-- The image whose bytes have passed check 5. -/
def RawImage.image (r : RawImage) : Image where
  tag := BitVec.ofNat 8 (numAt r.bytes 7 1)
  size := r.size
  crc := BitVec.ofNat 32 (numAt r.bytes 12 4)
  svcsrc := BitVec.ofNat 16 (numAt r.bytes 0x10 2)
  entries := r.entries
  ports := r.ports.map portRec
  tiles := r.tiles.map tileRec
  pieces := r.pieces.filterMap (fun b => (recordNumber b).map (fun n => pieceRec n b))

/-- The piece with a number. -/
def Image.piece (g : Image) (n : Nat) : Option PieceRec := g.pieces.find? (fun r => r.num == n)

/-- Every source code that an image holds. -/
def Image.sources (g : Image) : List (BitVec 16) :=
  g.svcsrc :: (g.ports.map PortRec.src ++ g.tiles.map TileRec.src ++ g.pieces.flatMap PieceRec.src)

/-- A source code is valid and names an output that exists (R220); the role of a tile is left to check 8. -/
def Image.sourceOk (g : Image) (c : BitVec 16) : Bool :=
  let x := c.toNat
  match x / 2 ^ 14 with
  | 0 =>
    match g.piece (x / 256) with
    | some r => x % 256 < (kindOf r.num).outputs
    | none => false
  | 1 => x % 2 ^ 14 < 8
  | 2 => [0, 1, 2, 3, 6, 7, 8, 9].contains (x % 2 ^ 14)
  | _ => x == 0xFFFF

/-- Check 6. -/
def Image.routesOk (g : Image) : Bool :=
  g.sources.all g.sourceOk && (g.ports.take 4).all (fun p => p.src == 0xFFFF)

/-- Check 7. -/
def Image.inputsOk (g : Image) : Bool :=
  g.pieces.all (fun r => (List.range (kindOf r.num).inputs).all (fun j =>
    match r.wants j with
    | some b => r.bound j == b
    | none => true))

/-- The role of a tile. -/
def Image.role (g : Image) (n : Nat) : Nat := match g.tiles[n]? with | some t => t.role | none => 0

/-- A source code names tile n's output. -/
def namesTile (n : Nat) (c : BitVec 16) : Bool := c.toNat == 0x4000 + n

/-- A tile holds the runs of an SRT: role FIFO, with no route (R204). -/
def Image.runTile (g : Image) (n : Nat) : Bool :=
  g.role n == 2 && (g.tiles[n]?.map TileRec.src).getD 0 == 0xFFFF && !(g.sources.any (namesTile n))

/-- The tiles that a piece refers to have the roles it needs. Two SRT pieces may name the same run tiles (DESIGN CHOICE,
log 62), and one SRT with WIN = 0 and TA = TB fails this check, code 8, and not the range check, code 4 (DESIGN CHOICE, log 62: R204
asks for distinct tiles and R225 lists no code for it). -/
def Image.tilesOf (g : Image) (r : PieceRec) : Bool :=
  match kindOf r.num with
  | .tbl => g.role (r.pf 0 4 2) == 1
  | .agen => r.pf 0 6 5 != 2 || g.role (r.pf 0 11 9) == 1
  | .srt =>
    r.pf 0 6 0 != 0 || (r.pf 0 12 10 != r.pf 0 15 13 && g.runTile (r.pf 0 12 10) && g.runTile (r.pf 0 15 13))
  | _ => true

/-- No two blocks of initial data overlap; a block that overlaps the records is overlapping initial data too (DESIGN
CHOICE, log 62). -/
def Image.dataApart (g : Image) : Bool :=
  let bs := (g.tiles.filter (fun t => t.initlen != 0)).map (fun t => (t.initoff, t.initlen))
  bs.all (fun b => 64 * (16 + g.pieces.length) ≤ b.1)
    && (bs.zipIdx.all (fun x => bs.zipIdx.all (fun y => x.2 == y.2 || !(overlap x.1.1 x.1.2 y.1.1 y.1.2))))

/-- Check 8. -/
def Image.tilesOk (g : Image) : Bool :=
  (List.range 8).all (fun n => !(g.sources.any (namesTile n)) || g.role n == 2) && g.pieces.all g.tilesOf && g.dataApart

/-- Check 9. -/
def Image.spbOk (g : Image) : Bool :=
  g.ports.zipIdx.all (fun p =>
      p.1.spb.all (fun w => lvStride w == 0) && (p.1.spb.all (fun w => lvKind w != 3) || (4 ≤ p.2 && p.1.spb.length == 1)))
    && g.pieces.all (fun r => kindOf r.num != .agen
      || (r.spb.all (fun w => lvKind w != 3) && ((r.pf 0 1 0 < 2) == (1 ≤ r.spb.length))))

/-- The pieces that feed a piece directly. -/
def PieceRec.feeders (r : PieceRec) : List Nat := (r.src.filter (fun c => c.toNat < 2 ^ 14)).map (fun c => c.toNat / 256)

/-- The pieces of a list that some piece of it feeds; what is left after as many rounds lies on or behind a cycle. -/
def peel (l : List PieceRec) : Nat → List PieceRec
  | 0 => l
  | n + 1 => peel (l.filter (fun r => r.feeders.any (fun k => l.any (fun q => q.num == k)))) n

/-- Check 10: no cycle of routes through pieces without a FIFO tile (R217). -/
def Image.acyclic (g : Image) : Bool := (peel g.pieces (g.pieces.length + 1)).isEmpty

/-- Check 11. -/
def Image.entriesOk (g : Image) : Bool :=
  g.ports.zipIdx.all (fun p => !(portBound g.entries p.2)
    || (!p.1.spb.isEmpty && (p.2 < 4 || p.1.src != 0xFFFF)))

/-- The image that bytes hold, or the code of the first failed check (R225). -/
def parseImage (bs : List Byte) : Except Nat Image :=
  let r := rawImage bs
  if !(headOk bs && r.dataOk) then .error 1
  else if !r.crcOk then .error 2
  else if !r.zeroOk then .error 3
  else if !r.rangeOk then .error 4
  else if !r.orderOk then .error 5
  else
    let g := r.image
    if !g.routesOk then .error 6
    else if !g.inputsOk then .error 7
    else if !g.tilesOk then .error 8
    else if !g.spbOk then .error 9
    else if !g.acyclic then .error 10
    else if !g.entriesOk then .error 11
    else .ok g

/-- A position uses a tile that another uses too (R229). -/
def Image.sharesTile (g o : Image) : Bool := (List.range 8).any (fun n => g.role n != 0 && o.role n != 0)

/-! ### Routes (R186, R189, R220) -/

/-- An output that can be a source. -/
inductive OutId where
  | piece (n j : Nat)
  | tile (n : Fin 8)
  | port (n : Fin 4)
  | mem (n : Fin 2)
  | xfer
  | svc
deriving DecidableEq, Repr

/-- An input that takes a source. -/
inductive InId where
  | piece (n j : Nat)
  | tile (n : Fin 8)
  | port (n : Fin 2)
  | svc
deriving DecidableEq, Repr

/-- The output that a valid source code names; none when unbound. -/
def outOf (c : BitVec 16) : Option OutId :=
  let x := c.toNat
  match x / 2 ^ 14 with
  | 0 => some (.piece (x / 256) (x % 256))
  | 1 => some (.tile (Fin.ofNat 8 (x % 8)))
  | 2 =>
    match x % 16 with
    | 6 => some (.mem 0)
    | 7 => some (.mem 1)
    | 8 => some .xfer
    | 9 => some .svc
    | p => some (.port (Fin.ofNat 4 p))
  | _ => none

/-- Every bound input of an image with the output that feeds it. -/
def Image.routes (g : Image) : List (OutId × InId) :=
  let of (c : BitVec 16) (i : InId) : List (OutId × InId) :=
    match outOf c with
    | some o => [(o, i)]
    | none => []
  of g.svcsrc .svc
    ++ (List.finRange 2).flatMap (fun j => of ((g.ports[4 + j.val]?.map PortRec.src).getD 0xFFFF) (.port j))
    ++ (List.finRange 8).flatMap (fun n => of ((g.tiles[n.val]?.map TileRec.src).getD 0xFFFF) (.tile n))
    ++ g.pieces.flatMap (fun r => r.src.zipIdx.flatMap (fun p => of p.1 (.piece r.num p.2)))

/-- The destinations of an output. -/
def destsOf (rs : List (OutId × InId)) (o : OutId) : List InId := (rs.filter (fun r => r.1 == o)).map (·.2)

/-- Every output of an image. -/
def Image.outputs (g : Image) : List OutId :=
  (List.finRange 4).map OutId.port ++ (List.finRange 2).map OutId.mem ++ [.xfer, .svc]
    ++ ((List.finRange 8).filter (fun n => g.role n.val == 2)).map OutId.tile
    ++ g.pieces.flatMap (fun r => (List.range (kindOf r.num).outputs).map (OutId.piece r.num))

end Sys2Proof.Machine
end

