-- ==== Sys2Proof/Machine/Flags.lean ====
section
/-! DEFINITION. The exception flags as the number of fcsr bits 6:2 (R53), and the sticky bits of status (R55). -/

namespace Sys2Proof.Machine

/-- A set of exception flags: NX, UF, OF, DZ, NV from bit 0 upward, the order of fcsr bits 2 to 6 (R53). -/
abbrev FpFlags := BitVec 5

/-- Inexact. -/
def flagNX : FpFlags := 0b00001#5
/-- Underflow. -/
def flagUF : FpFlags := 0b00010#5
/-- Overflow. -/
def flagOF : FpFlags := 0b00100#5
/-- Division by zero. -/
def flagDZ : FpFlags := 0b01000#5
/-- Invalid operation. -/
def flagNV : FpFlags := 0b10000#5

/-- The flags when a condition holds. -/
def flagIf (c : Bool) (f : FpFlags) : FpFlags := if c then f else 0

end Sys2Proof.Machine
end

