-- ==== Sys2Proof/Machine/Float.lean ====
section
/-! DEFINITION. Number formats and exact arithmetic (R129 to R150): BF16, FP32 and FP64 operations with one rounding,
L6 codes and quarter-octave values, and every conversion. A finite value is held exactly as a sign and a number
m × 2^e. -/

namespace Sys2Proof.Machine

/-! ### Formats and values (R131, R132) -/

/-- A binary format: exponent bits and fraction bits. -/
structure Fmt where
  eb : Nat
  mb : Nat
deriving DecidableEq, Repr

/-- BF16. -/
def bf16 : Fmt := ⟨8, 7⟩
/-- FP32. -/
def fp32 : Fmt := ⟨8, 23⟩
/-- FP64. -/
def fp64 : Fmt := ⟨11, 52⟩

/-- The bits of an encoding. -/
def Fmt.width (f : Fmt) : Nat := 1 + f.eb + f.mb

/-- The exponent of the least significant bit of a subnormal. -/
def Fmt.qmin (f : Fmt) : Int := 2 - 2 ^ (f.eb - 1) - f.mb

/-- The encoding of +∞. -/
def Fmt.inf (f : Fmt) : Nat := (2 ^ f.eb - 1) * 2 ^ f.mb

/-- The default NaN (R132). -/
def Fmt.nan (f : Fmt) : Nat := f.inf + 2 ^ (f.mb - 1)

/-- The sign bit of an encoding set or clear. -/
def Fmt.sign (f : Fmt) (neg : Bool) (x : Nat) : Nat := if neg then x + 2 ^ (f.eb + f.mb) else x

/-- A decoded value: a NaN (signalling or not), an infinity, a zero, or a finite number m × 2^e with m not zero. -/
inductive Fpv where
  | nan (sig : Bool)
  | inf (neg : Bool)
  | zero (neg : Bool)
  | fin (neg : Bool) (m : Nat) (e : Int)
deriving DecidableEq, Repr

/-- The value of an encoding (R131). -/
def Fmt.value (f : Fmt) (x : Nat) : Fpv :=
  let frac := x % 2 ^ f.mb
  let ex := x / 2 ^ f.mb % 2 ^ f.eb
  let neg := x / 2 ^ (f.eb + f.mb) % 2 == 1
  if ex = 2 ^ f.eb - 1 then (if frac = 0 then .inf neg else .nan (decide (frac < 2 ^ (f.mb - 1))))
  else if ex = 0 then (if frac = 0 then .zero neg else .fin neg frac f.qmin)
  else .fin neg (2 ^ f.mb + frac) (f.qmin + ex - 1)

/-! ### Rounding (R141, R142) -/

/-- m × 2^e rounded to a multiple of 2^q under a mode for a number of the sign: the multiple, and whether it differs
from the exact value. sticky: the exact magnitude lies strictly between m × 2^e and (m + 1) × 2^e, and e is below q. -/
def roundAt (mode : Nat) (neg : Bool) (m : Nat) (e q : Int) (sticky : Bool) : Nat × Bool :=
  if q ≤ e then (m * 2 ^ (e - q).toNat, sticky)
  else
    let k := (q - e).toNat
    let n := m / 2 ^ k
    let r := m % 2 ^ k
    let half := 2 ^ (k - 1)
    let inexact := r != 0 || sticky
    let up := match mode with
      | 0 => decide (half < r) || (r == half && (sticky || n % 2 == 1))
      | 1 => false
      | 2 => neg && inexact
      | _ => !neg && inexact
    (if up then n + 1 else n, inexact)

/-- The overflow result of a mode and sign (R141). -/
def Fmt.overflow (f : Fmt) (mode : Nat) (neg : Bool) : Nat :=
  let big := match mode with
    | 0 => f.inf
    | 1 => f.inf - 1
    | 2 => if neg then f.inf else f.inf - 1
    | _ => if neg then f.inf - 1 else f.inf
  f.sign neg big

/-- A non-zero magnitude m × 2^e (sticky as in roundAt) rounded once into a format: the encoding and the flags.
Tininess is detected after rounding (R142). -/
def Fmt.round (f : Fmt) (mode : Nat) (neg : Bool) (m : Nat) (e : Int) (sticky : Bool := false) : Nat × FpFlags :=
  let top : Int := Nat.log2 m + e
  let free : Int := top - f.mb
  let q := if free < f.qmin then f.qmin else free
  let (n, inexact) := roundAt mode neg m e q sticky
  let bits := (q - f.qmin).toNat * 2 ^ f.mb + n
  if f.inf ≤ bits then (f.overflow mode neg, flagOF ||| flagNX)
  else
    let (n', _) := roundAt mode neg m e free sticky
    let tiny := decide (free < f.qmin) && !(decide (free + 1 = f.qmin) && n' == 2 ^ (f.mb + 1))
    (f.sign neg bits, flagIf inexact flagNX ||| flagIf (tiny && inexact) flagUF)

/-- The exact signed number x × 2^e rounded; an exact zero is the zero of the given sign. -/
def Fmt.roundInt (f : Fmt) (mode : Nat) (x : Int) (e : Int) (zeroNeg : Bool) : Nat × FpFlags :=
  if x = 0 then (f.sign zeroNeg 0, 0) else f.round mode (decide (x < 0)) x.natAbs e

/-! ### Operations (R104, R132, R142, R144) -/

/-- NV for a signalling NaN. -/
def Fpv.sigNV (x : Fpv) : FpFlags := match x with | .nan true => flagNV | _ => 0

/-- The value is a NaN. -/
def Fpv.isNan (x : Fpv) : Bool := match x with | .nan _ => true | _ => false

/-- The sign of a value. -/
def Fpv.neg (x : Fpv) : Bool :=
  match x with
  | .nan _ => false
  | .inf n | .zero n | .fin n _ _ => n

/-- The value with its sign changed. -/
def Fpv.negate (x : Fpv) : Fpv :=
  match x with
  | .nan s => .nan s
  | .inf n => .inf (!n)
  | .zero n => .zero (!n)
  | .fin n m e => .fin (!n) m e

/-- A signed magnitude. -/
def signedInt (neg : Bool) (m : Nat) : Int := if neg then -(m : Int) else m

/-- The exact sum of two finite values at their lower exponent. -/
def addExact (n1 : Bool) (m1 : Nat) (e1 : Int) (n2 : Bool) (m2 : Nat) (e2 : Int) : Int × Int :=
  let e := if e1 < e2 then e1 else e2
  (signedInt n1 (m1 * 2 ^ (e1 - e).toNat) + signedInt n2 (m2 * 2 ^ (e2 - e).toNat), e)

/-- The encoding of a value that a format holds exactly or that is rounded into it. -/
def Fmt.encode (f : Fmt) (mode : Nat) (x : Fpv) : Nat × FpFlags :=
  match x with
  | .nan s => (f.nan, flagIf s flagNV)
  | .inf n => (f.sign n f.inf, 0)
  | .zero n => (f.sign n 0, 0)
  | .fin n m e => f.round mode n m e

/-- The sum of two values, rounded once. -/
def Fmt.addV (f : Fmt) (mode : Nat) (x y : Fpv) : Nat × FpFlags :=
  match x, y with
  | .nan _, _ | _, .nan _ => (f.nan, x.sigNV ||| y.sigNV)
  | .inf a, .inf b => if a = b then (f.sign a f.inf, 0) else (f.nan, flagNV)
  | .inf a, _ | _, .inf a => (f.sign a f.inf, 0)
  | .zero a, .zero b => (f.sign (if a = b then a else mode == 2) 0, 0)
  | .zero _, v | v, .zero _ => f.encode mode v
  | .fin n1 m1 e1, .fin n2 m2 e2 =>
    let (s, e) := addExact n1 m1 e1 n2 m2 e2
    f.roundInt mode s e (mode == 2)

/-- addition. -/
def Fmt.add (f : Fmt) (mode x y : Nat) : Nat × FpFlags := f.addV mode (f.value x) (f.value y)

/-- subtraction. -/
def Fmt.sub (f : Fmt) (mode x y : Nat) : Nat × FpFlags := f.addV mode (f.value x) (f.value y).negate

/-- The exact product of two values that are no NaN, with whether it is the invalid 0 × ∞. -/
def mulV (x y : Fpv) : Fpv × Bool :=
  let n := x.neg != y.neg
  match x, y with
  | .inf _, .zero _ | .zero _, .inf _ => (.nan false, true)
  | .inf _, _ | _, .inf _ => (.inf n, false)
  | .fin _ m1 e1, .fin _ m2 e2 => (.fin n (m1 * m2) (e1 + e2), false)
  | _, _ => (.zero n, false)

/-- multiplication. -/
def Fmt.mul (f : Fmt) (mode x y : Nat) : Nat × FpFlags :=
  let a := f.value x
  let b := f.value y
  if a.isNan || b.isNan then (f.nan, a.sigNV ||| b.sigNV)
  else
    match mulV a b with
    | (_, true) => (f.nan, flagNV)
    | (p, false) => f.encode mode p

/-- fusedMultiplyAdd of values: a product 0 × ∞ raises NV whatever the addend (R142). -/
def Fmt.fmaV (f : Fmt) (mode : Nat) (a b c : Fpv) : Nat × FpFlags :=
  if a.isNan || b.isNan then (f.nan, a.sigNV ||| b.sigNV ||| c.sigNV)
  else
    match mulV a b with
    | (_, true) => (f.nan, flagNV)
    | (p, false) => f.addV mode p c

/-- fusedMultiplyAdd: x × y + z with one rounding. -/
def Fmt.fma (f : Fmt) (mode x y z : Nat) : Nat × FpFlags := f.fmaV mode (f.value x) (f.value y) (f.value z)

/-- z − x × y with one rounding. -/
def Fmt.fnma (f : Fmt) (mode x y z : Nat) : Nat × FpFlags := f.fmaV mode (f.value x).negate (f.value y) (f.value z)

/-- division. -/
def Fmt.div (f : Fmt) (mode x y : Nat) : Nat × FpFlags :=
  let a := f.value x
  let b := f.value y
  let n := a.neg != b.neg
  match a, b with
  | .nan _, _ | _, .nan _ => (f.nan, a.sigNV ||| b.sigNV)
  | .inf _, .inf _ | .zero _, .zero _ => (f.nan, flagNV)
  | .inf _, _ => (f.sign n f.inf, 0)
  | _, .inf _ | .zero _, _ => (f.sign n 0, 0)
  | .fin .., .zero _ => (f.sign n f.inf, flagDZ)
  | .fin _ m1 e1, .fin _ m2 e2 =>
    let k : Nat := 128
    f.round mode n (m1 * 2 ^ k / m2) (e1 - e2 - k) (m1 * 2 ^ k % m2 != 0)

/-- The integer square root of n, from bit b - 1 of the root downward, r being the bits above. -/
def isqrt (n r : Nat) : Nat → Nat
  | 0 => r
  | b + 1 => if (r + 2 ^ b) * (r + 2 ^ b) ≤ n then isqrt n (r + 2 ^ b) b else isqrt n r b

/-- squareRoot, correctly rounded. -/
def Fmt.sqrt (f : Fmt) (mode x : Nat) : Nat × FpFlags :=
  match f.value x with
  | .nan s => (f.nan, flagIf s flagNV)
  | .zero n => (f.sign n 0, 0)
  | .inf false => (f.inf, 0)
  | .inf true | .fin true _ _ => (f.nan, flagNV)
  | .fin false m e =>
    -- m × 2^e = m' × 2^e' with e' even and m' of at least 118 bits
    let k := 120 + (e % 2).toNat
    let m' := m * 2 ^ k
    let r := isqrt m' 0 90
    f.round mode false r ((e - k) / 2) (r * r != m')

/-- Whether x < y, for values that are no NaN; −0 equals +0. -/
def ltV (x y : Fpv) : Bool :=
  match x, y with
  | .inf a, .inf b => a && !b
  | .inf a, _ => a
  | _, .inf b => !b
  | .zero _, .zero _ => false
  | .zero _, .fin n _ _ => !n
  | .fin n _ _, .zero _ => n
  | .fin n1 m1 e1, .fin n2 m2 e2 => decide ((addExact n1 m1 e1 (!n2) m2 e2).1 < 0)
  | _, _ => false

/-- Whether x = y, for values that are no NaN; −0 equals +0. -/
def eqV (x y : Fpv) : Bool :=
  match x, y with
  | .inf a, .inf b => a == b
  | .zero _, .zero _ => true
  | .fin n1 m1 e1, .fin n2 m2 e2 => decide ((addExact n1 m1 e1 (!n2) m2 e2).1 = 0)
  | _, _ => false

/-- x is below y in the order that puts −0 below +0. -/
def below0 (x y : Fpv) : Bool := ltV x y || (eqV x y && x.neg && !y.neg)

/-- minimumNumber (least: true) and maximumNumber (R105, R144). -/
def Fmt.pick (f : Fmt) (least : Bool) (x y : Nat) : Nat × FpFlags :=
  let a := f.value x
  let b := f.value y
  let fl := a.sigNV ||| b.sigNV
  if a.isNan && b.isNan then (f.nan, fl)
  else if a.isNan then (y, fl)
  else if b.isNan then (x, fl)
  else if (if least then below0 b a else below0 a b) then (y, fl) else (x, fl)

/-- minimumNumber. -/
def Fmt.min (f : Fmt) (x y : Nat) : Nat × FpFlags := f.pick true x y

/-- maximumNumber. -/
def Fmt.max (f : Fmt) (x y : Nat) : Nat × FpFlags := f.pick false x y

/-- compareQuietEqual. -/
def Fmt.cmpEq (f : Fmt) (x y : Nat) : Bool × FpFlags :=
  let a := f.value x
  let b := f.value y
  if a.isNan || b.isNan then (false, a.sigNV ||| b.sigNV) else (eqV a b, 0)

/-- compareSignalingLess. -/
def Fmt.cmpLt (f : Fmt) (x y : Nat) : Bool × FpFlags :=
  let a := f.value x
  let b := f.value y
  if a.isNan || b.isNan then (false, flagNV) else (ltV a b, 0)

/-- compareSignalingLessEqual. -/
def Fmt.cmpLe (f : Fmt) (x y : Nat) : Bool × FpFlags :=
  let a := f.value x
  let b := f.value y
  if a.isNan || b.isNan then (false, flagNV) else (ltV a b || eqV a b, 0)

/-! ### exp2 (R145) -/

/-- ln 2 in units of 2^−320, rounded down. -/
def ln2 : Nat :=
  0xB17217F7D1CF79ABC9E3B39803F2F6AF40F343267298B62D8A0D175B8BAAFA2BE7B876206DEBAC98

/-- The sum of the terms y^k / k! from term k on, in units of 2^−320, each rounded down. -/
def expTerms (y term k : Nat) : Nat → Nat
  | 0 => 0
  | n + 1 => term + expTerms y (term * y / (k * 2 ^ 320)) (k + 1) n

/-- 2^f for f = g × 2^−h in (0, 1), in units of 2^−320, rounded down within 2^10 units (DEDUCED, log 15). -/
def exp2Frac (g h : Nat) : Nat :=
  expTerms (ln2 * g / 2 ^ h) (2 ^ 320) 1 90

/-- vfexp2 of one element (R145). A value nearer to 1 than 2^−64 is 1 with a remainder of the sign of x; elsewhere the
fraction's power is taken to 128 bits with a remainder, since it is irrational. -/
def Fmt.exp2 (f : Fmt) (mode x : Nat) : Nat × FpFlags :=
  match f.value x with
  | .nan s => (f.nan, flagIf s flagNV)
  | .inf false => (f.inf, 0)
  | .inf true => (0, 0)
  | .zero _ => f.round mode false 1 0
  | .fin n m e =>
    let top : Int := Nat.log2 m + e
    if top < -64 then (if n then f.round mode false (2 ^ 64 - 1) (-64) true else f.round mode false (2 ^ 64) (-64) true)
    else if 12 < top then
      -- beyond every exponent of every format
      (if n then f.round mode false 1 (-8192) else f.round mode false 1 8192)
    else if 0 ≤ e then f.round mode false 1 (signedInt n (m * 2 ^ e.toNat))
    else
      let h := (-e).toNat
      let v := signedInt n m
      let i := v / 2 ^ h
      let g := (v - i * 2 ^ h).toNat
      if g = 0 then f.round mode false 1 i
      else f.round mode false (exp2Frac g h / 2 ^ 192) (i - 128) true

/-! ### Integers (R106, R147, R148) -/

/-- The largest and the smallest value of an integer format of w bits. -/
def intMax (signed : Bool) (w : Nat) : Int := if signed then 2 ^ (w - 1) - 1 else 2 ^ w - 1

/-- The smallest value of an integer format of w bits. -/
def intMin (signed : Bool) (w : Nat) : Int := if signed then -(2 ^ (w - 1)) else 0

/-- A value brought into the range of an integer format, with whether it lay outside. -/
def clampInt (signed : Bool) (w : Nat) (x : Int) : Int × Bool :=
  if intMax signed w < x then (intMax signed w, true)
  else if x < intMin signed w then (intMin signed w, true)
  else (x, false)

/-- A floating-point value converted to an integer format (R106). -/
def toInt (mode : Nat) (signed : Bool) (w : Nat) (x : Fpv) : Int × FpFlags :=
  match x with
  | .nan _ => (intMax signed w, flagNV)
  | .inf n => (if n then intMin signed w else intMax signed w, flagNV)
  | .zero _ => (0, 0)
  | .fin n m e =>
    let (k, inexact) := roundAt mode n m e 0 false
    let (v, out) := clampInt signed w (signedInt n k)
    (v, if out then flagNV else flagIf inexact flagNX)

/-- An integer converted to a floating-point format; 0 is +0 (R147). -/
def Fmt.ofInt (f : Fmt) (mode : Nat) (x : Int) : Nat × FpFlags := f.roundInt mode x 0 false

/-! ### L6 and quarter octaves (R133 to R135, R149, R150) -/

/-- The table M, in units of 2^−16. -/
def quarterM : Nat → Nat
  | 0 => 0x10000
  | 1 => 0x13070
  | 2 => 0x16A0A
  | _ => 0x1AE8A

/-- Q(j) as m × 2^e. -/
def quarter (j : Int) : Nat × Int := (quarterM (j % 4).toNat, j / 4 - 16)

/-- What an L6 code is: zero, NaR, or a sign and a log index. -/
inductive L6v where
  | zero
  | nar
  | val (neg : Bool) (k : Int)
deriving DecidableEq, Repr

/-- The meaning of a container that holds an L6 code; bits 7:6 are ignored. -/
def l6Of (x : Nat) : L6v :=
  let s := x / 32 % 2 == 1
  let e := x % 32
  if e = 0 then (if s then .nar else .zero) else .val s ((e : Int) - 16)

/-- A code converted from L6 with scale σ (R149); NaR is a NaN that is not signalling. -/
def fromL6 (x : Nat) (sigma : Int) : Fpv :=
  match l6Of x with
  | .zero => .zero false
  | .nar => .nan false
  | .val n k => let (m, e) := quarter (k + sigma); .fin n m e

/-- Compares m1 × 2^e1 with m2 × 2^e2. -/
def cmpMag (m1 : Nat) (e1 : Int) (m2 : Nat) (e2 : Int) : Ordering :=
  let e := if e1 < e2 then e1 else e2
  compare (m1 * 2 ^ (e1 - e).toNat) (m2 * 2 ^ (e2 - e).toNat)

/-- The number of codes 1 to 31 whose candidate at scale σ is not above m × 2^e: the e field of the largest candidate
not above it, 0 being zero. -/
def l6Floor (sigma : Int) (m : Nat) (e : Int) : Nat :=
  (List.range 31).countP (fun i =>
    let (qm, qe) := quarter ((i : Int) - 15 + sigma)
    cmpMag qm qe m e != .gt)

/-- The candidate of an e field: 0 is zero. -/
def l6Cand (sigma : Int) (i : Nat) : Nat × Int := if i = 0 then (0, 0) else quarter ((i : Int) - 16 + sigma)

/-- A non-zero finite magnitude rounded to L6 with scale σ (R150): the code and the flags. -/
def toL6 (mode : Nat) (sigma : Int) (n : Bool) (m : Nat) (e : Int) : Nat × FpFlags :=
  let lo := l6Floor sigma m e
  let (qm, qe) := l6Cand sigma lo
  let exact := lo != 0 && cmpMag qm qe m e == .eq
  let code (i : Nat) : Nat := if i = 0 then 0 else (if n then 32 else 0) + i
  if exact then (code lo, 0)
  else if lo = 31 then (code 31, flagOF ||| flagNX)
  else
    let hi := lo + 1
    let (hm, he) := l6Cand sigma hi
    -- twice the value against the sum of its neighbours, at one exponent
    let b := if he < e then (if he < qe then he else qe) else (if e < qe then e else qe)
    let at_ (m : Nat) (e : Int) : Nat := m * 2 ^ (e - b).toNat
    let up := match mode with
      | 0 =>
        match compare (2 * at_ m e) ((if lo = 0 then 0 else at_ qm qe) + at_ hm he) with
        | .gt => true
        | .lt => false
        | .eq => lo % 2 == 1
      | 1 => false
      | 2 => n
      | _ => !n
    (code (if up then hi else lo), flagNX ||| flagIf (lo == 0) flagUF)

/-- A value converted to L6 with scale σ (R147, R150). -/
def Fpv.toL6 (x : Fpv) (mode : Nat) (sigma : Int) : Nat × FpFlags :=
  match x with
  | .nan _ | .inf _ => (0x20, flagNV)
  | .zero _ => (0, 0)
  | .fin n m e => Sys2Proof.Machine.toL6 mode sigma n m e

/-- An integer as a value. -/
def ofIntV (x : Int) : Fpv := if x = 0 then .zero false else .fin (decide (x < 0)) x.natAbs 0

/-! ### Conversions between the formats of R129 (R147 to R150) -/

/-- The width of an element of a format code in a register (R129). -/
def codeWidth (c : Nat) : Nat :=
  match c with
  | 0 | 1 | 8 | 9 => 8
  | 2 | 3 | 0xA => 16
  | 4 | 5 | 0xB => 32
  | _ => 64

/-- The binary format of a code. -/
def codeFmt (c : Nat) : Fmt :=
  match c with
  | 0xA => bf16
  | 0xB => fp32
  | _ => fp64

/-- The integer of w bits that an encoding holds. -/
def intOf (signed : Bool) (w x : Nat) : Int :=
  let y := x % 2 ^ w
  if signed && decide (2 ^ (w - 1) ≤ y) then (y : Int) - 2 ^ w else y

/-- The two's complement encoding of an integer in w bits. -/
def intBits (w : Nat) (x : Int) : Nat := (x % 2 ^ w).toNat

/-- A code is an integer format. -/
def codeIsInt (c : Nat) : Bool := decide (c < 8)

/-- The exact value of an element of a format; sigma is the scale of an L6 source. -/
def codeValue (c x : Nat) (sigma : Int) : Fpv :=
  if codeIsInt c then ofIntV (intOf (c % 2 == 0) (codeWidth c) x)
  else if c = 8 then fromL6 x sigma
  else (codeFmt c).value x

/-- Converts element x of format src to format dst with one rounding: the element and the flags. -/
def convert (dst src mode : Nat) (sigma : Int) (x : Nat) : Nat × FpFlags :=
  let v := codeValue src x sigma
  if codeIsInt dst then
    let w := codeWidth dst
    if codeIsInt src then
      (intBits w (clampInt (dst % 2 == 0) w (intOf (src % 2 == 0) (codeWidth src) x)).1, 0)
    else
      let (r, fl) := toInt mode (dst % 2 == 0) w v
      (intBits w r, fl)
  else if dst = 8 then (if src = 8 && l6Of x == .nar then (0x20, 0) else v.toL6 mode sigma)
  else (codeFmt dst).encode mode v

end Sys2Proof.Machine
end

