-- ==== Sys2Proof/Machine/VecBase.lean ====
section
/-! DEFINITION. What the vector instructions share (R151 to R159): legality, the elements still to do, fill counts,
progress records, and the two loops over elements: one on registers alone, one that reaches memory. -/

namespace Sys2Proof.Machine

/-! ### Legality (R45, R47, R154) -/

/-- A field names a group of the current grouping factor (R45). -/
def Ctx.group (c : Ctx) (r : BitVec 5) : Bool := r.toNat % c.gf == 0

/-- A governing mask may be read: m0, or a VLMAX of at most 512 (R47). -/
def Ctx.maskOk (c : Ctx) (m : BitVec 3) : Bool := m == 0 || decide (c.vlmax ≤ 512)

/-- A mask register may be written (R47). -/
def Ctx.maskWrite (c : Ctx) : Bool := decide (c.vlmax ≤ 512)

/-- A W-class instruction may issue (R154). -/
def Ctx.whole (c : Ctx) : Bool := c.vstart == 0

/-! ### Elements (R45, R151, R156) -/

/-- The lane group of element i (R45). -/
def laneOf (ew i : Nat) : Nat := i * ew / 256 % 8

/-- The element chunk of element i: 256 bits (R158). -/
def chunkOf (ew i : Nat) : Nat := i * ew / 256

/-- The element at which the instruction was issued: `vstart`, or, once it has a progress record, what goes with the record
(DEDUCED, log 7). -/
def Ctx.start (c : Ctx) : Nat :=
  match c.resumed with
  | some (.vector _ k _) => k
  | _ => c.vstart.toNat

/-- The body elements not complete, ascending: from `vstart`, or each lane group from its counter when the instruction
is re-entered from a progress record (R151, R157). -/
def Ctx.todo (c : Ctx) : List Nat :=
  match c.resumed with
  | some (.vector _ _ e) => (List.range c.vl.toNat).filter (fun i => decide (e.getD (laneOf c.ew i) 0 ≤ i))
  | _ => (List.range c.vl.toNat).drop c.vstart.toNat

/-- The counters E0 to E7 for the elements not complete, full for a lane group that is complete: `vl` in a record (R156). -/
def countersOf (ew full : Nat) (rest : List Nat) : List Nat :=
  (List.range 8).map (fun g => (rest.find? (fun i => laneOf ew i == g)).getD full)

/-- The least of the counters of a record (R156). -/
def leastOf : List Nat → Nat
  | [] => 0
  | k :: ks => ks.foldl Nat.min k

/-- The elements of the lowest incomplete chunk, and those after it (R364). -/
def splitChunk (ew : Nat) : List Nat → List Nat × List Nat
  | [] => ([], [])
  | i :: is => ((i :: is).span (fun k => chunkOf ew k == chunkOf ew i))

/-- The moving thread executes one portion of its instruction: in element-step mode (R364), when only a portion is asked
for (R9), or on its way to a PREEMPT (R359); a transaction runs whole. -/
def State.inParts (s : State) : Bool := (s.me.estep || s.portion || s.me.preempt.isSome) && !s.me.txa

/-- What one execution does, of the elements to do: everything, or one chunk (R158, R364). -/
def Ctx.share (c : Ctx) (parts : Bool) (todo : List Nat) : List Nat × List Nat :=
  if parts then splitChunk c.ew todo else (todo, [])

/-- The kind 1 record of an instruction with its counters (R350). -/
def vectorRecord (i : Instr) (e : List Nat) : List Byte :=
  padTo 64 (e.flatMap (leBytes 2) ++
    match encode i with
    | some w => leBytes 4 w.first.toNat ++ leBytes 4 w.second.toNat
    | none => [])

/-- The state that a stop leaves: `vstart` at the least counter (R156), the re-entered record consumed. -/
def Ctx.stopAt (c : Ctx) (rest : List Nat) : Ctx :=
  { c with vstart := BitVec.ofNat 13 (leastOf (countersOf c.ew c.vl.toNat rest)), resumed := none }

/-- A vector instruction stopped by a trap with the elements not complete (R156): kind 1, resuming at it. -/
def vectorTrap (i : Instr) (s : State) (q : Trap) (rest : List Nat) : Stop :=
  let c := s.me
  .trap (s.onMe (fun c => (c.stopAt rest).noteIssue c.start ((countersOf c.ew 8192 rest).headD 0 == 8192)))
    { q with kind := 1, prog := vectorRecord i (countersOf c.ew c.vl.toNat rest) }

/-- The context of an instruction that stands with the elements rest not complete: its record is kept. -/
def Ctx.standAt (c : Ctx) (p : Standing) (rest : List Nat) : Ctx :=
  { c with resumed := some (.vector p c.start (countersOf c.ew 8192 rest)) }

/-- The end of a portion that leaves elements not complete: the STEP trap (R364), or a pause (R9, R158). -/
def partStop (i : Instr) (s : State) (rest : List Nat) : Stop :=
  if s.me.estep then vectorTrap i s ⟨Cause.step.num, 0, s.pc, s.pc, true, false, 0, [], []⟩ rest
  else .wait (s.onMe (fun c => c.standAt .paused rest))

/-! ### Completion (R153, R154) -/

/-- The fill counts of a group set to n elements. -/
def Ctx.fillGroup (c : Ctx) (d : BitVec 5) (n : Nat) : Ctx :=
  (List.range c.gf).foldl (fun k j => k.setFill (d.toNat + j) (Nat.min (n * c.ew / 8 - 512 * j) 512)) c

/-- A vector instruction completes: `vstart` becomes 0 (R154). -/
def Ctx.complete (c : Ctx) : Ctx := { c with vstart := 0, resumed := none }

/-- A completed vector instruction of n bytes. -/
def State.vdone (s : State) (n : Nat) : State := (s.onMe Ctx.complete).advance n

/-! ### The loop over registers -/

/-- Runs f over the elements to do; f changes the context alone and cannot stop. fin is what completion adds. -/
def vecPure (i : Instr) (s : State) (f : Ctx → Nat → Ctx) (fin : Ctx → Ctx) : Run State :=
  let (now, rest) := s.me.share s.inParts s.me.todo
  let s1 := s.onMe (fun c => now.foldl f c)
  if rest.isEmpty then .ok ((s1.onMe fin).vdone 4) else .error (partStop i s1 rest)

/-! ### The loop over memory -/

/-- How a run over elements ends. -/
inductive VecRan where
  | all (s : State)
  | stopped (e : Stop) (rest : List Nat)

/-- Runs f over elements in ascending order until one stops. -/
def vecRun (f : State → Nat → Run State) (s : State) : List Nat → VecRan
  | [] => .all s
  | i :: is =>
    match f s i with
    | .ok s1 => vecRun f s1 is
    | .error e => .stopped e (i :: is)

/-- Where an instruction stands whose element waits, with the elements rest not complete (R158): at a chunk boundary or
where it was issued, or inside a chunk. -/
def Ctx.waitsAt (c : Ctx) (rest : List Nat) : Standing :=
  let k := rest.headD 0
  if k ≤ c.start || k * c.ew % 256 == 0 then .waits else .inside

/-- The stop of a run over elements, with the elements not complete and where a wait leaves the instruction. Inside a
transaction the instruction's own effects are not kept (R342). -/
def vecStop (i : Instr) (s0 : State) (e : Stop) (rest : List Nat) (p : Standing := s0.me.waitsAt rest) : Stop :=
  match e with
  | .trap s q => if s0.me.txa then .trap s0 q else vectorTrap i s q rest
  | .abort _ c tc => .abort s0 c tc
  | .wait s => .wait (if s0.me.txa then s0.holdFrom s else s.onMe (fun c => c.standAt p rest))

/-- Runs f over the elements to do, stopping with progress (R156); fin is what completion adds, and n the instruction's
bytes. -/
def vecMem (i : Instr) (n : Nat) (s : State) (f : State → Nat → Run State) (fin : State → State) : Run State :=
  let (now, rest) := s.me.share s.inParts s.me.todo
  match vecRun f s now with
  | .stopped e r => .error (vecStop i s e (r ++ rest))
  | .all s1 => if rest.isEmpty then .ok ((fin s1).vdone n) else .error (partStop i s1 rest)

/-! ### Operands -/

/-- The registers that a group of elements of width w spans: GS of R181 and GI of R164. -/
def Ctx.spanOf (c : Ctx) (w : Nat) : Nat := Nat.max 1 (c.gf * w / c.ew)

/-- The second operand of an element: G(b) in the element's width, or the element of group b (R173). -/
def Ctx.second (c : Ctx) (b : BitVec 5) (v : BitVec 1) (k : Nat) : Nat :=
  if v = 1 then (c.G b).toNat % 2 ^ c.ew else c.el c.ew b.toNat k

/-- The binary format of the element width (R174); EW 8 has none. -/
def Ctx.fmt (c : Ctx) : Fmt := if c.ew = 16 then bf16 else if c.ew = 32 then fp32 else fp64

/-- A mask with bit k written. -/
def Ctx.setMaskBit (c : Ctx) (r : BitVec 3) (k : Nat) (b : Bool) : Ctx :=
  c.setM r (setBits (c.M r) k 1 (if b then 1 else 0))

/-- A signed element. -/
def elInt (ew x : Nat) : Int := intOf true ew x

end Sys2Proof.Machine
end

