-- ==== Sys2Proof/Machine/Vector.lean ====
section
/-! DEFINITION. Vector configuration, integer and floating-point arithmetic, compares, masks, permutes, reductions and
conversions (R160, R173 to R182). -/

namespace Sys2Proof.Machine

/-! ### Configuration (R160) -/

/-- `vset` with a vtype (R160). -/
def State.vconf (s : State) (d a : BitVec 5) (vt : BitVec 4) : State :=
  let n := BitVec.ofNat 13 (Nat.min (s.G a).toNat (vlmaxOf vt))
  ((s.onMe (fun c => { c with vtype := vt, vl := n, vstart := 0 })).setG d (n.zeroExtend 64)).advance 4

/-- VSET (R160). -/
def execVset (d a b : BitVec 5) (s : State) : Host.Outcome State Fault Refusal :=
  finish (.ok (s.vconf d a ((s.G b).extractLsb' 0 4)))

/-- VSETI (R160). -/
def execVseti (d a : BitVec 5) (g e : BitVec 2) (s : State) : Host.Outcome State Fault Refusal :=
  finish (.ok (s.vconf d a (g ++ e)))

/-- VFILL (R160). -/
def execVfill (d a : BitVec 5) (s : State) : Host.Outcome State Fault Refusal := finish do
  legal s (.vfill d a) (s.me.group d)
  .ok ((s.onMe (fun c => c.fillGroup d (Nat.min (s.G a).toNat c.vlmax))).advance 4)

/-- The fill count of a group in elements (R46). -/
def Ctx.groupFill (c : Ctx) (a : BitVec 5) : Nat :=
  ((List.range c.gf).map (fun j => c.fillOf (a.toNat + j) * 8 / c.ew)).sum

/-- VFILL_R (R160). -/
def execVfillR (d a : BitVec 5) (s : State) : Host.Outcome State Fault Refusal := finish do
  legal s (.vfillR d a) (s.me.group a)
  .ok ((s.setG d (BitVec.ofNat 64 (s.me.groupFill a))).advance 4)

/-! ### Integer arithmetic (R173) -/

/-- A P-class operation that writes each active element of group d (R151, R173): val gives the element and its flags
from the context as the instruction found it. -/
def vecMap (i : Instr) (ok : Bool) (d : BitVec 5) (m : BitVec 3) (val : Ctx → Nat → Nat × FpFlags) (s : State) :
    Host.Outcome State Fault Refusal := finish do
  let c0 := s.me
  legal s i (ok && c0.group d && c0.maskOk m)
  vecPure i s
    (fun c k => if c0.active m k then
        let r := val c0 k
        (c.setEl c0.ew d.toNat k r.1).raiseFlags r.2
      else c)
    (fun c => c.fillGroup d c.vl.toNat)

/-- An integer operation on two elements of EW bits (R173). -/
def vecInt (i : Instr) (op : Nat → Nat → Nat → Nat) (d a b : BitVec 5) (m : BitVec 3) (v : BitVec 1) (s : State) :
    Host.Outcome State Fault Refusal :=
  vecMap i (s.me.group a && (v == 1 || s.me.group b)) d m
    (fun c k => (op c.ew (c.el c.ew a.toNat k) (c.second b v k), 0)) s

/-- VADD (R173). -/
def execVadd (d a b : BitVec 5) (m : BitVec 3) (v : BitVec 1) (s : State) :
    Host.Outcome State Fault Refusal :=
  vecInt (.vadd d a b m v) (fun _ x y => x + y) d a b m v s

/-- VSUB (R173). -/
def execVsub (d a b : BitVec 5) (m : BitVec 3) (v : BitVec 1) (s : State) :
    Host.Outcome State Fault Refusal :=
  vecInt (.vsub d a b m v) (fun w x y => x + 2 ^ w - y) d a b m v s

/-- VMUL (R173). -/
def execVmul (d a b : BitVec 5) (m : BitVec 3) (v : BitVec 1) (s : State) :
    Host.Outcome State Fault Refusal :=
  vecInt (.vmul d a b m v) (fun _ x y => x * y) d a b m v s

/-- VMULH (R173). -/
def execVmulh (d a b : BitVec 5) (m : BitVec 3) (v : BitVec 1) (s : State) :
    Host.Outcome State Fault Refusal :=
  vecInt (.vmulh d a b m v) (fun w x y => intBits w (elInt w x * elInt w y / 2 ^ w)) d a b m v s

/-- VDIV (R173). -/
def execVdiv (d a b : BitVec 5) (m : BitVec 3) (v : BitVec 1) (s : State) :
    Host.Outcome State Fault Refusal :=
  vecInt (.vdiv d a b m v) (fun w x y => if y = 0 then 2 ^ w - 1 else intBits w (Int.tdiv (elInt w x) (elInt w y))) d a b m v s

/-- VREM (R173). -/
def execVrem (d a b : BitVec 5) (m : BitVec 3) (v : BitVec 1) (s : State) :
    Host.Outcome State Fault Refusal :=
  vecInt (.vrem d a b m v) (fun w x y => if y = 0 then x else intBits w (Int.tmod (elInt w x) (elInt w y))) d a b m v s

/-- VMIN (R173). -/
def execVmin (d a b : BitVec 5) (m : BitVec 3) (v : BitVec 1) (s : State) :
    Host.Outcome State Fault Refusal :=
  vecInt (.vmin d a b m v) (fun w x y => if elInt w x < elInt w y then x else y) d a b m v s

/-- VMAX (R173). -/
def execVmax (d a b : BitVec 5) (m : BitVec 3) (v : BitVec 1) (s : State) :
    Host.Outcome State Fault Refusal :=
  vecInt (.vmax d a b m v) (fun w x y => if elInt w x < elInt w y then y else x) d a b m v s

/-- VMINU (R173). -/
def execVminu (d a b : BitVec 5) (m : BitVec 3) (v : BitVec 1) (s : State) :
    Host.Outcome State Fault Refusal :=
  vecInt (.vminu d a b m v) (fun _ x y => Nat.min x y) d a b m v s

/-- VMAXU (R173). -/
def execVmaxu (d a b : BitVec 5) (m : BitVec 3) (v : BitVec 1) (s : State) :
    Host.Outcome State Fault Refusal :=
  vecInt (.vmaxu d a b m v) (fun _ x y => Nat.max x y) d a b m v s

/-- VAND (R173). -/
def execVand (d a b : BitVec 5) (m : BitVec 3) (v : BitVec 1) (s : State) :
    Host.Outcome State Fault Refusal :=
  vecInt (.vand d a b m v) (fun _ x y => x &&& y) d a b m v s

/-- VOR (R173). -/
def execVor (d a b : BitVec 5) (m : BitVec 3) (v : BitVec 1) (s : State) :
    Host.Outcome State Fault Refusal :=
  vecInt (.vor d a b m v) (fun _ x y => x ||| y) d a b m v s

/-- VXOR (R173). -/
def execVxor (d a b : BitVec 5) (m : BitVec 3) (v : BitVec 1) (s : State) :
    Host.Outcome State Fault Refusal :=
  vecInt (.vxor d a b m v) (fun _ x y => x ^^^ y) d a b m v s

/-- VSLL (R173). -/
def execVsll (d a b : BitVec 5) (m : BitVec 3) (v : BitVec 1) (s : State) :
    Host.Outcome State Fault Refusal :=
  vecInt (.vsll d a b m v) (fun w x y => x <<< (y % w)) d a b m v s

/-- VSRL (R173). -/
def execVsrl (d a b : BitVec 5) (m : BitVec 3) (v : BitVec 1) (s : State) :
    Host.Outcome State Fault Refusal :=
  vecInt (.vsrl d a b m v) (fun w x y => x >>> (y % w)) d a b m v s

/-- VSRA (R173). -/
def execVsra (d a b : BitVec 5) (m : BitVec 3) (v : BitVec 1) (s : State) :
    Host.Outcome State Fault Refusal :=
  vecInt (.vsra d a b m v) (fun w x y => intBits w (elInt w x / 2 ^ (y % w))) d a b m v s

/-! ### Floating-point arithmetic (R174, R145) -/

/-- A floating-point operation on two elements (R174); EW 8 raises ILLOP. -/
def vecFp (i : Instr) (op : Fmt → Nat → Nat → Nat → Nat → Nat × FpFlags) (d a b : BitVec 5) (m : BitVec 3)
    (v : BitVec 1) (s : State) : Host.Outcome State Fault Refusal :=
  vecMap i (s.me.ew != 8 && s.me.group a && (v == 1 || s.me.group b)) d m
    (fun c k => op c.fmt c.rm (c.el c.ew a.toNat k) (c.second b v k) (c.el c.ew d.toNat k)) s

/-- A floating-point operation on one element (R174). -/
def vecFp1 (i : Instr) (op : Fmt → Nat → Nat → Nat × FpFlags) (d a : BitVec 5) (m : BitVec 3) (s : State) :
    Host.Outcome State Fault Refusal :=
  vecMap i (s.me.ew != 8 && s.me.group a) d m (fun c k => op c.fmt c.rm (c.el c.ew a.toNat k)) s

/-- VFADD (R174). -/
def execVfadd (d a b : BitVec 5) (m : BitVec 3) (v : BitVec 1) (s : State) :
    Host.Outcome State Fault Refusal :=
  vecFp (.vfadd d a b m v) (fun f r x y _ => f.add r x y) d a b m v s

/-- VFSUB (R174). -/
def execVfsub (d a b : BitVec 5) (m : BitVec 3) (v : BitVec 1) (s : State) :
    Host.Outcome State Fault Refusal :=
  vecFp (.vfsub d a b m v) (fun f r x y _ => f.sub r x y) d a b m v s

/-- VFMUL (R174). -/
def execVfmul (d a b : BitVec 5) (m : BitVec 3) (v : BitVec 1) (s : State) :
    Host.Outcome State Fault Refusal :=
  vecFp (.vfmul d a b m v) (fun f r x y _ => f.mul r x y) d a b m v s

/-- VFMA (R174). -/
def execVfma (d a b : BitVec 5) (m : BitVec 3) (v : BitVec 1) (s : State) :
    Host.Outcome State Fault Refusal :=
  vecFp (.vfma d a b m v) (fun f r x y z => f.fma r x y z) d a b m v s

/-- VFNMA (R174). -/
def execVfnma (d a b : BitVec 5) (m : BitVec 3) (v : BitVec 1) (s : State) :
    Host.Outcome State Fault Refusal :=
  vecFp (.vfnma d a b m v) (fun f r x y z => f.fnma r x y z) d a b m v s

/-- VFDIV (R174). -/
def execVfdiv (d a b : BitVec 5) (m : BitVec 3) (v : BitVec 1) (s : State) :
    Host.Outcome State Fault Refusal :=
  vecFp (.vfdiv d a b m v) (fun f r x y _ => f.div r x y) d a b m v s

/-- VFMIN (R174). -/
def execVfmin (d a b : BitVec 5) (m : BitVec 3) (v : BitVec 1) (s : State) :
    Host.Outcome State Fault Refusal :=
  vecFp (.vfmin d a b m v) (fun f _ x y _ => f.min x y) d a b m v s

/-- VFMAX (R174). -/
def execVfmax (d a b : BitVec 5) (m : BitVec 3) (v : BitVec 1) (s : State) :
    Host.Outcome State Fault Refusal :=
  vecFp (.vfmax d a b m v) (fun f _ x y _ => f.max x y) d a b m v s

/-- VFSQRT (R174). -/
def execVfsqrt (d a : BitVec 5) (m : BitVec 3) (s : State) : Host.Outcome State Fault Refusal :=
  vecFp1 (.vfsqrt d a m) (fun f r x => f.sqrt r x) d a m s

/-- VFEXP2 (R174, R145). -/
def execVfexp2 (d a : BitVec 5) (m : BitVec 3) (s : State) : Host.Outcome State Fault Refusal :=
  vecFp1 (.vfexp2 d a m) (fun f r x => f.exp2 r x) d a m s

/-! ### Compares and masks (R175 to R177) -/

/-- A compare: each active element's condition is written into bit i of mask d (R175). -/
def vecCmp (i : Instr) (ok : Bool) (d : BitVec 5) (m : BitVec 3) (val : Ctx → Nat → Bool × FpFlags) (s : State) :
    Host.Outcome State Fault Refusal := finish do
  let c0 := s.me
  legal s i (ok && c0.maskWrite)
  vecPure i s
    (fun c k => if c0.active m k then
        let r := val c0 k
        (c.setMaskBit (maskField d) k r.1).raiseFlags r.2
      else c)
    id

/-- The integer conditions of kind 0 (R175). -/
def intCond (cc : BitVec 4) (w x y : Nat) : Bool :=
  match cc.toNat with
  | 0 => x == y
  | 1 => x != y
  | 2 => decide (elInt w x < elInt w y)
  | 3 => decide (elInt w x ≤ elInt w y)
  | 4 => decide (elInt w y < elInt w x)
  | 5 => decide (elInt w y ≤ elInt w x)
  | 6 => decide (x < y)
  | 7 => decide (x ≤ y)
  | 8 => decide (y < x)
  | _ => decide (y ≤ x)

/-- The floating-point conditions of kind 1 (R176). -/
def fpCond (f : Fmt) (cc : BitVec 4) (x y : Nat) : Bool × FpFlags :=
  match cc.toNat with
  | 0 => f.cmpEq x y
  | 1 => let r := f.cmpEq x y; (!r.1, r.2)
  | 2 => f.cmpLt x y
  | 3 => f.cmpLe x y
  | 4 => f.cmpLt y x
  | _ => f.cmpLe y x

/-- VCMP (R175). -/
def execVcmp (d a b : BitVec 5) (m : BitVec 3) (v : BitVec 1) (c : BitVec 4) (s : State) :
    Host.Outcome State Fault Refusal :=
  vecCmp (.vcmp d a b m v c) (s.me.group a && (v == 1 || s.me.group b)) d m
    (fun k e => (intCond c k.ew (k.el k.ew a.toNat e) (k.second b v e), 0)) s

/-- VFCMP (R176). -/
def execVfcmp (d a b : BitVec 5) (m : BitVec 3) (v : BitVec 1) (c : BitVec 4) (s : State) :
    Host.Outcome State Fault Refusal :=
  vecCmp (.vfcmp d a b m v c) (s.me.ew != 8 && s.me.group a && (v == 1 || s.me.group b)) d m
    (fun k e => fpCond k.fmt c (k.el k.ew a.toNat e) (k.second b v e)) s

/-- A mask with the bits below n taken from another. -/
def lowBits (n : Nat) (new old : BitVec 512) : BitVec 512 :=
  BitVec.ofNat 512 (old.toNat / 2 ^ n * 2 ^ n + new.toNat % 2 ^ n)

/-- A mask operation on the bits below `vl` (R175). -/
def maskOp (i : Instr) (op : BitVec 512 → BitVec 512 → BitVec 512) (d a b : BitVec 5) (s : State) :
    Host.Outcome State Fault Refusal := finish do
  legal s i (s.me.maskWrite && s.me.whole)
  .ok ((s.onMe (fun c =>
    c.setM (maskField d) (lowBits c.vl.toNat (op (c.M (maskField a)) (c.M (maskField b))) (c.M (maskField d))))).vdone 4)

/-- MAND (R175). -/
def execMand (d a b : BitVec 5) (s : State) : Host.Outcome State Fault Refusal :=
  maskOp (.mand d a b) (fun x y => x &&& y) d a b s

/-- MOR (R175). -/
def execMor (d a b : BitVec 5) (s : State) : Host.Outcome State Fault Refusal :=
  maskOp (.mor d a b) (fun x y => x ||| y) d a b s

/-- MXOR (R175). -/
def execMxor (d a b : BitVec 5) (s : State) : Host.Outcome State Fault Refusal :=
  maskOp (.mxor d a b) (fun x y => x ^^^ y) d a b s

/-- MANDN (R175). -/
def execMandn (d a b : BitVec 5) (s : State) : Host.Outcome State Fault Refusal :=
  maskOp (.mandn d a b) (fun x y => x &&& ~~~y) d a b s

/-- The elements below `vl` with bit i of ma set and governed active (R177). -/
def Ctx.setBitsOf (c : Ctx) (a : BitVec 5) (m : BitVec 3) : List Nat :=
  (List.range c.vl.toNat).filter (fun k => c.active (maskField a) k && c.active m k)

/-- `mpop` and `mfirst` may execute (R154, R177). -/
def Ctx.maskScan (c : Ctx) (a : BitVec 5) (m : BitVec 3) : Bool :=
  c.whole && c.maskOk m && c.maskOk (maskField a)

/-- MPOP (R177). -/
def execMpop (d a : BitVec 5) (m : BitVec 3) (s : State) : Host.Outcome State Fault Refusal := finish do
  legal s (.mpop d a m) (s.me.maskScan a m)
  .ok ((s.setG d (BitVec.ofNat 64 (s.me.setBitsOf a m).length)).vdone 4)

/-- MFIRST (R177). -/
def execMfirst (d a : BitVec 5) (m : BitVec 3) (s : State) : Host.Outcome State Fault Refusal := finish do
  legal s (.mfirst d a m) (s.me.maskScan a m)
  .ok ((s.setG d (match s.me.setBitsOf a m with
    | k :: _ => BitVec.ofNat 64 k
    | [] => BitVec.allOnes 64)).vdone 4)

/-! ### Permutes (R178, R179) -/

/-- A W-class permute that writes element k of group d where val gives a value, for the body elements that sel takes;
every source is read from the context as the instruction found it (R152). -/
def permute (i : Instr) (ok : Bool) (d : BitVec 5) (m : BitVec 3) (sel : Ctx → Nat → Bool)
    (val : Ctx → Nat → Option Nat) (s : State) : Host.Outcome State Fault Refusal := finish do
  let c0 := s.me
  legal s i (ok && c0.whole && c0.group d && c0.maskOk m)
  .ok ((s.onMe (fun c =>
    ((List.range c0.vl.toNat).foldl (fun c k =>
      if sel c0 k then
        match val c0 k with
        | some x => c.setEl c0.ew d.toNat k x
        | none => c
      else c) c).fillGroup d c0.vl.toNat)).vdone 4)

/-- VSLIDEUP (R179). -/
def execVslideup (d a b : BitVec 5) (m : BitVec 3) (s : State) : Host.Outcome State Fault Refusal :=
  permute (.vslideup d a b m) (s.me.group a) d m (fun c k => c.active m k)
    (fun c k => if (c.G b).toNat ≤ k then some (c.el c.ew a.toNat (k - (c.G b).toNat)) else none) s

/-- VSLIDEDN (R179). -/
def execVslidedn (d a b : BitVec 5) (m : BitVec 3) (s : State) : Host.Outcome State Fault Refusal :=
  permute (.vslidedn d a b m) (s.me.group a) d m (fun c k => c.active m k)
    (fun c k => some (if k + (c.G b).toNat < c.vlmax then c.el c.ew a.toNat (k + (c.G b).toNat) else 0)) s

/-- VPERM (R179). -/
def execVperm (d a b : BitVec 5) (m : BitVec 3) (s : State) : Host.Outcome State Fault Refusal :=
  permute (.vperm d a b m) (s.me.group a && s.me.group b) d m (fun c k => c.active m k)
    (fun c k =>
      let j := c.el c.ew b.toNat k
      some (if j < c.vlmax then c.el c.ew a.toNat j else 0)) s

/-- The active body elements in ascending order. -/
def Ctx.actives (c : Ctx) (m : BitVec 3) : List Nat := (List.range c.vl.toNat).filter (c.active m)

/-- VCOMPRESS (R179). -/
def execVcompress (d a b : BitVec 5) (m : BitVec 3) (s : State) : Host.Outcome State Fault Refusal := finish do
  let c0 := s.me
  legal s (.vcompress d a b m) (c0.whole && c0.group d && c0.group a && c0.maskOk m)
  let src := c0.actives m
  .ok ((s.onMe (fun c =>
    ((src.zipIdx.foldl (fun c p => c.setEl c0.ew d.toNat p.2 (c0.el c0.ew a.toNat p.1)) c).fillGroup d src.length).setG
      b (BitVec.ofNat 64 src.length))).vdone 4)

/-- VEXPAND (R179). -/
def execVexpand (d a : BitVec 5) (m : BitVec 3) (s : State) : Host.Outcome State Fault Refusal :=
  permute (.vexpand d a m) (s.me.group a) d m (fun c k => c.active m k)
    (fun c k => some (c.el c.ew a.toNat (((List.range k).filter (c.active m)).length))) s

/-- VIOTA (R179). A mask register has 512 bits: the counts of the elements above 512 under a mask other than m0 are
not stated, and are free values (DESIGN CHOICE, log 4). -/
def execViota (d a : BitVec 5) (m : BitVec 3) (s : State) : Host.Outcome State Fault Refusal :=
  let n := s.freeCtr
  permute (.viota d a m) true d m (fun c k => c.active m k)
    (fun c k =>
      if k ≤ 512 || maskField a == 0 then some ((List.range k).filter (c.active (maskField a))).length
      else some (Config.freeWord (n + k)).toNat) { s with freeCtr := n + 4096 }

/-- VMERGE (R179): the selector is no governing mask, and m0 selects the second operand everywhere. -/
def execVmerge (d a b : BitVec 5) (m : BitVec 3) (v : BitVec 1) (s : State) : Host.Outcome State Fault Refusal :=
  permute (.vmerge d a b m v) (s.me.group a && (v == 1 || s.me.group b)) d m (fun _ _ => true)
    (fun c k => some (if c.active m k then c.second b v k else c.el c.ew a.toNat k)) s

/-- VBCAST (R179). -/
def execVbcast (d a : BitVec 5) (m : BitVec 3) (s : State) : Host.Outcome State Fault Refusal :=
  permute (.vbcast d a m) true d m (fun c k => c.active m k)
    (fun c _ => some ((c.G a).toNat % 2 ^ c.ew)) s

/-- VEXT (R179). -/
def execVext (d a b : BitVec 5) (s : State) : Host.Outcome State Fault Refusal := finish do
  let c := s.me
  legal s (.vext d a b) (c.whole && c.group a)
  let k := (s.G b).toNat
  .ok ((s.setG d (if k < c.vlmax then BitVec.ofNat 64 (c.el c.ew a.toNat k) else 0)).vdone 4)

/-- The register that holds element k gains fill up to it (R153). -/
def Ctx.fillTo (c : Ctx) (d k : Nat) : Ctx :=
  let r := d + k / (4096 / c.ew)
  c.setFill r (Nat.max (c.fillOf r) ((k % (4096 / c.ew) + 1) * c.ew / 8))

/-- VINS (R179). -/
def execVins (d a b : BitVec 5) (s : State) : Host.Outcome State Fault Refusal := finish do
  legal s (.vins d a b) (s.me.whole && s.me.group d)
  let k := (s.G b).toNat
  .ok ((s.onMe (fun c =>
    if k < c.vlmax then (c.setEl c.ew d.toNat k (s.G a).toNat).fillTo d.toNat k else c)).vdone 4)

/-! ### Reductions (R146, R180) -/

/-- A reduction: red takes the seed and the elements of the source by position, absent where not active, and gives the
result and its flags. -/
def reduce (i : Instr) (ok : Bool) (d a b : BitVec 5) (m : BitVec 3)
    (red : Ctx → Nat → List (Option Nat) → Nat × FpFlags) (s : State) : Host.Outcome State Fault Refusal := finish do
  let c0 := s.me
  legal s i (ok && c0.whole && c0.group a && c0.maskOk m)
  let xs := (List.range c0.vlmax).map (fun k =>
    if k < c0.vl.toNat && c0.active m k then some (c0.el c0.ew a.toNat k) else none)
  let r := red c0 (c0.el c0.ew b.toNat 0) xs
  .ok ((s.onMe (fun c => ((c.setEl c0.ew d.toNat 0 r.1).setFill d.toNat (c0.ew / 8)).raiseFlags r.2)).vdone 4)

/-- The present elements. -/
def present (xs : List (Option Nat)) : List Nat := xs.filterMap id

/-- VREDSUM (R180). -/
def execVredsum (d a b : BitVec 5) (m : BitVec 3) (s : State) : Host.Outcome State Fault Refusal :=
  reduce (.vredsum d a b m) true d a b m (fun _ z xs => ((present xs).foldl (· + ·) z, 0)) s

/-- VREDMIN (R180). -/
def execVredmin (d a b : BitVec 5) (m : BitVec 3) (s : State) : Host.Outcome State Fault Refusal :=
  reduce (.vredmin d a b m) true d a b m
    (fun c z xs => ((present xs).foldl (fun x y => if elInt c.ew y < elInt c.ew x then y else x) z, 0)) s

/-- VREDMAX (R180). -/
def execVredmax (d a b : BitVec 5) (m : BitVec 3) (s : State) : Host.Outcome State Fault Refusal :=
  reduce (.vredmax d a b m) true d a b m
    (fun c z xs => ((present xs).foldl (fun x y => if elInt c.ew x < elInt c.ew y then y else x) z, 0)) s

/-- One node of the reduction tree (R146). -/
def combine (op : Nat → Nat → Nat × FpFlags) : Option Nat → Option Nat → Option Nat × FpFlags
  | none, none => (none, 0)
  | none, some y => (some y, 0)
  | some x, none => (some x, 0)
  | some x, some y => let r := op x y; (some r.1, r.2)

/-- One level of the reduction tree, and the union of its flags. -/
def treeLevel (op : Nat → Nat → Nat × FpFlags) : List (Option Nat) → List (Option Nat) × FpFlags
  | x :: y :: l =>
    let r := combine op x y
    let t := treeLevel op l
    (r.1 :: t.1, r.2 ||| t.2)
  | l => (l, 0)

/-- The root of the reduction tree over positions, by levels; n bounds their number. -/
def tree (op : Nat → Nat → Nat × FpFlags) (xs : List (Option Nat)) : Nat → Option Nat × FpFlags
  | 0 => (xs.headD none, 0)
  | n + 1 =>
    if xs.length ≤ 1 then (xs.headD none, 0)
    else
      let l := treeLevel op xs
      let t := tree op l.1 n
      (t.1, l.2 ||| t.2)

/-- A floating-point reduction: the tree, then the seed last (R146). -/
def treeReduce (op : Nat → Nat → Nat × FpFlags) (seed : Nat) (xs : List (Option Nat)) : Nat × FpFlags :=
  match tree op xs 13 with
  | (none, _) => (seed, 0)
  | (some t, fl) => let r := op t seed; (r.1, fl ||| r.2)

/-- VFREDSUM (R146, R180). -/
def execVfredsum (d a b : BitVec 5) (m : BitVec 3) (s : State) : Host.Outcome State Fault Refusal :=
  reduce (.vfredsum d a b m) (s.me.ew != 8) d a b m (fun c z xs => treeReduce (c.fmt.add c.rm) z xs) s

/-- VFREDMIN (R146, R180). -/
def execVfredmin (d a b : BitVec 5) (m : BitVec 3) (s : State) : Host.Outcome State Fault Refusal :=
  reduce (.vfredmin d a b m) (s.me.ew != 8) d a b m (fun c z xs => treeReduce (c.fmt.min) z xs) s

/-- VFREDMAX (R146, R180). -/
def execVfredmax (d a b : BitVec 5) (m : BitVec 3) (s : State) : Host.Outcome State Fault Refusal :=
  reduce (.vfredmax d a b m) (s.me.ew != 8) d a b m (fun c z xs => treeReduce (c.fmt.max) z xs) s

/-! ### Conversion (R181, R182) -/

/-- Two register ranges overlap. -/
def regsOverlap (a n b m : Nat) : Bool := decide (a < b + m) && decide (b < a + n)

/-- The execution-time checks of `vcvt` (R181). -/
def Ctx.cvtOk (c : Ctx) (d a : BitVec 5) (t s : BitVec 4) : Bool :=
  let ws := codeWidth s.toNat
  let gs := c.spanOf ws
  c.ew == codeWidth t.toNat && decide (c.gf * ws ≤ 8 * c.ew) && a.toNat % gs == 0
    && (!(regsOverlap a.toNat gs d.toNat c.gf) || (a == d && gs == c.gf))

/-- The scale σ (R182). -/
def scaleOf (x : Word) : Int := (x.extractLsb' 0 8).toInt

/-- The source register of a `vcvt` in place: as it was at issue, where the instruction stands part-way or is re-entered. -/
def Ctx.sourceAtIssue (c : Ctx) (a : BitVec 5) : BitVec 4096 :=
  match c.resumed with
  | some (.vector ..) => c.cvtSrc.getD (c.vreg a.toNat)
  | _ => c.vreg a.toNat

/-- VCVT (R181, R182). With d = a and a narrower source, a chunk of the destination overwrites source elements of later chunks:
in portions (R364), those are read from the register as it was at issue (R152; DEDUCED, log 7). -/
def execVcvt (d a b : BitVec 5) (m : BitVec 3) (t sc : BitVec 4) (s : State) : Host.Outcome State Fault Refusal :=
  let i : Instr := .vcvt d a b m t sc
  let w := codeWidth sc.toNat
  let val (c : Ctx) (x : Nat) : Nat × FpFlags := convert t.toNat sc.toNat c.rm (scaleOf (c.G b)) x
  if d == a && decide (w < codeWidth t.toNat) && (s.inParts || s.me.resumed.isSome) then finish do
    let c0 := s.me
    legal s i (c0.cvtOk d a t sc && c0.group d && c0.maskOk m)
    let src := c0.sourceAtIssue a
    vecPure i (s.onMe (fun c => { c with cvtSrc := some src }))
      (fun c k => if c0.active m k then
          let r := val c0 (src.extractLsb' (w * k) w).toNat
          (c.setEl c0.ew d.toNat k r.1).raiseFlags r.2
        else c)
      (fun c => { c.fillGroup d c.vl.toNat with cvtSrc := none })
  else vecMap i (s.me.cvtOk d a t sc) d m (fun c k => val c (c.el w a.toNat k)) s

end Sys2Proof.Machine
end

