-- ==== Sys2Proof/Machine/BoardPiece.lean ====
section
/-! DEFINITION. One fabric cycle of a piece (R191 to R193, R198 to R208): what it consumes, writes and becomes, from the
tokens and room that it finds at the start of the cycle. -/

namespace Sys2Proof.Machine

/-- A token (R187). -/
abbrev Tok := BitVec 32

/-- What a piece finds at the start of a cycle: the token at the head of each input, which inputs have ended, and which
outputs can accept a token. -/
structure View where
  heads : List (Option Tok)
  ended : List Bool
  room  : List Bool
deriving DecidableEq, Repr

/-- The head of input j. -/
def View.head (v : View) (j : Nat) : Option Tok := v.heads.getD j none

/-- Input j has ended. -/
def View.done (v : View) (j : Nat) : Bool := v.ended.getD j true

/-- Output j can accept. -/
def View.free (v : View) (j : Nat) : Bool := v.room.getD j true

/-- What a cycle of a piece does: the inputs whose head it consumes, the tokens it writes by output, its state, whether
it has finished, the floating-point flags, the STREAM code it meets, and internal work that counts as a firing. -/
structure Fired where
  take     : List Nat
  outs     : List (Nat × Tok)
  kind     : KindState
  finished : Bool
  flags    : FpFlags
  stop     : Option Nat
  works    : Bool
deriving DecidableEq, Repr

/-- Nothing happens. -/
def Fired.idle (k : KindState) : Fired := ⟨[], [], k, false, 0, none, false⟩

/-- The piece finishes. -/
def Fired.finish (k : KindState) : Fired := { Fired.idle k with finished := true }

/-- The piece meets a STREAM condition. -/
def Fired.stream (k : KindState) (code : Nat) : Fired := { Fired.idle k with stop := some code }

/-- The bound inputs of a piece. -/
def PieceRec.boundIns (r : PieceRec) : List Nat := (List.range (kindOf r.num).inputs).filter r.bound

/-- The piece has internal state that keeps it from finishing, or that its end must flush. -/
inductive Flush where
  | none
  | emit (outs : List (Nat × Tok)) (k : KindState)

/-- A lockstep piece (R191 to R193): uneven ends stop, full ends flush or finish, and full heads with room fire. -/
def lockstep (r : PieceRec) (k : KindState) (v : View) (flush : Flush) (fire : (Nat → Tok) → Fired) : Fired :=
  let bs := r.boundIns
  let roomy := v.room.all id
  if bs.any v.done && bs.any (fun j => (v.head j).isSome) then .stream k (0x200 + r.num)
  else if bs.all v.done then
    match flush with
    | .none => .finish k
    | .emit outs k' => if roomy then { Fired.idle k' with outs := outs } else .idle k
  else if bs.all (fun j => (v.head j).isSome) && roomy then
    fire (fun j => (v.head j).getD 0)
  else .idle k

/-- A firing that consumes every bound input. -/
def PieceRec.fired (r : PieceRec) (k : KindState) (outs : List (Nat × Tok)) (fl : FpFlags := 0) : Fired :=
  { Fired.idle k with take := r.boundIns, outs := outs, flags := fl }

/-! ### MAP, CMP, SEL (R198 to R201) -/

/-- The integer operations of MAP. -/
def mapInt (op : Nat) (signed : Bool) (a b : Tok) : Tok :=
  match op with
  | 0x01 => a + b
  | 0x02 => a - b
  | 0x03 => a * b
  | 0x04 => if signed then (if a.slt b then a else b) else if a.ult b then a else b
  | 0x05 => if signed then (if b.slt a then a else b) else if b.ult a then a else b
  | 0x06 => a &&& b
  | 0x07 => a ||| b
  | 0x08 => a ^^^ b
  | 0x09 => a <<< (b.extractLsb' 0 5).toNat
  | 0x0A => if signed then a.sshiftRight (b.extractLsb' 0 5).toNat else a >>> (b.extractLsb' 0 5).toNat
  | _ => 0 - a

/-- A value of a format as a token: signed integers fill the bits above with the sign (R188). -/
def tokenOf (code x : Nat) : Tok :=
  if code < 8 && code % 2 == 0 then BitVec.ofInt 32 (intOf true (codeWidth code) x) else BitVec.ofNat 32 x

/-- MAP: y from a and b, with the flags. -/
def mapValue (r : PieceRec) (a b : Tok) : Tok × FpFlags :=
  let op := r.pf 0 7 0
  let ty := r.pf 0 11 8
  let rm := r.pf 0 19 18
  let w := codeWidth ty
  let x := a.toNat % 2 ^ w
  let y := b.toNat % 2 ^ w
  let f := codeFmt ty
  if op = 0 then (a, 0)
  else if op = 0x10 then
    let dstC := r.pf 0 15 12
    let (z, fl) := convert dstC ty rm (intOf true 8 (r.pf 1 7 0)) x
    (tokenOf dstC z, fl)
  else if op < 0x20 then (mapInt op (ty == 4) a b, 0)
  else
    let (z, fl) := match op with
      | 0x20 => f.add rm x y
      | 0x21 => f.sub rm x y
      | 0x22 => f.mul rm x y
      | 0x23 => f.min x y
      | _ => f.max x y
    (BitVec.ofNat 32 z, fl)

/-- CMP: whether FN holds, with the flags. -/
def cmpValue (fn : Nat) (a b : Tok) : Bool × FpFlags :=
  if fn < 0x10 then (intCond (BitVec.ofNat 4 fn) 32 a.toNat b.toNat, 0)
  else fpCond fp32 (BitVec.ofNat 4 (fn - 0x10)) a.toNat b.toNat

/-! ### Orders (R202, R204) -/

/-- The key that ORD compares. -/
def ordKey (ord : Nat) (x : Tok) : Int :=
  match ord with
  | 0 => x.toNat
  | 1 => x.toInt
  | _ => if x.getLsbD 31 then (x ^^^ 0xFFFFFFFF#32).toNat else (x ^^^ 0x80000000#32).toNat

/-- An element put after every element that may stand before it: a stable insertion. -/
def insertBy (le : Tok × Tok → Tok × Tok → Bool) (x : Tok × Tok) : List (Tok × Tok) → List (Tok × Tok)
  | [] => [x]
  | y :: l => if le y x then y :: insertBy le x l else x :: y :: l

/-- A stable sort. -/
def sortBy (le : Tok × Tok → Tok × Tok → Bool) (l : List (Tok × Tok)) : List (Tok × Tok) :=
  l.foldl (fun acc x => insertBy le x acc) []

/-! ### MRG (R202) -/

/-- The token 0xFFFF_FFFF. -/
def allOnesTok : Tok := 0xFFFFFFFF#32

/-- One firing of MRG: which sides it consumes, and which it emits. -/
structure Merge where
  takeA : Bool
  takeB : Bool
  emit  : Option Bool

/-- What MRG does with both heads. -/
def mergeHeads (op ord : Nat) (ka kb : Tok) : Merge :=
  let x := ordKey ord ka
  let y := ordKey ord kb
  if x < y then ⟨true, false, if op = 0 then none else some false⟩
  else if y < x then ⟨false, true, if op = 1 || op = 3 then some true else none⟩
  else
    match op with
    | 0 | 1 => ⟨true, true, some false⟩
    | 2 => ⟨true, true, none⟩
    | _ => ⟨true, false, some false⟩

/-- What MRG does with heads on the live sides. -/
def mergeStep (op ord : Nat) (ea eb : Bool) (ka kb : Tok) : Merge :=
  if ea then ⟨false, true, some true⟩
  else if eb then ⟨true, false, some false⟩
  else mergeHeads op ord ka kb

/-- A cycle of MRG. While it discards a side it still fires, and takes a token only while its outputs can accept one (R191). -/
def stepMrg (r : PieceRec) (k : KindState) (v : View) : Fired :=
  match k with
  | .mrg ia ib la lb discarding =>
    let op := r.pf 0 1 0
    let ord := r.pf 0 5 4
    let ea := v.done 0
    let eb := v.done 1
    let uneven (s t : Nat) : Bool :=
      r.bound t && ((v.done s && (v.head t).isSome) || (v.done t && (v.head s).isSome))
    -- both inputs of a side have ended: until then a value without its key is one too many (R193)
    let spent (s t : Nat) : Bool := v.done s && (!(r.bound t) || v.done t)
    if uneven 0 2 || uneven 1 3 then .stream k (0x200 + r.num)
    else if discarding then
      let side (s t : Nat) : List Nat :=
        if (v.head s).isSome && (!(r.bound t) || (v.head t).isSome) then (if r.bound t then [s, t] else [s]) else []
      if spent 0 2 && spent 1 3 then .finish k else if v.room.all id then { Fired.idle k with take := side 0 2 ++ side 1 3 }
      else .idle k
    else if ea && eb then (if spent 0 2 && spent 1 3 then .finish k else .idle k)
    else if (op = 0 && (ea || eb)) || (op = 2 && ea) then .idle (.mrg ia ib la lb true)
    else
      let falls (h : Option Tok) (last : Option Tok) : Bool :=
        match h, last with
        | some x, some y => ordKey ord x < ordKey ord y
        | _, _ => false
      if r.pf 0 6 6 == 1 && (falls (v.head 0) la || falls (v.head 1) lb) then .stream k (0x100 + r.num)
      else
        let has (s t : Nat) : Bool := (v.head s).isSome && (!(r.bound t) || (v.head t).isSome)
        if (ea || has 0 2) && (eb || has 1 3) && v.room.all id then
          let tok (j : Nat) : Tok := (v.head j).getD 0
          let m := mergeStep op ord ea eb (tok 0) (tok 1)
          let idx (t : Bool) (i : Nat) : Tok := if t then BitVec.ofNat 32 i else allOnesTok
          let outs : List (Nat × Tok) :=
            match m.emit, r.pf 0 3 2 with
            | none, _ => []
            | some b, 0 => [(0, tok (if b then 1 else 0))]
            | some b, 1 => [(0, tok (if b then 1 else 0)), (1, tok (if b then 3 else 2))]
            | some _, 2 => [(0, idx m.takeA ia), (1, idx m.takeB ib)]
            | some _, _ => [(0, tok 2), (1, tok 3)]
          let took (t : Bool) (s w : Nat) : List Nat := if t then (if r.bound w then [s, w] else [s]) else []
          { Fired.idle (.mrg (if m.takeA then ia + 1 else ia) (if m.takeB then ib + 1 else ib)
              (if m.takeA then v.head 0 else la) (if m.takeB then v.head 1 else lb) false) with
            take := took m.takeA 0 2 ++ took m.takeB 1 3
            outs := outs }
        else .idle k
  | _ => .idle k

/-! ### SRT (R204) -/

/-- The order in which SRT keeps two pairs. -/
def srtLe (r : PieceRec) (x y : Tok × Tok) : Bool :=
  let a := ordKey (r.pf 0 9 8) x.1
  let b := ordKey (r.pf 0 9 8) y.1
  if r.pf 0 7 7 == 1 then decide (b ≤ a) else decide (a ≤ b)

/-- A cycle of SRT; cap is the capacity of its run tiles in pairs. It takes a token only while its outputs can accept one
(R191), so that the tokens of one window leave while the next is gathered. -/
def stepSrt (r : PieceRec) (cap : Nat) (k : KindState) (v : View) : Fired :=
  match k with
  | .srt gathered leaving =>
    let bs := r.boundIns
    let win := r.pf 0 6 0
    let roomy := v.room.all id
    if bs.any v.done && bs.any (fun j => (v.head j).isSome) then .stream k (0x200 + r.num)
    else
      let (outs, left) : List (Nat × Tok) × List (Tok × Tok) :=
        match leaving with
        | x :: l => if roomy then ((if r.bound 1 then [(0, x.1), (1, x.2)] else [(0, x.1)]), l) else ([], leaving)
        | [] => ([], [])
      if bs.all v.done then
        match leaving, gathered with
        | [], [] => .finish k
        | [], g => { Fired.idle (.srt [] (sortBy (srtLe r) g)) with works := true }
        | _, g => { Fired.idle (.srt g left) with outs := outs }
      else if bs.all (fun j => (v.head j).isSome) then
        if win = 0 && decide (cap ≤ gathered.length) then .stream k (0x100 + r.num)
        else if !roomy || (gathered.length + 1 == win && !left.isEmpty) then
          { Fired.idle (.srt gathered left) with outs := outs }
        else
          let g := gathered ++ [((v.head 0).getD 0, (v.head 1).getD 0)]
          let k' : KindState := if g.length = win then .srt [] (sortBy (srtLe r) g) else .srt g left
          { Fired.idle k' with take := bs, outs := outs }
      else { Fired.idle (.srt gathered left) with outs := outs }
  | _ => .idle k

/-! ### SCN and RED (R205, R206, R239) -/

/-- The OP of a scan or reduction on two elements. -/
def foldOp (ty op rm : Nat) (a b : Tok) : Tok × FpFlags :=
  if ty = 0xB then
    let (z, fl) := match op with
      | 0 => fp32.add rm a.toNat b.toNat
      | 1 => fp32.max a.toNat b.toNat
      | _ => fp32.min a.toNat b.toNat
    (BitVec.ofNat 32 z, fl)
  else
    (mapInt (match op with | 0 => 0x01 | 1 => 0x05 | 2 => 0x04 | 3 => 0x06 | 4 => 0x07 | _ => 0x08) (ty == 4) a b, 0)

/-- A segment with an element; the first element is taken as it stands. -/
def Seg.add (g : Seg) (r : PieceRec) (op : Nat) (x : Tok) : Seg × FpFlags :=
  match g.acc with
  | none => (⟨g.count + 1, some x⟩, 0)
  | some a => if op = 6 then (⟨g.count + 1, some a⟩, 0)
    else let (z, fl) := foldOp (r.pf 0 7 4) op (r.pf 0 10 9) a x; (⟨g.count + 1, some z⟩, fl)

/-- The element just added ends its segment. -/
def segEnds (r : PieceRec) (n : Nat) (s : Tok) : Bool := if r.pf 1 31 0 = 0 then s != 0 else n == r.pf 1 31 0

/-- The identity of an exclusive scan (R205). -/
def scanIdentity (ty op : Nat) : Tok :=
  match op with
  | 0 => 0
  | 1 => if ty = 4 then 0x80000000#32 else if ty = 5 then 0 else 0xFF800000#32
  | _ => if ty = 4 then 0x7FFFFFFF#32 else if ty = 5 then 0xFFFFFFFF#32 else 0x7F800000#32

/-- The result of a segment of a reduction. -/
def segResult (op : Nat) (g : Seg) : Tok := if op = 6 then BitVec.ofNat 32 g.count else g.acc.getD 0

/-- A cycle of SCN. The addition of a segment's last element raises its flags in an exclusive scan too, though its result is
never written (DESIGN CHOICE, log 62). -/
def stepScn (r : PieceRec) (k : KindState) (v : View) : Fired :=
  match k with
  | .seg g =>
    lockstep r k v .none (fun h =>
      let op := r.pf 0 1 0
      let (g', fl) := g.add r op (h 0)
      let y := if r.pf 0 8 8 == 1 then g.acc.getD (scanIdentity (r.pf 0 7 4) op) else g'.acc.getD 0
      r.fired (.seg (if segEnds r g'.count (h 1) then ⟨0, none⟩ else g')) [(0, y)] fl)
  | _ => .idle k

/-- A cycle of a RED that takes late elements (R239): a segment ends with the arrival of its last element, whatever
earlier segments still lack; a final shorter one ends with the input. -/
def stepLate (r : PieceRec) (segs : Tbl Seg) (order : List Nat) (v : View) : Fired :=
  let k : KindState := .red segs order
  let op := r.pf 0 3 0
  let len := r.pf 1 31 0
  if !(v.free 0) then .idle k
  else
    match v.head 0, order with
    | some x, i :: os =>
      let n := i / len
      let (g, fl) := (Tbl.getD segs n ⟨0, none⟩).add r op x
      if g.count == len then
        { Fired.idle (.red (Tbl.drop segs n) os) with take := [0], outs := [(0, segResult op g)], flags := fl }
      else { Fired.idle (.red (Tbl.put segs n g) os) with take := [0], flags := fl }
    | _, _ =>
      if !(v.done 0) then .idle k
      else
        match segs with
        | (_, g) :: l => { Fired.idle (.red l order) with outs := [(0, segResult op g)] }
        | [] => .finish k

/-- A cycle of RED. -/
def stepRed (r : PieceRec) (k : KindState) (v : View) : Fired :=
  match k with
  | .red segs order => stepLate r segs order v
  | .seg g =>
    let op := r.pf 0 3 0
    lockstep r k v (if g.count = 0 then .none else .emit [(0, segResult op g)] (.seg ⟨0, none⟩)) (fun h =>
      let (g', fl) := g.add r op (h 0)
      if segEnds r g'.count (h 1) then r.fired (.seg ⟨0, none⟩) [(0, segResult op g')] fl
      else r.fired (.seg g') [] fl)
  | _ => .idle k

/-! ### UNQ, EXP (R203, R207) -/

/-- A cycle of UNQ. -/
def stepUnq (r : PieceRec) (k : KindState) (v : View) : Fired :=
  match k with
  | .unq run =>
    let cnt := r.pf 0 0 0 == 1
    let whole : List (Nat × Tok) := match run with | some (x, n) => [(0, x), (1, BitVec.ofNat 32 n)] | none => []
    lockstep r k v (if cnt && run.isSome then .emit whole (.unq none) else .none) (fun h =>
      match run with
      | some (x, n) =>
        if x == h 0 then r.fired (.unq (some (x, n + 1))) []
        else r.fired (.unq (some (h 0, 1)))
          (if cnt then whole else if r.bound 1 then [(0, h 0), (1, h 1)] else [(0, h 0)])
      | none => r.fired (.unq (some (h 0, 1)))
          (if cnt then [] else if r.bound 1 then [(0, h 0), (1, h 1)] else [(0, h 0)]))
  | _ => .idle k

/-- A cycle of EXP. -/
def stepExp (r : PieceRec) (k : KindState) (v : View) : Fired :=
  match k with
  | .exp n =>
    lockstep r k v .none (fun h =>
      let m := (h 1).toNat
      if m = 0 then r.fired (.exp 0) []
      else
        let y := h 0 + BitVec.ofNat 32 n * r.pw 1
        if m ≤ n + 1 then r.fired (.exp 0) [(0, y)]
        else { Fired.idle (.exp (n + 1)) with outs := [(0, y)] })
  | _ => .idle k

/-! ### TBL (R208) -/

/-- What a probe of a table finds: nothing yet (the next slot, or data that has not arrived), a result with a slot
written, or a STREAM condition. -/
inductive Probe where
  | again
  | late
  | result (y : Tok) (write : Option (Nat × Tok))
  | stream

/-- One probe for x with n probes made; word reads a word of the tile, none where its data has not arrived. -/
def probeTbl (r : PieceRec) (word : Nat → Option Tok) (x : Tok) (n : Nat) : Probe :=
  let base := r.pf 1 31 0
  let len := r.pf 2 31 0
  let dflt := r.pw 3
  match r.pf 0 1 0 with
  | 0 =>
    if x.toNat < len then
      match word (base + 4 * x.toNat) with
      | some y => .result y none
      | none => .late
    else if r.pf 0 5 5 == 1 then .stream else .result dflt none
  | mode =>
    let put := mode == 2
    if x == allOnesTok || decide (2 ^ len ≤ n) then (if put then .stream else .result dflt none)
    else
      let slot := ((x * 0x9C6D1A4B#32).toNat / 2 ^ (32 - len) + n) % 2 ^ len
      match word (base + 8 * slot), word (base + 8 * slot + 4) with
      | some key, some val =>
        if key == x then .result (if put then BitVec.ofNat 32 slot else val) none
        else if key == allOnesTok then
          (if put then .result (BitVec.ofNat 32 slot) (some (base + 8 * slot, x)) else .result dflt none)
        else .again
      | _, _ => .late

/-- A cycle of TBL, with the slot it writes. -/
def stepTbl (r : PieceRec) (word : Nat → Option Tok) (k : KindState) (v : View) : Fired × Option (Nat × Tok) :=
  match k with
  | .tbl probe results =>
    let (outs, left) : List (Nat × Tok) × List Tok :=
      match results with
      | y :: ys => if v.free 0 then ([(0, y)], ys) else ([], results)
      | [] => ([], [])
    match v.head 0 with
    | none => if v.done 0 && results.isEmpty then (.finish k, none)
      else ({ Fired.idle (.tbl probe left) with outs := outs }, none)
    | some x =>
      if 2 ≤ results.length || !(v.free 0) then ({ Fired.idle (.tbl probe left) with outs := outs }, none)
      else
        let n := match probe with | some (_, n) => n | none => 0
        match probeTbl r word x n with
        | .again => ({ Fired.idle (.tbl (some (x, n + 1)) left) with outs := outs, works := true }, none)
        | .late => ({ Fired.idle (.tbl probe left) with outs := outs }, none)
        | .result y w => ({ Fired.idle (.tbl none (left ++ [y])) with outs := outs, take := [0] }, w)
        | .stream => ({ Fired.stream (.tbl probe left) (0x100 + r.num) with outs := outs }, none)
  | _ => (.idle k, none)

/-! ### XREQ (R209) -/

/-- A cycle of XREQ: it gathers a packet, whose request a later part of the cycle issues, and sends its completion
tokens in order. -/
def stepXreq (r : PieceRec) (outstanding : Bool) (k : KindState) (v : View) : Fired :=
  match k with
  | .xreq packet issued lines tokens =>
    let rest (outs : List (Nat × Tok)) (left : List Tok) : Fired :=
      { Fired.idle (.xreq packet issued lines left) with outs := outs }
    let (outs, left) : List (Nat × Tok) × List Tok :=
      match tokens with
      | y :: ys => if v.free 0 then ([(0, y)], ys) else ([], tokens)
      | [] => ([], [])
    match v.head 0 with
    | some x =>
      if packet.length < 4 && v.free 0 then
        { Fired.idle (.xreq (packet ++ [x]) issued lines left) with outs := outs, take := [0] }
      else rest outs left
    | none =>
      if v.done 0 then
        if packet.isEmpty then if tokens.isEmpty && !outstanding then .finish k else rest outs left
        else if packet.length < 4 then .stream k (0x100 + r.num)
        else rest outs left
      else rest outs left
  | _ => .idle k

/-- A cycle of a piece without a memory access (R198 to R207). -/
def stepPlain (r : PieceRec) (cap : Nat) (k : KindState) (v : View) : Fired :=
  match kindOf r.num with
  | .map => lockstep r k v .none (fun h =>
      let (y, fl) := mapValue r (h 0) (if r.pf 0 20 20 == 1 then r.pw 1 else h 1)
      r.fired k [(0, y)] fl)
  | .cmp => lockstep r k v .none (fun h =>
      let (y, fl) := cmpValue (r.pf 0 7 0) (h 0) (if r.pf 0 8 8 == 1 then r.pw 1 else h 1)
      r.fired k [(0, if y then 1 else 0)] fl)
  | .sel => lockstep r k v .none (fun h =>
      r.fired k (if (h 1 != 0) == (r.pf 0 0 0 == 0) then [(0, h 0)] else []))
  | .mrg => stepMrg r k v
  | .unq => stepUnq r k v
  | .srt => stepSrt r cap k v
  | .scn => stepScn r k v
  | .red => stepRed r k v
  | .exp => stepExp r k v
  | .tbl | .agen | .xreq => .idle k

end Sys2Proof.Machine
end

