-- ==== Sys2Proof/Machine/BoardCycle.lean ====
section
/-! DEFINITION. One fabric cycle of an invocation (R186 to R193, R196, R211, R213, R215, R218, R231 to R233, R241,
R246): departures, firings, stream ports, FIFO tiles, address generators, and end wires. -/

namespace Sys2Proof.Machine

/-- A position and the invocation that runs on it. -/
structure Board where
  pos : Position
  inv : Invocation
deriving DecidableEq, Repr

/-! ### Inputs and outputs -/

/-- An input that does not exist: nothing arrives. -/
def Inp.none : Inp := ⟨[], true⟩

/-- An output that does not exist. -/
def Outp.none : Outp := ⟨Option.none, true⟩

/-- A position with piece n changed. -/
def Position.onPiece (p : Position) (n : Nat) (f : Piece → Piece) : Position :=
  match Tbl.find p.pieces n with
  | some x => { p with pieces := Tbl.put p.pieces n (f x) }
  | none => p

/-- Input j of a piece (numbers modulo 4). -/
def Piece.inp (p : Piece) (j : Nat) : Inp := p.ins[j % 4]'(Nat.mod_lt _ (by decide))

/-- Output j of a piece (numbers modulo 2). -/
def Piece.outp (p : Piece) (j : Nat) : Outp := p.outs[j % 2]'(Nat.mod_lt _ (by decide))

/-- An input of the board. -/
def Board.inp (b : Board) : InId → Inp
  | .piece n j => match Tbl.find b.pos.pieces n with | some p => p.inp j | none => Inp.none
  | .tile n => (b.pos.tile n).inp
  | .port n => (b.inv.outs[n.val]'(n.isLt)).inp
  | .svc => b.inv.svc.inp

/-- The board with an input changed. -/
def Board.onInp (b : Board) (i : InId) (f : Inp → Inp) : Board :=
  match i with
  | .piece n j =>
    { b with pos := b.pos.onPiece n (fun p =>
      { p with ins := p.ins.set (j % 4) (f (p.inp j)) (Nat.mod_lt _ (by decide)) }) }
  | .tile n => { b with pos := b.pos.onTile n (fun t => { t with inp := f t.inp }) }
  | .port n =>
    let o := b.inv.outs[n.val]'(n.isLt)
    { b with inv := { b.inv with outs := b.inv.outs.set n.val { o with inp := f o.inp } n.isLt } }
  | .svc => { b with inv := { b.inv with svc := { b.inv.svc with inp := f b.inv.svc.inp } } }

/-- An output of the board. -/
def Board.outp (b : Board) : OutId → Outp
  | .piece n j => match Tbl.find b.pos.pieces n with | some p => p.outp j | none => Outp.none
  | .tile n => (b.pos.tile n).out
  | .port n => (b.inv.ins[n.val]'(n.isLt)).out
  | .mem n => b.inv.memOut[n.val]'(n.isLt)
  | .xfer => b.inv.xferOut
  | .svc => b.inv.svc.out

/-- The board with an output changed. -/
def Board.onOutp (b : Board) (o : OutId) (f : Outp → Outp) : Board :=
  match o with
  | .piece n j =>
    { b with pos := b.pos.onPiece n (fun p =>
      { p with outs := p.outs.set (j % 2) (f (p.outp j)) (Nat.mod_lt _ (by decide)) }) }
  | .tile n => { b with pos := b.pos.onTile n (fun t => { t with out := f t.out }) }
  | .port n =>
    let i := b.inv.ins[n.val]'(n.isLt)
    { b with inv := { b.inv with ins := b.inv.ins.set n.val { i with out := f i.out } n.isLt } }
  | .mem n =>
    { b with inv := { b.inv with memOut := b.inv.memOut.set n.val (f (b.inv.memOut[n.val]'(n.isLt))) n.isLt } }
  | .xfer => { b with inv := { b.inv with xferOut := f b.inv.xferOut } }
  | .svc => { b with inv := { b.inv with svc := { b.inv.svc with out := f b.inv.svc.out } } }

/-- The place of a piece's record in the image. -/
def Image.place (g : Image) (n : Nat) : Nat := g.pieces.findIdx (fun r => r.num == n)

/-- The record of an input's owner has arrived (R226). -/
def Position.armed (p : Position) : InId → Bool
  | .piece n _ => decide (17 + p.image.place n ≤ p.arrived)
  | .tile n => decide (9 + n.val ≤ p.arrived)
  | .port n => decide (7 + n.val ≤ p.arrived)
  | .svc => decide (1 ≤ p.arrived)

/-- Service requests that are not replied to in full (R241). -/
def Svc.outstanding (v : Svc) : Nat := v.due.length + v.replies.length

/-- An input is ready (R190, R215, R226, R241). -/
def Board.ready (b : Board) (i : InId) : Bool :=
  b.pos.armed i && decide ((b.inp i).skid.length ≤ 1) &&
    match i with
    | .tile n => decide ((b.pos.tile n).fifo.length < (b.pos.image.tiles[n.val]?.map TileRec.depth).getD 0)
    | .svc => decide (b.inv.svc.outstanding < 4)
    | _ => true

/-- The token of an output departs in this cycle (R190). -/
def Board.departs (b : Board) (rs : List (OutId × InId)) (o : OutId) : Bool :=
  (b.outp o).reg.isSome && (destsOf rs o).all b.ready

/-- An output can accept a token in this cycle (R191). -/
def Board.hasRoom (b : Board) (rs : List (OutId × InId)) (o : OutId) : Bool :=
  (b.outp o).reg.isNone || b.departs rs o

/-- What a piece finds at the start of the cycle. -/
def Board.viewOf (b : Board) (rs : List (OutId × InId)) (r : PieceRec) : View where
  heads := (List.range 4).map (fun j => if r.bound j then (b.inp (.piece r.num j)).skid.head? else none)
  ended := (List.range 4).map (fun j => let i := b.inp (.piece r.num j); i.ended && i.skid.isEmpty)
  room := (List.range (kindOf r.num).outputs).map (fun j => b.hasRoom rs (.piece r.num j))

/-! ### Address generators (R210 to R213, R238, R239) -/

/-- The product of counts. -/
def product (l : List Nat) : Nat := l.foldl (· * ·) 1

/-- The address offset of element el of a loop nest, innermost level last (R211). -/
def loopOffset : List (Nat × Word) → Nat → Word
  | [], _ => 0
  | (_, st) :: ls, el =>
    let inner := product (ls.map (·.1))
    BitVec.ofNat 64 (el / Nat.max 1 inner) * st + loopOffset ls (el % Nat.max 1 inner)

/-- The address of access number i of an AGEN, from its x token (R211). -/
def agenAddr (r : PieceRec) (a : AgenState) (i : Nat) (x : Tok) : Word :=
  if r.pf 0 1 0 < 2 then a.base + loopOffset (a.counts.zip (r.spb.map lvStride)) i
  else a.base + (x.zeroExtend 64 <<< (r.pf 0 19 18))

/-- The bytes of an access. -/
def agenWidth (r : PieceRec) : Nat := 2 ^ r.pf 0 3 2

/-- An access waits in the spill queue. -/
def Access.isSpilled (x : Access) : Bool := match x.st with | .spilled _ => true | _ => false

/-- An access is in the load-store queue. -/
def Access.isIssued (x : Access) : Bool := match x.st with | .issued => true | _ => false

/-- The value of an access that has returned. -/
def Access.value (x : Access) : Option Tok := match x.st with | .ready v => some v | _ => none

/-- An access waits for an earlier one on its line to leave the spill queue (R238). -/
def AgenState.behind (a : AgenState) (x : Access) : Bool :=
  a.accs.any (fun y => y.isSpilled && decide (y.idx < x.idx) && y.addr.toNat / 128 == x.addr.toNat / 128)

/-- An AGEN may issue its next access as far as the places for it go: the 64 of its holding buffer (R239). The access of a `load`
whose results leave in order takes none while it waits behind a spilled one on its line; one that stores holds its data until it
is performed, 64 of them in all (DESIGN CHOICE, log 34). -/
def AgenState.roomFor (a : AgenState) (mode : Nat) (inOrder : Bool) : Bool :=
  decide ((if mode % 2 == 1 then a.accs.length
    else a.accs.countP (fun x => !x.isSpilled && !(mode == 0 && inOrder && x.isIssued && a.behind x))) < 64)

/-- Removes the first access that has returned. -/
def takeReady : List Access → Option (Access × List Access)
  | [] => none
  | x :: l =>
    if x.value.isSome then some (x, l) else (takeReady l).map (fun p => (p.1, x :: p.2))

/-- The access whose value leaves `y` next: the oldest, or with late elements the first that has returned (R239). -/
def leaving (late : Option Nat) (l : List Access) : Option (Access × List Access) :=
  match late, l with
  | none, x :: xs => if x.value.isSome then some (x, xs) else none
  | none, [] => none
  | some _, l => takeReady l

/-- The element of an access is late (R239): it has been diverted and has not left the AGEN. One that has been issued again
is known by a later element that has left, returned or been diverted before it (DEDUCED, log 35). -/
def AgenState.isLate (a : AgenState) (x : Access) : Bool :=
  let after := a.accs.filter (fun y => decide (x.idx < y.idx))
  x.isSpilled || decide (x.idx + 1 + after.length < a.next) || (x.isIssued && after.any (fun y => !y.isIssued))

/-- The segments, by number, that lack a late element of an AGEN; len is their length. -/
def AgenState.lacking (a : AgenState) (len : Nat) : List Nat :=
  (a.accs.filter a.isLate).foldl (fun l x => NatSet.add l (x.idx / len)) []

/-- Element i may be late without a fifth open segment that lacks one (R239). -/
def AgenState.segmentRoom (a : AgenState) (late : Option Nat) (i : Nat) : Bool :=
  match late with
  | some len => let open_ := a.lacking len; open_.contains (i / len) || decide (open_.length < 4)
  | none => true

/-- What a cycle of an AGEN does; order is the element that leaves for a RED that takes late elements. -/
structure AgenCycle where
  fired : Fired
  order : Option Nat

/-- A cycle of an AGEN (R211, R213, R238, R239). -/
def stepAgen (r : PieceRec) (late : Option Nat) (cut : Bool) (a : AgenState) (v : View) : AgenCycle :=
  let mode := r.pf 0 1 0
  let k : KindState := .agen a
  let total := product a.counts
  if mode == 3 && ((v.done 0 && (v.head 1).isSome) || (v.done 1 && (v.head 0).isSome)) then
    ⟨.stream k (0x200 + r.num), none⟩
  else if mode == 1 && ((decide (total ≤ a.next) && (v.head 1).isSome) || (decide (a.next < total) && v.done 1)) then
    ⟨.stream k (0x100 + r.num), none⟩
  else
    let take0 := r.bound 2 && !a.after0 && (v.head 2).isSome
    let take1 := r.bound 3 && !a.after1 && (v.head 3).isSome
    let go := (a.after0 || !r.bound 2) && (a.after1 || !r.bound 3)
    let (outs, accs, order) : List (Nat × Tok) × List Access × Option Nat :=
      match (if v.free 0 then leaving late a.accs else none) with
      | some (x, l) => ([(0, x.value.getD 0)], l, some x.idx)
      | none => ([], a.accs, none)
    let more := if mode < 2 then decide (a.next < total) else (v.head 0).isSome
    let issue := go && !a.blocked && !(cut && mode == 0) && more && (mode % 2 == 0 || (v.head 1).isSome)
      && a.roomFor mode late.isNone && a.segmentRoom late a.next
    let x : Access := ⟨a.next, agenAddr r a a.next ((v.head 0).getD 0), if mode % 2 == 1 then v.head 1 else none, .issued⟩
    let ends := if mode < 2 then decide (total ≤ a.next) else v.done 0
    let finish := !a.sent && go && ends && a.accs.all (fun x => x.value.isSome) && v.free 1
    let a' := { a with
      after0 := a.after0 || take0, after1 := a.after1 || take1
      accs := if issue then accs ++ [x] else accs
      next := if issue then a.next + 1 else a.next
      sent := a.sent || finish }
    ⟨{ take := (if issue && 2 ≤ mode then [0] else []) ++ (if issue && mode % 2 == 1 then [1] else [])
          ++ (if take0 then [2] else []) ++ (if take1 then [3] else [])
       outs := outs ++ (if finish then [(1, BitVec.ofNat 32 a.performed)] else [])
       kind := .agen a'
       finished := a'.sent && a'.accs.isEmpty
       flags := 0
       stop := none
       works := issue }, order⟩

/-- The segment length with which a RED takes late elements from the AGEN that feeds it (R239), by the AGEN's number. -/
def Image.lateFor (g : Image) (rs : List (OutId × InId)) (n : Nat) : Option (Nat × Nat) :=
  match destsOf rs (.piece n 0) with
  | [.piece m 0] =>
    match kindOf m, g.piece m with
    | .red, some r => if r.pf 0 8 8 == 1 && r.pf 1 31 0 != 0 then some (m, r.pf 1 31 0) else none
    | _, _ => none
  | _ => none

/-! ### A cycle under way -/

/-- What a cycle has done so far: the board, the context whose registers the output ports write, the tokens written, a
firing or move, the first STREAM code met, and a service request that is complete. -/
structure Cyc where
  brd   : Board
  ctx   : Ctx
  news  : List (OutId × Tok)
  moved : Bool
  stop  : Option Nat
  req   : Option (List Tok)

/-- A STREAM condition, the first of the cycle. -/
def Cyc.halt (c : Cyc) (code : Nat) : Cyc := { c with stop := some (c.stop.getD code) }

/-- An input's head consumed. -/
def Cyc.pop (c : Cyc) (i : InId) : Cyc :=
  { c with brd := c.brd.onInp i (fun x => { x with skid := x.skid.tail }), moved := true }

/-- A token written to an output. -/
def Cyc.emit (c : Cyc) (o : OutId) (x : Tok) : Cyc := { c with news := c.news ++ [(o, x)], moved := true }

/-- What a piece did. -/
def Cyc.fire (c : Cyc) (r : PieceRec) (f : Fired) : Cyc :=
  let b := c.brd
  let b1 : Board :=
    { pos := b.pos.onPiece r.num (fun p => { p with kind := f.kind, finished := p.finished || f.finished })
      inv := { b.inv with flags := b.inv.flags ||| f.flags } }
  let c1 := f.take.foldl (fun c j => c.pop (.piece r.num j)) { c with brd := b1, moved := c.moved || f.works }
  let c2 := f.outs.foldl (fun c p => c.emit (.piece r.num p.1) p.2) c1
  match f.stop with
  | some code => c2.halt code
  | none => c2

/-- The capacity of an SRT in whole-stream mode (R204). -/
def Image.srtCap (g : Image) (r : PieceRec) : Nat :=
  let d (n : Nat) : Nat := (g.tiles[n]?.map TileRec.depth).getD 0
  let m := Nat.min (d (r.pf 0 12 10)) (d (r.pf 0 15 13))
  if r.bound 1 then m / 2 else m

/-- The word of a BUF tile at an offset; none where its data has not arrived (R226). -/
def Position.word (p : Position) (n : Fin 8) (off : Nat) : Option Tok :=
  if p.dataWaits n.val off 4 then none
  else some (BitVec.ofNat 32 (leNat (Memory.readBytes zeroByte (p.tile n).mem off 4)))

/-- A piece that has finished: a token that still reaches an AGEN's inputs is one too many (R193, R211). -/
def Cyc.surplus (c : Cyc) (b0 : Board) (rs : List (OutId × InId)) (r : PieceRec) (p : Piece) : Cyc :=
  match kindOf r.num, p.kind with
  | .agen, .agen a =>
    match (stepAgen r none false a (b0.viewOf rs r)).fired.stop with
    | some code => c.halt code
    | none => c
  | _, _ => c

/-- A piece's part of a cycle; b0 is the board at its start. -/
def Cyc.piece (c : Cyc) (b0 : Board) (rs : List (OutId × InId)) (waits : Nat → Bool) (r : PieceRec) : Cyc :=
  match Tbl.find b0.pos.pieces r.num with
  | none => c
  | some p =>
    let cut := b0.inv.cut.isSome
    if p.finished then c.surplus b0 rs r p
    else if !(b0.pos.armed (.piece r.num 0)) || (cut && r.boundIns.isEmpty && kindOf r.num != .agen) then c
    else
      let v := b0.viewOf rs r
      match kindOf r.num, p.kind with
      | .agen, .agen a =>
        let late := b0.pos.image.lateFor rs r.num
        let y := stepAgen r (late.map (·.2)) cut a v
        let c1 := c.fire r y.fired
        match late, y.order with
        | some (m, _), some i =>
          let p1 := c1.brd.pos.onPiece m (fun q =>
            match q.kind with
            | .red segs order => { q with kind := .red segs (order ++ [i]) }
            | _ => q)
          { c1 with brd := { c1.brd with pos := p1 } }
        | _, _ => c1
      | .tbl, k =>
        let n := Fin.ofNat 8 (r.pf 0 4 2)
        let (f, w) := stepTbl r (fun off => c.brd.pos.word n off) k v
        let c1 := c.fire r f
        match w with
        | some (off, x) =>
          let q := c1.brd.pos.onTile n (fun t => t.put off (leBytes 4 x.toNat ++ leBytes 4 0))
          { c1 with brd := { c1.brd with pos := q } }
        | none => c1
      | .xreq, k => c.fire r (stepXreq r (waits r.num) k v)
      | _, k => c.fire r (stepPlain r (b0.pos.image.srtCap r) k v)

/-- A FIFO tile's part of a cycle (R215). -/
def Cyc.fifo (c : Cyc) (b0 : Board) (rs : List (OutId × InId)) (n : Fin 8) : Cyc :=
  if b0.pos.image.role n.val != 2 || !(b0.pos.armed (.tile n)) then c
  else
    let t := b0.pos.tile n
    let depth := (b0.pos.image.tiles[n.val]?.map TileRec.depth).getD 0
    let (c1, q) : Cyc × List Tok :=
      match t.inp.skid with
      | x :: _ => if t.fifo.length < depth then (c.pop (.tile n), t.fifo ++ [x]) else (c, t.fifo)
      | [] => (c, t.fifo)
    let keep (c : Cyc) (q : List Tok) : Cyc :=
      let p1 := c.brd.pos.onTile n (fun t => { t with fifo := q })
      { c with brd := { c.brd with pos := p1 } }
    match q with
    | x :: xs => if b0.hasRoom rs (.tile n) then keep (c1.emit (.tile n) x) xs else keep c1 q
    | [] => keep c1 q

/-! ### Stream ports (R187, R196, R231 to R233) -/

/-- The register of operand field f of an invocation (1 `a` to 6 `f`). -/
def Invocation.reg (v : Invocation) (f : Nat) : Option (BitVec 5) :=
  if f = 0 then none else (v.fields.getD (f - 1) none)

/-- The next element position from pos that sends tokens (R232). -/
def Invocation.nextPos (v : Invocation) (i : InPort) : Option Nat :=
  ((List.range (i.total - i.pos)).map (· + i.pos)).find? (fun k => v.mreg == 0 || v.mask.getLsbD k)

/-- Element k, of width ew, of the group that an input port delivers. -/
def InPort.el (i : InPort) (ew k : Nat) : Nat :=
  ((i.group.getD (k / (4096 / ew)) 0).extractLsb' (ew * (k % (4096 / ew))) ew).toNat

/-- An input port has nothing more to send. -/
def Invocation.spent (v : Invocation) (i : InPort) : Bool := i.half.isNone && (v.nextPos i).isNone

/-- An input port's part of a cycle. -/
def Cyc.source (c : Cyc) (b0 : Board) (rs : List (OutId × InId)) (n : Fin 4) : Cyc :=
  let v := b0.inv
  let i := v.ins[n.val]'(n.isLt)
  if v.cut.isSome || !(b0.hasRoom rs (.port n)) then c
  else
    let save (c : Cyc) (i : InPort) : Cyc :=
      let u := c.brd.inv
      { c with brd := { c.brd with inv := { u with ins := u.ins.set n.val i n.isLt } } }
    match i.half with
    | some x => save (c.emit (.port n) x) { i with half := none, entered := i.pos }
    | none =>
      match v.nextPos i, v.reg i.field with
      | some k, some _ =>
        let ew := ewOf v.vtype
        let x := i.el ew k
        if ew = 64 then
          save (c.emit (.port n) (BitVec.ofNat 32 x)) { i with pos := k + 1, half := some (BitVec.ofNat 32 (x / 2 ^ 32)) }
        else save (c.emit (.port n) (BitVec.ofNat 32 x)) { i with pos := k + 1, entered := k + 1 }
      | _, _ => c

/-- A token offered to an output port is beyond its count, or belongs to an element at index VLMAX or above (R196, R233). -/
def OutPort.full (o : OutPort) (vt : BitVec 4) : Bool :=
  (match o.total with | some t => decide (t ≤ o.written) | none => false) || decide (vlmaxOf vt ≤ o.written)

/-- One element written by an output port; none where a count or capacity rule is broken (R196, R233). -/
def Cyc.putElement (c : Cyc) (o : OutPort) (g : BitVec 5) (x : Nat) : Option (Cyc × OutPort) :=
  let vt := c.brd.inv.vtype
  if o.full vt then none
  else some ({ c with ctx := c.ctx.setEl (ewOf vt) g.toNat o.written x }, { o with written := o.written + 1 })

/-- The output port's state after its part of a cycle, its input kept; a broken rule stops (R244). -/
def Cyc.keepPort (c : Cyc) (n : Fin 2) (p : Option (Cyc × OutPort)) : Cyc :=
  match p with
  | none => c.halt (0x304 + n.val)
  | some (c1, o) =>
    let u := c1.brd.inv
    let os := u.outs.set n.val { o with inp := (u.outs[n.val]'(n.isLt)).inp } n.isLt
    { c1 with brd := { c1.brd with inv := { u with outs := os } } }

/-- An output port's part of a cycle. -/
def Cyc.sink (c : Cyc) (b0 : Board) (n : Fin 2) : Cyc :=
  let v := b0.inv
  let o := v.outs[n.val]'(n.isLt)
  if o.ended || !(b0.pos.armed (.port n)) then c
  else
    match o.inp.skid, v.reg o.field with
    | _ :: _, none => c.pop (.port n)
    | x :: _, some g =>
      if ewOf v.vtype < 64 then c.keepPort n ((c.pop (.port n)).putElement o g x.toNat)
      else
        match o.half with
        | none => c.keepPort n (if o.full v.vtype then none else some (c.pop (.port n), { o with half := some x }))
        | some lo =>
          c.keepPort n ((c.pop (.port n)).putElement { o with half := none } g (lo.toNat + x.toNat * 2 ^ 32))
    | [], g =>
      if !o.inp.ended then c
      else
        let last : Option (Cyc × OutPort) :=
          match o.half, g with
          | some lo, some g => c.putElement { o with half := none } g lo.toNat
          | _, _ => some (c, o)
        c.keepPort n (last.bind (fun p =>
          let short := match p.2.total, g with | some t, some _ => decide (p.2.written < t) | _, _ => false
          if short then none else some (p.1, { p.2 with ended := true })))

/-! ### The memory, transfer and service ports (R186, R241) -/

/-- The AGENs of a memory port. -/
def Image.agensOf (g : Image) (n : Fin 2) : List Nat :=
  (g.pieces.filter (fun r => kindOf r.num == .agen && r.pf 0 6 5 != 2 && r.pf 0 12 12 == n.val)).map PieceRec.num

/-- The state of an AGEN of a position. -/
def Position.agen (p : Position) (n : Nat) : Option AgenState :=
  match Tbl.find p.pieces n with
  | some ⟨_, _, .agen a, _⟩ => some a
  | _ => none

/-- A memory port's part of a cycle: its one token. -/
def Cyc.memPort (c : Cyc) (b0 : Board) (n : Fin 2) : Cyc :=
  let o := b0.outp (.mem n)
  let as := (b0.pos.image.agensOf n).filterMap b0.pos.agen
  if b0.inv.cut.isNone && !o.ended && o.reg.isNone && as.all (fun a => a.sent) then
    c.emit (.mem n) (as.foldl (fun x a => x + BitVec.ofNat 32 a.performed) 0)
  else c

/-- An XREQ piece will issue no more requests. -/
def Board.xreqOver (b : Board) (waits : Nat → Bool) (r : PieceRec) : Bool :=
  let i := b.inp (.piece r.num 0)
  i.ended && i.skid.isEmpty && !(waits r.num) &&
    match Tbl.find b.pos.pieces r.num with
    | some ⟨_, _, .xreq p _ _ _, _⟩ => p.isEmpty
    | _ => true

/-- The transfer port's part of a cycle: its one token. -/
def Cyc.xferPort (c : Cyc) (b0 : Board) (waits : Nat → Bool) : Cyc :=
  let o := b0.outp .xfer
  let rs := b0.pos.image.pieces.filter (fun r => kindOf r.num == .xreq)
  let count (r : PieceRec) : Nat :=
    match Tbl.find b0.pos.pieces r.num with
    | some ⟨_, _, .xreq _ i _ _, _⟩ => i
    | _ => 0
  if b0.inv.cut.isNone && !o.ended && o.reg.isNone && rs.all (b0.xreqOver waits) then
    c.emit .xfer (BitVec.ofNat 32 ((rs.map count).foldl (· + ·) 0))
  else c

/-- The service port's part of a cycle as a source: the replies in the order of their requests. -/
def Cyc.svcSource (c : Cyc) (b0 : Board) (rs : List (OutId × InId)) : Cyc :=
  let keep (c : Cyc) (l : List (List Tok)) : Cyc :=
    let u := c.brd.inv
    { c with brd := { c.brd with inv := { u with svc := { u.svc with replies := l } } } }
  if b0.inv.cut.isSome then c
  else
    match b0.inv.svc.replies with
    | [] => c
    | [] :: l => keep c l
    | (x :: xs) :: l =>
      if b0.hasRoom rs .svc then keep (c.emit .svc x) (if xs.isEmpty then l else xs :: l) else c

/-- The service port's part of a cycle as a destination: a request is gathered, and is complete after the payload that
its header announces; its last token waits for room for its notice (R352). -/
def Cyc.svcSink (c : Cyc) (b0 : Board) (room : Bool) : Cyc :=
  let v := b0.inv.svc
  match v.inp.skid with
  | [] => c
  | x :: _ =>
    if 4 ≤ v.outstanding then c
    else
      let packet := v.packet ++ [x]
      let head := packet.headD 0
      let full := packet.length == 1 + (head.extractLsb' 8 8).toNat
      if full && !room then c
      else
      let c1 := c.pop .svc
      let v1 := c1.brd.inv.svc
      let v2 : Svc := if full then { v1 with packet := [], due := v1.due ++ [(head.extractLsb' 0 8).toNat] }
        else { v1 with packet := packet }
      { c1 with
        req := if full then some packet else none
        brd := { c1.brd with inv := { c1.brd.inv with svc := v2 } } }

/-! ### Ends (R192) -/

/-- A source has sent its last token, but for what its output register holds. -/
def Board.shut (b : Board) (gone : OutId → Bool) : OutId → Bool
  | .piece n _ =>
    match Tbl.find b.pos.pieces n with
    | some p => p.finished || (match p.kind with | .mrg _ _ _ _ d => d | _ => false)
    | none => false
  | .tile n => let t := b.pos.tile n; t.inp.ended && t.inp.skid.isEmpty && t.fifo.isEmpty
  | .port n => b.inv.spent (b.inv.ins[n.val]'(n.isLt))
  | .mem n => gone (.mem n)
  | .xfer => gone .xfer
  | .svc => let v := b.inv.svc; v.inp.ended && v.inp.skid.isEmpty && v.due.isEmpty && v.replies.isEmpty

/-- The ends that cross a hop in this cycle, and the ends that are raised in it. -/
def Board.ends (b : Board) (b0 : Board) (rs : List (OutId × InId)) (gone : OutId → Bool) : Board :=
  let os := b.pos.image.outputs
  let b1 := (os.filter (fun o => (b0.outp o).ended)).foldl (fun b o =>
    ((destsOf rs o).filter b0.pos.armed).foldl (fun b i => b.onInp i (fun x => { x with ended := true })) b) b
  os.foldl (fun b o =>
    if b.shut gone o && (b.outp o).reg.isNone then b.onOutp o (fun x => { x with ended := true }) else b) b1

/-! ### The whole cycle -/

/-- Tokens depart from the outputs whose destinations are all ready. -/
def Board.depart (b : Board) (b0 : Board) (rs : List (OutId × InId)) (os : List OutId) : Board :=
  os.foldl (fun b o =>
    match (b0.outp o).reg with
    | some x =>
      ((destsOf rs o).foldl (fun b i => b.onInp i (fun q => { q with skid := q.skid ++ [x] })) b).onOutp o
        (fun q => { q with reg := none })
    | none => b) b

/-- A kind state holds tokens, or elements still to issue. -/
def KindState.holds : KindState → Bool
  | .plain | .mrg .. => false
  | .unq run => run.isSome
  | .srt g l => !g.isEmpty || !l.isEmpty
  | .seg g => g.count != 0
  | .red segs _ => !segs.isEmpty
  | .exp n => n != 0
  | .tbl p r => p.isSome || !r.isEmpty
  | .agen a => !a.accs.isEmpty || decide (a.next < product a.counts)
  | .xreq p _ _ t => !p.isEmpty || !t.isEmpty

/-- Tokens are held anywhere, or a source has tokens still to send (R218). -/
def Board.holdsTokens (b : Board) : Bool :=
  b.pos.image.outputs.any (fun o => (b.outp o).reg.isSome)
    || b.pos.pieces.any (fun p => (List.range 4).any (fun j => !(p.2.inp j).skid.isEmpty) || p.2.kind.holds)
    || b.pos.tiles.toList.any (fun t => !t.fifo.isEmpty || !t.inp.skid.isEmpty)
    || b.inv.ins.toList.any (fun i => !(b.inv.spent i))
    || b.inv.outs.toList.any (fun o => !o.inp.skid.isEmpty)
    || !b.inv.svc.inp.skid.isEmpty || b.inv.memOut.toList.any (fun o => !o.ended) || !b.inv.xferOut.ended

/-- The accesses of the AGENs of a position. -/
def Position.accesses (p : Position) : List Access :=
  p.pieces.flatMap (fun e => match e.2.kind with | .agen a => a.accs | _ => [])

/-- A memory, transfer or service request of the invocation is outstanding, or an element is spilled (R218). -/
def Board.requests (b : Board) (xfers : Bool) : Bool :=
  xfers || b.inv.svc.outstanding != 0 || b.pos.accesses.any (fun x => x.isIssued || x.isSpilled)

/-- A transfer of an XREQ piece is outstanding. -/
def Ctx.xreqBusy (c : Ctx) (n : Nat) : Bool := c.xfers.any (fun x => x.xreq && x.piece == n)

/-- A STREAM stop of an invocation (R243). -/
def streamStop (v : Invocation) (code : Nat) : FabStop :=
  ⟨Cause.stream.num, BitVec.ofNat 64 code, v.tpc, false, 0xFF, [], []⟩

/-- An invocation that a stop begins to cut, unless a stop is cutting it already; a cut for a PREEMPT becomes the
stop's (R243, R246). -/
def Invocation.stopFor (v : Invocation) (q : FabStop) : Invocation :=
  match v.cut with
  | none => { v with cut := some q, quiet := 0 }
  | some p => if p.cause == 0 then { v with cut := some q } else v

/-- One fabric cycle of a context's invocation: the context, and a service request that is complete; room says whether its
notice can be sent. -/
def Ctx.fabricCycle (c : Ctx) (room : Bool) (p : Position) (v : Invocation) : Ctx × Option (List Tok) :=
  let b0 : Board := ⟨p, v⟩
  let g := p.image
  let rs := g.routes
  let waits := c.xreqBusy
  let gone := b0.departs rs
  let os := g.outputs.filter gone
  let c0 : Cyc := ⟨b0, c, [], !os.isEmpty, none, none⟩
  let c1 := g.pieces.foldl (fun c r => c.piece b0 rs waits r) c0
  let c2 := (List.finRange 8).foldl (fun c n => c.fifo b0 rs n) c1
  let c3 := (List.finRange 2).foldl (fun c n => (c.sink b0 n).memPort b0 n) c2
  let c4 := (List.finRange 4).foldl (fun c n => c.source b0 rs n) c3
  let c5 := ((c4.xferPort b0 waits).svcSource b0 rs).svcSink b0 room
  let b1 := c5.brd.depart b0 rs os
  let b2 := c5.news.foldl (fun b n => b.onOutp n.1 (fun o => { o with reg := some n.2 })) b1
  let b3 := b2.ends b0 rs gone
  let still := !c5.moved && b3.holdsTokens && !(b0.requests (c.xfers.any (fun x => x.xreq)))
  let v1 := { b3.inv with
    stall := if still then b3.inv.stall + 1 else 0
    quiet := if c5.moved then 0 else b3.inv.quiet + 1 }
  let v2 := match c5.stop with | some code => v1.stopFor (streamStop v code) | none => v1
  ({ c5.ctx with board := some b3.pos, inv := some v2 }, c5.req)

end Sys2Proof.Machine
end

