-- ==== Sys2Proof/Machine/Board.lean ====
section
/-! DEFINITION. Positions and invocations of a context's board: loading an image (R225 to R230), starting an invocation
(R231 to R234), its accesses and requests (R211, R212, R238, R311), completion (R233, R236) and the end of a cut
(R243, R246). -/

namespace Sys2Proof.Machine

/-! ### Reading images (R230) -/

/-- n bytes at a virtual address, line by line, on the XU path; the first poisoned byte faults, and an untranslated
region meets PERM. -/
def State.imageRead (s : State) (ten : BitVec 5) : Nat → Word → Nat → Moved (State × List Byte)
  | 0, _, _ => .done (s, [])
  | fuel + 1, va, n =>
    if n = 0 then .done (s, [])
    else if (regionOf va).isSome then .fault .perm va
    else
      let n1 := Nat.min n (128 - va.toNat % 128)
      match s.unitReads ten va n1 true with
      | .fault c a => .fault c a
      | .wait s1 => .wait s1
      | .done (s1, bs, _) =>
        match s1.imageRead ten fuel (va + BitVec.ofNat 64 n1) (n - n1) with
        | .done (s2, r) => .done (s2, bs ++ r)
        | r => r

/-- n bytes of an image at a virtual address. -/
def State.imageBytes (s : State) (ten : BitVec 5) (va : Word) (n : Nat) : Moved (State × List Byte) :=
  s.imageRead ten (n / 128 + 2) va n

/-! ### Positions (R226 to R229) -/

/-- A piece with nothing in it. -/
def Piece.fresh (k : KindState) : Piece := ⟨Vector.replicate 4 ⟨[], false⟩, Vector.replicate 2 ⟨none, false⟩, k, false⟩

/-- A tile's FIFO part with nothing in it, its bytes kept. -/
def Tile.drained (t : Tile) : Tile := { t with fifo := [], inp := ⟨[], false⟩, out := ⟨none, false⟩ }

/-- A position whose pieces and FIFO tiles hold nothing. -/
def Position.emptied (p : Position) : Position :=
  { p with pieces := p.image.pieces.map (fun r => (r.num, Piece.fresh .plain)), tiles := p.tiles.map Tile.drained }

/-- The position of an image at an address, of which no packet has arrived (R226, R228). -/
def Position.ofImage (g : Image) (addr : Word) (bs : List Byte) : Position :=
  Position.emptied ⟨addr, g, cut 64 bs (bs.length / 64), 0, [], Vector.replicate 8 ⟨[], [], ⟨[], false⟩, ⟨none, false⟩⟩⟩

/-- The initial data that a packet carries for a tile (R223, R226). -/
def Position.packetData (p : Position) (i : Nat) (bs : List Byte) (n : Fin 8) : Position :=
  match p.image.tiles[n.val]? with
  | some d =>
    let lo := Nat.max (64 * i) d.initoff
    let hi := Nat.min (64 * i + 64) (d.initoff + d.initlen)
    if d.role == 1 && lo < hi then p.onTile n (fun t => t.put (lo - d.initoff) ((bs.drop (lo - 64 * i)).take (hi - lo)))
    else p
  | none => p

/-- One configuration packet arrives (R226). -/
def Position.packet (p : Position) : Position :=
  match p.coming with
  | [] => p
  | bs :: l =>
    let q := (List.finRange 8).foldl (fun q n => q.packetData p.arrived bs n) p
    { q with coming := l, arrived := p.arrived + 1 }

/-- Every packet that has not arrived, at once. -/
def Position.arriveAll (p : Position) : Position := p.coming.foldl (fun q _ => q.packet) p

/-- How a position load ends: a check code, 0 with the new position resident. Check 1 of the header comes before the rest of
the image is read, and so before a fault of that read (DESIGN CHOICE, log 62). -/
def State.loadImage (s : State) (t : Tid) (addr : Word) : Moved (State × Nat × Option Position) :=
  let ten := (s.ctx t).tenant
  match s.imageBytes ten addr 64 with
  | .fault c a => .fault c a
  | .wait s1 => .wait s1
  | .done (s1, h) =>
    if !(headOk h) then .done (s1, 1, none)
    else
      match s1.imageBytes ten (addr + 64) (numAt h 8 4 - 64) with
      | .fault c a => .fault c a
      | .wait s2 => .wait s2
      | .done (s2, r) =>
        match parseImage (h ++ r) with
        | .error code => .done (s2, code, none)
        | .ok g =>
          let other := (s.ctx ⟨t.core, Cx.other t.cx⟩).board
          if (match other with | some p => g.sharesTile p.image | none => false) then .done (s2, 12, none)
          else .done (s2, 0, some (Position.ofImage g addr (h ++ r)))

/-- The context with the code of a failed load noted (R256). -/
def Ctx.noteLoad (c : Ctx) (code : Nat) : Ctx := { c with lchk := BitVec.ofNat 16 code }

/-- The line stands in the way that a CACHE tile of thread t's position lends to its core's L2 slice (R216). -/
def L2Line.lentBy (l : L2Line) (line : Nat) (t : Tid) : Bool :=
  (match l.lent with | some (x, _) => x == t.cx | none => false) && homeCore (line * 128) == t.core

/-- The lines in the ways that the CACHE tiles of thread t's position lend. -/
def State.lentLines (s : State) (t : Tid) : List Nat := (s.l2.filter (fun p => p.2.lentBy p.1 t)).map (·.1)

/-- The ways that the CACHE tiles of thread t's position lend are emptied (R216), once no access to their lines is under way:
every line is written back and invalidated. -/
def State.emptyWays (s : State) (t : Tid) : Option State :=
  let ls := s.lentLines t
  if ls.any s.owningLine then none else some (ls.foldl (fun s l => (s.uncacheLine l).dropL2 l) s)

/-- A thread's resident position replaced (R228), its CACHE tiles emptied first. -/
def State.setBoard (s : State) (t : Tid) (f : Ctx → Ctx) : Moved State :=
  match s.emptyWays t with
  | some s1 => .done (s1.onCtx t f)
  | none => .wait s

/-- Loads an image as a thread's resident position (R228): code 0 with the position replaced, or the check code. -/
def State.loadPosition (s : State) (t : Tid) (addr : Word) : Moved (State × Nat) :=
  match s.loadImage t addr with
  | .fault c a => .fault c a
  | .wait s1 => .wait s1
  | .done (s1, code, p) =>
    match p with
    | some q =>
      match s1.setBoard t (fun c => { c with board := some q }) with
      | .done s2 => .done (s2, 0)
      | .wait s2 => .wait s2
      | .fault c a => .fault c a
    | none => .done (s1.onCtx t (fun c => c.noteLoad code), code)

/-! ### Starting an invocation (R231 to R234) -/

/-- The fill count of a group in elements (R46). -/
def Ctx.fillElements (c : Ctx) (g : BitVec 5) : Nat :=
  ((List.range c.gf).map (fun j => c.fillOf (g.toNat + j) * 8 / c.ew)).sum

/-- The count of a level (R196); none where a register holds more than 16,777,215. A dynamic level counts as 0 here. -/
def Ctx.levelCount (c : Ctx) (fields : List (Option (BitVec 5))) (w : Word) : Option Nat :=
  match lvKind w with
  | 0 => some (lvCnt w)
  | 1 => some (match fields.getD (lvSrc w - 1) none with | some g => c.fillElements g | none => 0)
  | 2 => let x := (c.G (BitVec.ofNat 5 (lvSrc w))).toNat; if x ≤ 16777215 then some x else none
  | _ => some 0

/-- The counts of a block's levels; none where a rule of R196 is broken. -/
def Ctx.blockCounts (c : Ctx) (fields : List (Option (BitVec 5))) (spb : List Word) : Option (List Nat) :=
  match spb.mapM (c.levelCount fields) with
  | some l => if product l ≤ 2 ^ 32 - 1 then some l else none
  | none => none

/-- A block has the dynamic level. -/
def isDynamic (spb : List Word) : Bool := spb.any (fun w => lvKind w == 3)

/-- A block names a field that the instruction lacks (R196). -/
def lacksField (fields : List (Option (BitVec 5))) (spb : List Word) : Bool :=
  spb.any (fun w => lvKind w == 1 && (fields.getD (lvSrc w - 1) none).isNone)

/-- The block of port p. -/
def Image.portSpb (g : Image) (p : Nat) : List Word := match g.ports[p]? with | some q => q.spb | none => []

/-- The group bound to port p by an entry word. -/
def boundReg (w : BitVec 32) (fields : List (Option (BitVec 5))) (p : Nat) : Option (BitVec 5) :=
  if entryField w p = 0 then none else fields.getD (entryField w p - 1) none

/-- A port is bound to a field that the instruction lacks, a block that takes part names one, or groups overlap
(R234, step 6). -/
def Image.fieldsBad (g : Image) (w : BitVec 32) (fields : List (Option (BitVec 5))) : Bool :=
  let ports := (List.range 6).filter (fun p => entryField w p != 0)
  ports.any (fun p => (boundReg w fields p).isNone)
    || ports.any (fun p => lacksField fields (g.portSpb p))
    || g.pieces.any (fun r => lacksField fields r.spb)
    || [4, 5].any (fun p => ports.any (fun q => q != p && (boundReg w fields p).isSome
        && boundReg w fields p == boundReg w fields q))

/-- The first broken count rule (R234, step 7). -/
def Ctx.countsBad (c : Ctx) (g : Image) (w : BitVec 32) (fields : List (Option (BitVec 5))) : Option Nat :=
  let bad (p : Nat) : Bool :=
    entryField w p != 0 &&
      match c.blockCounts fields (g.portSpb p) with
      | some l => p < 4 && decide (c.vlmax < product l)
      | none => true
  match (List.range 6).find? bad with
  | some p => some (0x300 + p)
  | none =>
    (g.pieces.find? (fun r => kindOf r.num == .agen && (c.blockCounts fields r.spb).isNone)).map (fun r => 0x100 + r.num)

/-- The state of a piece's kind when an invocation starts. -/
def Ctx.kindStart (c : Ctx) (g : Image) (fields : List (Option (BitVec 5))) (r : PieceRec) : KindState :=
  match kindOf r.num with
  | .mrg => .mrg 0 0 none none false
  | .unq => .unq none
  | .srt => .srt [] []
  | .scn => .seg ⟨0, none⟩
  | .red =>
    let late := g.pieces.any (fun q => kindOf q.num == .agen && (g.lateFor g.routes q.num).map (·.1) == some r.num)
    if late then .red [] [] else .seg ⟨0, none⟩
  | .exp => .exp 0
  | .tbl => .tbl none []
  | .agen =>
    let base := if r.pf 0 21 21 == 1 then c.G (BitVec.ofNat 5 (r.pf 0 26 22)) else r.pw 3 ++ r.pw 2
    .agen ⟨false, false, base, (c.blockCounts fields r.spb).getD [], 0, [], 0, none, none, false, false⟩
  | .xreq => .xreq [] 0 0 []
  | _ => .plain

/-- A position whose pieces stand at the start of an invocation. -/
def Ctx.armPosition (c : Ctx) (p : Position) (fields : List (Option (BitVec 5))) : Position :=
  { p.emptied with pieces := p.image.pieces.map (fun r => (r.num, Piece.fresh (c.kindStart p.image fields r))) }

/-- An input port when an invocation starts. -/
def Ctx.startIn (c : Ctx) (g : Image) (w : BitVec 32) (fields : List (Option (BitVec 5))) (j : Fin 4) : InPort :=
  let f := entryField w j.val
  let group := match boundReg w fields j.val with
    | some g => (List.range c.gf).map (fun k => c.vreg (g.toNat + k))
    | none => []
  ⟨f, group, if f = 0 then 0 else product ((c.blockCounts fields (g.portSpb j.val)).getD []), 0, none, 0, ⟨none, false⟩⟩

/-- An output port when an invocation starts; one with no source takes no part (R231). -/
def Ctx.startOut (c : Ctx) (g : Image) (w : BitVec 32) (fields : List (Option (BitVec 5))) (j : Fin 2) : OutPort :=
  let p := j.val + 4
  let f := entryField w p
  let spb := g.portSpb p
  let total := if f = 0 || isDynamic spb then none else (c.blockCounts fields spb).map product
  ⟨f, total, 0, none, ⟨[], false⟩, (g.ports[p]?.map PortRec.src).getD 0xFFFF == 0xFFFF⟩

/-- The invocation that starts on a position (R231, R252). -/
def Ctx.startInv (c : Ctx) (g : Image) (slot entry : BitVec 4) (fields : List (Option (BitVec 5))) (m : BitVec 3) :
    Invocation :=
  let w := g.entries.getD entry.toNat 0
  { slot := slot, entry := entry, fields := fields, mreg := m, mask := c.M m, vtype := c.vtype, tpc := c.pc
    ins := Vector.ofFn (fun j => c.startIn g w fields j)
    outs := Vector.ofFn (fun j => c.startOut g w fields j)
    memOut := Vector.replicate 2 ⟨none, false⟩
    xferOut := ⟨none, false⟩
    svc := ⟨⟨[], g.svcsrc == 0xFFFF⟩, [], [], [], ⟨none, false⟩⟩
    flags := 0, stall := 0, cut := none, quiet := 0, held := false }

/-- Steps 5 to 7 of R234 on the resident position: the STREAM code, or the context with the invocation running. -/
def Ctx.invoke (c : Ctx) (p : Position) (slot entry : BitVec 4) (fields : List (Option (BitVec 5))) (m : BitVec 3) :
    Except Nat Ctx :=
  let g := p.image
  let w := g.entries.getD entry.toNat 0
  if !(entryDefined w) then .error (0x400 + slot.toNat)
  else if g.fieldsBad w fields then .error (0x500 + slot.toNat)
  else
    match c.countsBad g w fields with
    | some code => .error code
    | none =>
      .ok { c with
        board := some (c.armPosition p fields)
        inv := some (c.startInv g slot entry fields m)
        fx := c.fx + 1 }

/-! ### The accesses of an AGEN (R211, R212, R238) -/

/-- What an AGEN access meets: it is performed; it waits; a cause, by number, that diverts the element (R238); a cause that
stops the invocation; a STREAM condition. -/
inductive Hit where
  | done (s : State) (v : Tok)
  | wait (s : State)
  | divert (cause : Nat)
  | stop (c : Cause)
  | stream

/-- The loaded value of an access as a token (R211). -/
def agenValue (r : PieceRec) (x : Nat) : Tok :=
  if r.pf 0 4 4 == 1 then BitVec.ofInt 32 (intOf true (8 * agenWidth r) x) else BitVec.ofNat 32 x

/-- The page bytes of PSIZE. -/
def pageBytes (r : PieceRec) : Nat := 2 ^ (12 + 9 * r.pf 0 8 7)

/-- The virtual address of the page of an address. -/
def pageOf (r : PieceRec) (va : Word) : Nat := va.toNat - va.toNat % pageBytes r

/-- A translation of an AGEN with BIND 1 (R212): the physical address, and whether it is uncached. -/
def State.agenWalk (s : State) (ten : BitVec 5) (tag : BitVec 8) (r : PieceRec) (va : Word) : Except Nat (Nat × Bool) :=
  match s.walk ten va with
  | .error c => .error c.num
  | .ok l =>
    if l.lvl != r.pf 0 8 7 then .error Cause.page.num
    else if l.tag != 0 && l.tag != tag then .error Cause.ptag.num
    else if !(if r.pf 0 1 0 % 2 == 1 then l.w else l.r) then .error Cause.perm.num
    else .ok (l.pa, l.unc)

/-- What a `load` or `store` keeps of the page of an address. -/
def State.keepPage (s : State) (ten : BitVec 5) (tag : BitVec 8) (r : PieceRec) (va : Word) : KeptPage :=
  match s.agenWalk ten tag r va with
  | .ok (pa, unc) => .base (pageOf r va) (pa - va.toNat % pageBytes r) unc
  | .error e => .fault (pageOf r va) e

/-- The kept page is that of an address. -/
def KeptPage.covers (k : KeptPage) (r : PieceRec) (va : Word) : Bool :=
  match k with
  | .base v _ _ => v == pageOf r va
  | .fault v _ => v == pageOf r va

/-- Where an access goes by the page tables, for BIND 1 (R212): by the kept page, if it is the address's, else by a walk;
an address past populated memory inside the leaf meets PAGE (R356). -/
def State.agenPage (s : State) (ten : BitVec 5) (tag : BitVec 8) (r : PieceRec) (a : AgenState) (va : Word) :
    Except Nat (Nat × Bool) :=
  let found : Except Nat (Nat × Bool) :=
    match a.page.filter (fun k => k.covers r va) with
    | some (.base _ kp unc) => .ok (kp + va.toNat % pageBytes r, unc)
    | some (.fault _ e) => .error e
    | none => s.agenWalk ten tag r va
  match found with
  | .ok (pa, unc) => if mapped pa (agenWidth r) then .ok (pa, unc) else .error Cause.page.num
  | .error e => .error e

/-- A memory access of an AGEN at a physical address. Behind a link that is down it meets LINK, which stops the invocation
as POISON does (R375; DEDUCED, log 34). -/
def State.agenMem (s : State) (t : Tid) (r : PieceRec) (x : Access) (pa : Nat) (unc : Bool) : Hit :=
  let n := agenWidth r
  match s.gate none pa n x.data.isSome with
  | .hold s1 | .conflict s1 => .wait s1
  | .linkDown => .stop .link
  | .orphaned => .stop .poison
  | .pass s1 =>
    match x.data with
    | none =>
      if s1.poisoned pa n then .stop .poison
      else .done ((linesOf pa n).foldl (fun s l => s.touchRead t.core t.cx unc l) s1) (agenValue r (s1.num pa n))
    | some d =>
      .done (((linesOf pa n).foldl (fun s l => s.touchWrite t.core t.cx unc l) s1).put pa (leBytes n d.toNat)) 0

/-- Performs an access of an AGEN of thread t's position (R211, R212): an address in an untranslated region meets PERM
(R354). -/
def State.agenAccess (s : State) (t : Tid) (p : Position) (r : PieceRec) (a : AgenState) (x : Access) : Hit :=
  let c := s.ctx t
  let n := agenWidth r
  if x.addr.toNat % n != 0 then .stop .misalign
  else
    match r.pf 0 6 5 with
    | 2 =>
      let k := Fin.ofNat 8 (r.pf 0 11 9)
      if 131072 < x.addr.toNat + n then .stream
      else if p.dataWaits k.val x.addr.toNat n then .wait s
      else
        match x.data with
        | none => .done s (agenValue r (leNat (s.tileBytes t k x.addr.toNat n)))
        | some d => .done (s.onTile t k (fun y => y.put x.addr.toNat (leBytes n d.toNat))) 0
    | b =>
      if (regionOf x.addr).isSome then .divert Cause.perm.num
      else if b = 1 then
        match s.walkWaits c.tenant x.addr with
        | some s1 => .wait s1
        | none =>
          match s.agenPage c.tenant p.image.tag r a x.addr with
          | .ok (pa, unc) => s.agenMem t r x pa unc
          | .error e => if e == Cause.poison.num then .stop .poison else .divert e
      else
        match c.resident x.addr n x.data.isSome with
        | .ok (pa, unc) => s.agenMem t r x pa unc
        | .error e => .divert e.num

/-- The state of an AGEN of a thread's position replaced. -/
def State.setAgen (s : State) (t : Tid) (n : Nat) (a : AgenState) : State :=
  s.onCtx t (fun c => { c with board := c.board.map (fun p => p.onPiece n (fun q => { q with kind := .agen a })) })

/-- An AGEN with the state of one of its accesses set. -/
def AgenState.mark (a : AgenState) (i : Nat) (st : AccState) : AgenState :=
  { a with blocked := false, accs := a.accs.map (fun x => if x.idx == i then { x with st := st } else x) }

/-- The page that a `load` or `store` of BIND 1 keeps when the next element to perform is n: the one it has, or, where the
loop bounds predict a crossing, the translation of the page of element n, ahead of the first access into it (R212). While an
access of the walk would wait, nothing is kept, and the access translates. -/
def State.pageAt (s : State) (ten : BitVec 5) (tag : BitVec 8) (r : PieceRec) (a : AgenState) (n : Nat) : Option KeptPage :=
  if r.pf 0 6 5 == 1 && r.pf 0 1 0 < 2 && n < product a.counts then
    let va := a.base + loopOffset (a.counts.zip (r.spb.map lvStride)) n
    match a.page.filter (fun k => k.covers r va) with
    | some k => some k
    | none => if (s.walkWaits ten va).isSome then none else some (s.keepPage ten tag r va)
  else a.page

/-- The access is performed in its turn, not replayed from the spill queue after later ones. -/
def AgenState.inTurn (a : AgenState) (x : Access) : Bool :=
  x.idx == a.performed + a.accs.countP (fun y => y.isSpilled && decide (y.idx < x.idx))

/-- Every AGEN of a thread's new invocation translates its first address (R212). -/
def State.keepFirst (s : State) (t : Tid) : State :=
  let c := s.ctx t
  match c.board with
  | none => s
  | some p =>
    let keep (q : Piece) (r : PieceRec) : Piece :=
      match q.kind with
      | .agen a => { q with kind := .agen { a with page := s.pageAt c.tenant p.image.tag r a 0 } }
      | _ => q
    s.onCtx t (fun c => { c with board := some (p.image.pieces.foldl (fun p r => p.onPiece r.num (fun q => keep q r)) p) })

/-- An AGEN after an access has been performed: a load's value waits to leave, a store is done with. -/
def AgenState.perform (a : AgenState) (x : Access) (v : Tok) (page : Option KeptPage) : AgenState :=
  let b := if x.data.isSome then { a with accs := a.accs.filter (fun y => y.idx != x.idx) } else a.mark x.idx (.ready v)
  { b with blocked := false, performed := a.performed + 1, page := page }

/-- The access of an AGEN to perform next: the oldest in the load-store queue that is on no line of an earlier spilled
one, and that no re-latch token holds back (R238, R242). While 64 later results fill the holding buffer, it is the oldest of
all (R239). -/
def AgenState.candidate (a : AgenState) : Option Access :=
  let room := decide (a.accs.countP (fun x => x.value.isSome) < 64)
  a.accs.find? (fun x => x.isIssued && !a.behind x && (room || (a.accs.head?.map Access.idx) == some x.idx)
    && (match a.relatch with | some n => decide (x.idx < n) | none => true))

/-- Elements in the spill queue of a position (R238). -/
def Position.spills (p : Position) : Nat := p.accesses.countP Access.isSpilled

/-- The thread's invocation begins to stop (R243). -/
def State.stopInv (s : State) (t : Tid) (q : FabStop) : State :=
  s.onCtx t (fun c => { c with inv := c.inv.map (fun v => v.stopFor q) })

/-- A thread's AGEN performs an access, or its fault diverts the element or stops the invocation (R238). -/
def State.agenStep (s : State) (t : Tid) (p : Position) (v : Invocation) (r : PieceRec) (a : AgenState) (x : Access) :
    State :=
  let agen := r.num - 34
  match s.agenAccess t p r a x with
  | .done s1 y =>
    s1.setAgen t r.num (a.perform x y
      (if a.inTurn x then s1.pageAt (s.ctx t).tenant p.image.tag r a (x.idx + 1) else a.page))
  | .wait s1 => s.holdFrom s1
  | .divert e =>
    let late := (p.image.lateFor p.image.routes r.num).map (·.2)
    if 16 ≤ p.spills || !(a.segmentRoom late x.idx) then s.setAgen t r.num { a with blocked := true }
    else
      match s.noticeWaits t.core with
      | some s1 => s.holdFrom s1
      | none =>
        (s.setAgen t r.num { a.mark x.idx (.spilled e) with page := none }).notify t.core
          (s.threadNotice t 4 (BitVec.ofNat 64 agen) (BitVec.ofNat 64 x.idx) x.addr (leBytes 1 e))
  | .stop c =>
    (s.setAgen t r.num (a.mark x.idx (.spilled c.num))).stopInv t ⟨c.num, x.addr, v.tpc, true, agen, [], []⟩
  | .stream =>
    (s.setAgen t r.num (a.mark x.idx (.spilled Cause.stream.num))).stopInv t
      { streamStop v (0x100 + r.num) with fagen := agen }

/-! ### Requests of XREQ pieces (R209, R311) -/

/-- A request of an XREQ piece: its packet's tokens, the request's number, and the lines that its fill has reserved. -/
structure XReq where
  r : PieceRec
  t0 : Tok
  t1 : Tok
  t2 : Tok
  t3 : Tok
  num : Nat
  lines : Nat
deriving DecidableEq, Repr

/-- The auxiliary bytes of an XREQ stop (R349). -/
def XReq.aux (q : XReq) (lines : Nat) : List Byte :=
  padTo 64 (leBytes 4 q.t0.toNat ++ leBytes 4 q.t1.toNat ++ leBytes 4 q.t2.toNat ++ leBytes 4 q.t3.toNat
    ++ leBytes 4 lines ++ leBytes 1 q.r.num)

/-- The destination address. -/
def XReq.dst (q : XReq) : Word := q.r.pw 1 ++ q.t0
/-- The source address. -/
def XReq.src (q : XReq) : Word := q.r.pw 2 ++ q.t1

/-- The sync word's address; 0 for none. -/
def XReq.sync (q : XReq) : Word :=
  if q.t3 == allOnesTok then 0
  else 0xFFFFFD0000000000#64 + BitVec.ofNat 64 ((q.t3.extractLsb' 26 6).toNat * 0x100000
    + (q.t3.extractLsb' 23 3).toNat * 0x20000 + (q.t3.extractLsb' 0 17).toNat)

/-- A STREAM condition of the packet itself, code 0x0100 + the piece number: another kind (R311). A pip fill with a sync word, and
bits 22:17 of t3 not zero, stop the same way (DESIGN CHOICE, log 36: R311 requires them and names no consequence). -/
def XReq.malformed (q : XReq) : Bool :=
  let kind := (q.t2.extractLsb' 24 8).toNat
  decide (2 ≤ kind) || (kind == 1 && q.t3 != allOnesTok) || (q.t3 != allOnesTok && q.t3.extractLsb' 17 6 != 0)

/-- An XREQ piece after it has issued its packet; with CMPL the completion token is due at once. -/
def XReq.issued (q : XReq) (p : Position) (now : Bool) : Position :=
  p.onPiece q.r.num (fun x =>
    match x.kind with
    | .xreq _ i _ ts =>
      { x with kind := .xreq [] (i + 1) 0 (if now || q.r.pf 0 0 0 == 1 then ts ++ [BitVec.ofNat 32 i] else ts) }
    | _ => x)

/-- The last transfer of a context marked as an XREQ request. -/
def Ctx.markXreq (c : Ctx) (piece req : Nat) (aux : List Byte) : Ctx :=
  match c.xfers.getLast? with
  | some x => { c with xfers := c.xfers.dropLast ++ [{ x with xreq := true, piece := piece, req := req, aux := aux }] }
  | none => c

/-- Issues the request of a full packet (R311): it goes on, waits, or stops the invocation. -/
def State.issueXreq (s : State) (t : Tid) (v : Invocation) (q : XReq) : State :=
  let stopBy (s : State) (c : Cause) (va : Word) (res : Bool) (lines : Nat) : State :=
    s.stopInv t ⟨c.num, va, v.tpc, res, 0xFF, [], q.aux lines⟩
  let after (s : State) (now : Bool) : State :=
    s.onCtx t (fun c => { c with board := c.board.map (fun p => q.issued p now) })
  let bad (va : Word) : Bool := match regionOf va with | none | some .remote => false | _ => true
  if q.malformed then s.stopInv t { streamStop v (0x100 + q.r.num) with aux := q.aux 0 }
  else if (s.ctx t).xferFull then s
  else if q.t2.extractLsb' 24 8 == 0 then
    if q.sync.toNat % 8 != 0 then stopBy s .misalign q.sync true 0
    else if bad q.dst then stopBy s .perm q.dst true 0
    else if bad q.src then stopBy s .perm q.src true 0
    else
      let x : Xfer := { Xfer.blank .copyl v.tpc with
        dst := q.dst, src := q.src, count := (q.t2.extractLsb' 0 24).toNat, sync := q.sync
        xreq := true, piece := q.r.num, req := q.num, aux := q.aux 0 }
      after (s.onCtx t (fun c => c.addXfer x)) false
  else
    let pips := q.t2.extractLsb' 16 8
    let lines := q.t2.extractLsb' 0 12
    let gd : Word := ((0#4 ++ lines) ++ (q.t2.extractLsb' 12 4 ++ pips)).zeroExtend 64
    if q.dst.toNat % 128 != 0 then stopBy s .misalign q.dst true 0
    else if pips == 0 || lines == 0 then after s true
    else if bad q.src then stopBy s .perm q.src true 0
    else
      match s.fillFrom t v.tpc v.tpc q.dst q.src gd q.lines with
      | .ok s1 => after (s1.onCtx t (fun c => c.markXreq q.r.num q.num (q.aux lines.toNat))) false
      | .error (.trap s1 p) =>
        let j := numAt p.prog 0 4
        let s2 := if j = q.lines then s1 else s1.onCtx t (fun c => c.markXreq q.r.num q.num (q.aux j))
        -- a resumed invocation issues the request again from the first line not reserved
        let s3 := s2.onCtx t (fun c => { c with board := c.board.map (fun b => b.onPiece q.r.num (fun x =>
          match x.kind with
          | .xreq pk i _ ts => { x with kind := .xreq pk i j ts }
          | _ => x)) })
        s3.stopInv t ⟨p.cause, p.tval, v.tpc, true, 0xFF, [], q.aux j⟩
      | .error (.wait s1) => s.holdFrom s1
      | .error _ => s

/-- The full packet of an XREQ piece that may issue its request: at most 64 completion tokens wait to leave. -/
def Position.request (p : Position) (r : PieceRec) : Option XReq :=
  match Tbl.find p.pieces r.num with
  | some ⟨_, _, .xreq [a, b, c, d] i n ts, _⟩ => if ts.length < 64 then some ⟨r, a, b, c, d, i, n⟩ else none
  | _ => none

/-- Issues the requests of a thread's XREQ pieces. -/
def State.issueXreqs (s : State) (t : Tid) (p : Position) : State :=
  p.image.pieces.foldl (fun s r =>
    match kindOf r.num, (s.ctx t).board, (s.ctx t).inv with
    | .xreq, some q, some v =>
      match q.request r with
      | some x => if v.cut.isNone then s.issueXreq t v x else s
      | none => s
    | _, _, _ => s) s

/-- A transfer of an XREQ piece has completed: with the last of its request, the completion token waits to leave (R209). Each
XREQ piece numbers its requests from 0 (DESIGN CHOICE, log 62). -/
def Ctx.xreqDone (c : Ctx) (x : Xfer) : Ctx :=
  if !x.xreq || c.xfers.any (fun y => y.xreq && y.id != x.id && y.piece == x.piece && y.req == x.req) then c
  else
    { c with board := c.board.map (fun p => p.onPiece x.piece (fun q =>
      match q.kind, p.image.piece x.piece with
      | .xreq pk i n ts, some r =>
        if r.pf 0 0 0 == 0 && x.req < i then { q with kind := .xreq pk i n (ts ++ [BitVec.ofNat 32 x.req]) } else q
      | _, _ => q)) }

/-! ### Service requests (R241, R352) -/

/-- The SERVICE notices of a request: its tokens, 14 to a notice (DESIGN CHOICE, log 16). -/
def State.serviceNotices (s : State) (t : Tid) (q : List Tok) : State :=
  (cut 14 q ((q.length + 13) / 14)).foldl (fun s ts =>
    let bs := padTo 56 (ts.flatMap (fun x => leBytes 4 x.toNat))
    let w (o : Nat) : Word := BitVec.ofNat 64 (numAt bs o 8)
    s.notify t.core (s.threadNotice t 10 (w 0) (w 8) (w 16) (bs.drop 24))) s

/-! ### Completion and the end of a cut (R233, R236, R243, R246) -/

/-- Every placed piece has finished, every output port with a source has ended, every request has been performed
and no token is on its way to become one (R236). -/
def Ctx.invDone (c : Ctx) (p : Position) (v : Invocation) : Bool :=
  p.pieces.all (fun e => e.2.finished) && v.outs.toList.all OutPort.ended
    && !(c.xfers.any (fun x => x.xreq)) && v.svc.outstanding == 0 && v.svc.inp.ended && v.svc.inp.skid.isEmpty
    && p.pieces.all (fun e => match e.2.kind with | .agen a => a.sent && a.accs.isEmpty | _ => true)

/-- The number of elements that completion puts into `vl` (R233): of the port bound to field d, else of the
lowest-numbered bound output port. -/
def Invocation.newVl (v : Invocation) : Option Nat :=
  let bound := v.outs.toList.filter (fun o => o.field != 0)
  match bound.find? (fun o => o.field == 4) with
  | some o => some o.written
  | none => (bound.head?).map OutPort.written

/-- The fill counts of a group under a `vtype` (R153, R233). -/
def Ctx.fillUnder (c : Ctx) (vt : BitVec 4) (g : BitVec 5) (n : Nat) : Ctx :=
  (List.range (gfOf vt)).foldl (fun k j => k.setFill (g.toNat + j) (Nat.min (n * ewOf vt / 8 - 512 * j) 512)) c

/-- The effects of completion (R233, R236); `vl` is written as R52 says. -/
def Ctx.completeInv (c : Ctx) (v : Invocation) : Ctx :=
  let c1 := v.outs.toList.foldl (fun c o =>
    match v.reg o.field with
    | some g => c.fillUnder v.vtype g o.written
    | none => c) c
  let c2 := match v.newVl with | some n => { c1 with vl := capVl c1.vtype n } | none => c1
  ({ c2 with vstart := 0, inv := none, fx := c.fx - 1, board := c.board.map Position.emptied }).raiseFlags v.flags

/-- The accesses that a cut waits for: in the load-store queue, of an AGEN that no full spill queue stops. -/
def Position.cutWaits (p : Position) : Bool :=
  p.pieces.any (fun e => match e.2.kind with | .agen a => a.candidate.isSome && !a.blocked | _ => false)

/-- The fabric progress record of an invocation (R243). -/
def progressRecord (p : Position) (v : Invocation) (q : FabStop) : List Byte :=
  let acc (n : Nat) : Nat := match p.agen (34 + n) with | some a => a.performed | none => 0
  padTo 64 (v.ins.toList.flatMap (fun i => leBytes 4 i.entered) ++ v.outs.toList.flatMap (fun o => leBytes 4 o.written)
    ++ (List.range 8).flatMap (fun n => leBytes 4 (acc n))
    ++ leBytes 1 q.fagen ++ leBytes 1 0 ++ leBytes 2 (if q.cause == Cause.stream.num then q.tval.toNat else 0)
    ++ leBytes 4 (if q.res then 1 else 0))

/-- A position whose AGENs keep no page base and have taken a re-latch token (R242). -/
def Position.relatched (p : Position) : Position :=
  { p with pieces := p.pieces.map (fun e =>
      (e.1, match e.2.kind with
        | .agen a => { e.2 with kind := .agen { a with page := none, relatch := none } }
        | _ => e.2)) }

/-- The cut of an invocation is complete: it is held with the reason for its stop. Where that is a trap, its flags go into `fcsr`
and a stop is pending for the thread (R199, R243, R347); otherwise it keeps them, to its completion or trap. -/
def Ctx.holdInv (c : Ctx) (p : Position) (v : Invocation) (q : FabStop) : Ctx :=
  let bare := q.cause == 0
  let c1 := { c with
    inv := some { v with held := true, cut := some q, flags := if bare then v.flags else 0, quiet := 0, stall := 0 }
    board := some p.relatched
    fx := c.fx - 1 }
  if bare then c1 else { c1.raiseFlags v.flags with fabStop := some { q with prog := progressRecord p v q } }

end Sys2Proof.Machine
end

