-- ==== Sys2Proof/Machine/BoardSave.lean ====
section
/-! DEFINITION. Save images of a board (R247, R249, R258): their bytes, with the kind state in the model's layout (DESIGN CHOICE, log 8),
and the position and held invocation that they restore. -/

namespace Sys2Proof.Machine

/-! ### Reading a byte string front to back -/

/-- A reader of a byte string. -/
abbrev Rd (α : Type) := StateM (List Byte) α

/-- The next n bytes as a number. -/
def rdNum (n : Nat) : Rd Nat := fun bs => (leNat (bs.take n), bs.drop n)

/-- The next byte as a truth value. -/
def rdBool : Rd Bool := do return (← rdNum 1) == 1

/-- A token. -/
def rdTok : Rd Tok := do return BitVec.ofNat 32 (← rdNum 4)

/-- n things. -/
def rdMany {α : Type} (r : Rd α) : Nat → Rd (List α)
  | 0 => return []
  | n + 1 => do
    let x ← r
    let l ← rdMany r n
    return x :: l

/-- A list with its length in w bytes. -/
def rdList {α : Type} (w : Nat) (r : Rd α) : Rd (List α) := do rdMany r (← rdNum w)

/-- An optional thing: a flag, and the thing or its place. -/
def rdOpt {α : Type} (r : Rd α) : Rd (Option α) := do
  let b ← rdBool
  let x ← r
  return if b then some x else none

/-- A truth value as a byte. -/
def wrBool (b : Bool) : List Byte := [if b then 1 else 0]

/-- A token. -/
def wrTok (x : Tok) : List Byte := leBytes 4 x.toNat

/-- A list with its length in w bytes. -/
def wrList {α : Type} (w : Nat) (f : α → List Byte) (l : List α) : List Byte := leBytes w l.length ++ l.flatMap f

/-- An optional thing; d stands in its place. -/
def wrOpt {α : Type} (f : α → List Byte) (d : α) (x : Option α) : List Byte := wrBool x.isSome ++ f (x.getD d)

/-! ### Kind state (DESIGN CHOICE, log 8) -/

/-- A pair of tokens. -/
def wrPair (x : Tok × Tok) : List Byte := wrTok x.1 ++ wrTok x.2

/-- A pair of tokens. -/
def rdPair : Rd (Tok × Tok) := do return (← rdTok, ← rdTok)

/-- A segment. -/
def wrSeg (g : Seg) : List Byte := leBytes 4 g.count ++ wrOpt wrTok 0 g.acc

/-- A segment. -/
def rdSeg : Rd Seg := do return ⟨← rdNum 4, ← rdOpt rdTok⟩

/-- A token with a count. -/
def wrRun (x : Tok × Nat) : List Byte := wrTok x.1 ++ leBytes 4 x.2

/-- A token with a count. -/
def rdRun : Rd (Tok × Nat) := do return (← rdTok, ← rdNum 4)

/-- An access in the spill queue. -/
def wrAccess (x : Access) : List Byte := leBytes 4 x.idx ++ leBytes 8 x.addr.toNat ++ wrOpt wrTok 0 x.data

/-- The number of the oldest access that has not left an AGEN. -/
def AgenState.oldest (a : AgenState) : Nat := ((a.accs.head?).map Access.idx).getD a.next

/-- The accesses in an AGEN are all those from the oldest on: those in the load-store queue are told by the others. -/
def AgenState.dense (a : AgenState) : Bool :=
  a.accs.map Access.idx == (List.range (a.next - a.oldest)).map (· + a.oldest)

/-- The accesses of a `load` in the load-store queue: where they are not told by the others, by their numbers. -/
def wrLoads (a : AgenState) : List Byte :=
  wrBool a.dense ++ leBytes 4 a.oldest
    ++ wrList 1 (leBytes 4) (if a.dense then [] else (a.accs.filter Access.isIssued).map Access.idx)

/-- An access in the load-store queue, of an AGEN that takes tokens: its number and its tokens, of which its address gives the x
token back (R211). -/
def wrIssued (r : PieceRec) (a : AgenState) (x : Access) : List Byte :=
  leBytes 4 x.idx
    ++ (if r.pf 0 1 0 < 2 then [] else leBytes 4 ((x.addr - a.base) >>> (r.pf 0 19 18)).toNat)
    ++ (if r.pf 0 1 0 % 2 = 1 then wrTok (x.data.getD 0) else [])

/-- Accesses by what has become of them: returned, in the load-store queue, spilled with their causes. -/
def wrAccesses (r : PieceRec) (a : AgenState) : List Byte :=
  let l := a.accs
  wrList 1 (fun (p : Nat × Tok) => leBytes 4 p.1 ++ wrTok p.2) (l.filterMap (fun x => x.value.map (fun v => (x.idx, v))))
    ++ (if r.pf 0 1 0 = 0 then wrLoads a else wrList 1 (wrIssued r a) (l.filter Access.isIssued))
    ++ wrList 1 (fun (p : Nat × Access) => leBytes 1 p.1 ++ wrAccess p.2)
        (l.filterMap (fun x => match x.st with | .spilled c => some (c, x) | _ => none))

/-- An access put at its place by element index. -/
def insertAccess (x : Access) : List Access → List Access
  | [] => [x]
  | y :: l => if x.idx < y.idx then x :: y :: l else y :: insertAccess x l

/-- An access with its state. -/
def rdAccess (st : AccState) : Rd Access := do return ⟨← rdNum 4, BitVec.ofNat 64 (← rdNum 8), ← rdOpt rdTok, st⟩

/-- Access number i of a `load`, in the load-store queue. -/
def loadAt (r : PieceRec) (a : AgenState) (i : Nat) : Access := ⟨i, agenAddr r a i 0, none, .issued⟩

/-- The numbers of the accesses of a `load` in the load-store queue: those that are listed, or, where the others tell them,
none and the oldest. -/
def rdLoads : Rd (Option Nat × List Nat) := do
  let dense ← rdBool
  let lo ← rdNum 4
  let l ← rdList 1 (rdNum 4)
  return (if dense then some lo else none, l)

/-- An access in the load-store queue, of an AGEN that takes tokens. -/
def rdIssued (r : PieceRec) (a : AgenState) : Rd Access := do
  let i ← rdNum 4
  let x ← rdMany rdTok (if r.pf 0 1 0 < 2 then 0 else 1)
  let d ← rdMany rdTok (r.pf 0 1 0 % 2)
  return ⟨i, agenAddr r a i (x.headD 0), d.head?, .issued⟩

/-- The accesses of an AGEN, in element order; a holds all but them. -/
def rdAccesses (r : PieceRec) (a : AgenState) : Rd (List Access) := do
  let back ← rdList 1 (do return (⟨← rdNum 4, 0, none, .ready (← rdTok)⟩ : Access))
  let (lo, here) ← if r.pf 0 1 0 = 0 then (do let (o, l) ← rdLoads; return (o, l.map (loadAt r a)))
    else (do return ((none : Option Nat), ← rdList 1 (rdIssued r a)))
  let off ← rdList 1 (do let k ← rdNum 1; rdAccess (.spilled k))
  let told (n : Nat) : List Access :=
    ((List.range (a.next - n)).map (· + n)).map (fun i =>
      (((back ++ off).find? (fun x => x.idx == i)).getD (loadAt r a i)))
  return match lo with
    | some n => told n
    | none => (back ++ here ++ off).foldl (fun l x => insertAccess x l) []

/-- The bytes of a kind state; the pairs of a whole-stream SRT stand in its run tile. -/
def kindBytes (r : PieceRec) : KindState → List Byte
  | .plain => leBytes 1 0
  | .mrg ia ib la lb d =>
    leBytes 1 1 ++ leBytes 4 ia ++ leBytes 4 ib ++ wrOpt wrTok 0 la ++ wrOpt wrTok 0 lb ++ wrBool d
  | .unq run => leBytes 1 2 ++ wrOpt wrRun (0, 0) run
  | .srt g l =>
    leBytes 1 3 ++ (if r.pf 0 6 0 = 0 then leBytes 4 g.length ++ leBytes 4 l.length
      else wrList 1 wrPair g ++ wrList 1 wrPair l)
  | .seg g => leBytes 1 4 ++ wrSeg g
  | .red segs order =>
    leBytes 1 5 ++ wrList 1 (fun (p : Nat × Seg) => leBytes 4 p.1 ++ wrSeg p.2) segs ++ wrList 1 (leBytes 4) order
  | .exp n => leBytes 1 6 ++ leBytes 4 n
  | .tbl p l => leBytes 1 7 ++ wrOpt wrRun (0, 0) p ++ wrList 1 wrTok l
  | .agen a =>
    leBytes 1 8 ++ wrBool a.after0 ++ wrBool a.after1 ++ wrBool a.sent ++ wrBool a.blocked ++ leBytes 8 a.base.toNat
      ++ wrList 1 (leBytes 4) a.counts ++ leBytes 4 a.next ++ leBytes 4 a.performed ++ wrAccesses r a
  | .xreq p i n t => leBytes 1 9 ++ wrList 1 wrTok p ++ leBytes 4 i ++ leBytes 2 n ++ wrList 2 wrTok t

/-- The pairs of a whole-stream SRT from its run tile's tokens. -/
def pairsOf (r : PieceRec) : List Tok → List (Tok × Tok)
  | [] => []
  | x :: l =>
    if r.bound 1 then
      match l with
      | y :: l' => (x, y) :: pairsOf r l'
      | [] => [(x, 0)]
    else (x, 0) :: pairsOf r l

/-- The tokens of the pairs of a whole-stream SRT. -/
def pairTokens (r : PieceRec) (l : List (Tok × Tok)) : List Tok :=
  l.flatMap (fun x => if r.bound 1 then [x.1, x.2] else [x.1])

/-- A kind state; run holds the tokens of the run tile of a whole-stream SRT. -/
def rdKind (r : PieceRec) (run : List Tok) : Rd KindState := do
  match ← rdNum 1 with
  | 1 => return .mrg (← rdNum 4) (← rdNum 4) (← rdOpt rdTok) (← rdOpt rdTok) (← rdBool)
  | 2 => return .unq (← rdOpt rdRun)
  | 3 =>
    if r.pf 0 6 0 = 0 then
      let n ← rdNum 4
      let m ← rdNum 4
      let ps := pairsOf r run
      return .srt (ps.take n) ((ps.drop n).take m)
    else return .srt (← rdList 1 rdPair) (← rdList 1 rdPair)
  | 4 => return .seg (← rdSeg)
  | 5 => return .red (← rdList 1 (do return (← rdNum 4, ← rdSeg))) (← rdList 1 (rdNum 4))
  | 6 => return .exp (← rdNum 4)
  | 7 => return .tbl (← rdOpt rdRun) (← rdList 1 rdTok)
  | 8 =>
    let a0 ← rdBool
    let a1 ← rdBool
    let sent ← rdBool
    let blocked ← rdBool
    let base ← rdNum 8
    let counts ← rdList 1 (rdNum 4)
    let next ← rdNum 4
    let performed ← rdNum 4
    let a : AgenState := ⟨a0, a1, BitVec.ofNat 64 base, counts, next, [], performed, none, none, sent, blocked⟩
    return .agen { a with accs := ← rdAccesses r a }
  | 9 => return .xreq (← rdList 1 rdTok) (← rdNum 4) (← rdNum 2) (← rdList 2 rdTok)
  | _ => return .plain

/-! ### The state that no piece's record holds (DESIGN CHOICE, log 8) -/

/-- An input. -/
def wrInp (i : Inp) : List Byte := wrList 1 wrTok i.skid ++ wrBool i.ended
/-- An input. -/
def rdInp : Rd Inp := do return ⟨← rdList 1 rdTok, ← rdBool⟩
/-- An output. -/
def wrOutp (o : Outp) : List Byte := wrOpt wrTok 0 o.reg ++ wrBool o.ended
/-- An output. -/
def rdOutp : Rd Outp := do return ⟨← rdOpt rdTok, ← rdBool⟩

/-- The ended bits of a piece's inputs and outputs, and whether it has finished. -/
def wrMarks (p : Piece) : List Byte :=
  (p.ins.toList.map Inp.ended ++ p.outs.toList.map Outp.ended ++ [p.finished]).flatMap wrBool

/-- A piece with its marks. -/
def rdMarks (p : Piece) : Rd Piece := do
  let l ← rdMany rdBool 7
  return { p with
    ins := p.ins.mapIdx (fun j i => { i with ended := l.getD j false })
    outs := p.outs.mapIdx (fun j o => { o with ended := l.getD (4 + j) false })
    finished := l.getD 6 false }

/-- A vector of n things. -/
def rdVec {α : Type} (n : Nat) (d : α) (r : Rd α) : Rd (Vector α n) := do
  let l ← rdMany r n
  return Vector.ofFn (fun i => l.getD i.val d)

/-- A transfer of an XREQ piece in a save image: its place among the context's transfers, its piece and request, and the
auxiliary part of its frame (R349). -/
structure Mark where
  place : Nat
  piece : Nat
  req   : Nat
  aux   : List Byte
deriving DecidableEq, Repr

/-- A transfer of an XREQ piece as a mark. -/
def Xfer.mark (x : Xfer) (place : Nat) : Mark := ⟨place, x.piece, x.req, (padTo 21 x.aux).take 21⟩

/-- The transfers of XREQ pieces among a context's transfers. -/
def xreqMarks (xs : List Xfer) : List Mark := (xs.zipIdx.filter (fun p => p.1.xreq)).map (fun p => p.1.mark p.2)

/-- A mark. -/
def wrMark (m : Mark) : List Byte := leBytes 1 m.place ++ leBytes 1 m.piece ++ leBytes 4 m.req ++ m.aux
/-- The next n bytes. -/
def rdBytes (n : Nat) : Rd (List Byte) := fun bs => (bs.take n, bs.drop n)
/-- A mark. -/
def rdMark : Rd Mark := do return ⟨← rdNum 1, ← rdNum 1, ← rdNum 4, ← rdBytes 21⟩

/-- A transfer whose fault the executive has declined: a resumed invocation issues it again (R311). -/
def Xfer.declined (x : Xfer) : Bool := x.xreq && x.faulted.isSome && x.notice.isNone

/-- A declined transfer of an XREQ piece in a save image. -/
def wrAgain (x : Xfer) : List Byte :=
  leBytes 1 x.op.code ++ leBytes 8 x.dst.toNat ++ leBytes 8 x.src.toNat ++ leBytes 5 x.count ++ leBytes 8 x.sync.toNat
    ++ leBytes 5 x.done ++ wrMark (x.mark 0)

/-- A declined transfer of an XREQ piece, of an invocation at an address. -/
def rdAgain (tpc : Word) : Rd Xfer := do
  let op ← rdNum 1
  let dst ← rdNum 8
  let src ← rdNum 8
  let count ← rdNum 5
  let sync ← rdNum 8
  let done ← rdNum 5
  let m ← rdMark
  return { Xfer.blank (xferOpOf op) tpc with
    dst := BitVec.ofNat 64 dst, src := BitVec.ofNat 64 src, count := count, sync := BitVec.ofNat 64 sync, done := done
    faulted := some (0, 0), xreq := true, piece := m.piece, req := m.req, aux := m.aux }

/-! ### The spare bytes of the kind states -/

/-- The pieces whose kind state leaves bytes free, each with the place and number of those bytes. -/
def spareAreas : List (Nat × Nat × Nat) :=
  ((List.range 14).map (· + 8) ++ [24, 25, 30, 31, 32, 33]).map (fun n => (n, 64, 896))
    ++ [26, 27, 28, 29].map (fun n => (n, 400, 560)) ++ [42, 43].map (fun n => (n, 300, 660))

/-- The bytes that the spare areas hold: the groups that the input ports deliver, and the declined requests. -/
def spareBytes (v : Invocation) (xs : List Xfer) : List Byte :=
  v.ins.toList.flatMap (fun i => padTo 4096 (i.group.flatMap (fun g => leBytes 512 g.toNat)))
    ++ wrList 1 wrAgain (xs.filter Xfer.declined)

/-- The part of the spare bytes that piece n's kind state holds, and its place there. -/
def spareOf (bs : List Byte) (n : Nat) : Option (Nat × List Byte) :=
  go bs spareAreas
where
  /-- Takes the areas in order. -/
  go (bs : List Byte) : List (Nat × Nat × Nat) → Option (Nat × List Byte)
    | [] => none
    | (k, o, len) :: l => if k == n then some (o, bs.take len) else go (bs.drop len) l

/-- The spare bytes of a save image. -/
def readSpare (bs : List Byte) : List Byte :=
  spareAreas.flatMap (fun a => (bs.drop (0x80 + 0x400 * a.1 + 64 + a.2.1)).take a.2.2)

/-- The bytes of the ports, marks and FIFO tiles of a held invocation. -/
def sharedBytes (p : Position) (v : Invocation) (marks : List Mark) : List Byte :=
  v.ins.toList.flatMap (fun i => leBytes 1 i.field ++ leBytes 4 i.total ++ leBytes 4 i.pos ++ wrOpt wrTok 0 i.half
      ++ leBytes 4 i.entered ++ wrOutp i.out)
    ++ v.outs.toList.flatMap (fun o => leBytes 1 o.field ++ wrOpt (leBytes 4) 0 o.total ++ leBytes 4 o.written
      ++ wrOpt wrTok 0 o.half ++ wrInp o.inp ++ wrBool o.ended)
    ++ v.memOut.toList.flatMap wrOutp ++ wrOutp v.xferOut
    ++ wrInp v.svc.inp ++ wrList 2 wrTok v.svc.packet ++ wrList 1 (leBytes 1) v.svc.due
    ++ wrList 1 (wrList 2 wrTok) v.svc.replies ++ wrOutp v.svc.out
    ++ leBytes 64 v.mask.toNat ++ leBytes 8 v.tpc.toNat ++ leBytes 1 v.flags.toNat
    ++ p.tiles.toList.flatMap (fun t => wrInp t.inp ++ wrOutp t.out)
    ++ wrList 1 wrMark marks
    ++ p.image.pieces.flatMap (fun r =>
      match Tbl.find p.pieces r.num with
      | some q => wrMarks q
      | none => [])

/-- What the shared bytes restore: the invocation's ports, the position's marks and FIFO tiles, and the requests. -/
def rdShared (p : Position) (v : Invocation) : Rd (Position × Invocation × List Mark) := do
  let ins ← rdVec 4 ⟨0, [], 0, 0, none, 0, ⟨none, false⟩⟩ (do
    return (⟨← rdNum 1, [], ← rdNum 4, ← rdNum 4, ← rdOpt rdTok, ← rdNum 4, ← rdOutp⟩ : InPort))
  let outs ← rdVec 2 ⟨0, none, 0, none, ⟨[], false⟩, false⟩ (do
    return (⟨← rdNum 1, ← rdOpt (rdNum 4), ← rdNum 4, ← rdOpt rdTok, ← rdInp, ← rdBool⟩ : OutPort))
  let memOut ← rdVec 2 ⟨none, false⟩ rdOutp
  let xferOut ← rdOutp
  let svc : Svc := ⟨← rdInp, ← rdList 2 rdTok, ← rdList 1 (rdNum 1), ← rdList 1 (rdList 2 rdTok), ← rdOutp⟩
  let mask ← rdNum 64
  let tpc ← rdNum 8
  let flags ← rdNum 1
  let chans ← rdMany (do return (← rdInp, ← rdOutp)) 8
  let marks ← rdList 1 rdMark
  let pieces ← p.pieces.mapM (fun e => do return (e.1, ← rdMarks e.2))
  let p1 := { p with
    pieces := pieces
    tiles := p.tiles.mapIdx (fun i t =>
      let c := chans.getD i (⟨[], false⟩, ⟨none, false⟩)
      { t with inp := c.1, out := c.2 }) }
  let v1 := { v with
    ins := ins, outs := outs, memOut := memOut, xferOut := xferOut, svc := svc, mask := BitVec.ofNat 512 mask
    tpc := BitVec.ofNat 64 tpc, flags := BitVec.ofNat 5 flags }
  return (p1, v1, marks)

/-! ### The image (R249) -/

/-- The first 64 bytes of a piece's record. -/
def recordHead (q : Piece) : List Byte :=
  padTo 64 (
    q.ins.toList.flatMap (fun i => padTo 8 (i.skid.flatMap wrTok))
    ++ leBytes 1 ((q.ins.toList.zipIdx.map (fun p => p.1.skid.length * 4 ^ p.2)).sum)
    ++ leBytes 1 ((q.outs.toList.zipIdx.map (fun p => if p.1.reg.isSome then 2 ^ p.2 else 0)).sum)
    ++ leBytes 2 0 ++ q.outs.toList.flatMap (fun o => wrTok (o.reg.getD 0)))

/-- The record of piece number n; the shared bytes stand in the kind state of the MAP records. -/
def recordBytes (p : Position) (shared spare : List Byte) (n : Nat) : List Byte :=
  let kind := match Tbl.find p.pieces n, p.image.piece n with
    | some q, some r => kindBytes r q.kind
    | _, _ => []
  let rest := if n < 8 then (shared.drop (960 * n)).take 960
    else match spareOf spare n with
      | some (o, bs) => (padTo o kind).take o ++ bs
      | none => kind
  padTo 1024 ((match Tbl.find p.pieces n with | some q => recordHead q | none => List.replicate 64 0) ++ rest)

/-- The whole-stream SRT whose run tile is tile n. -/
def Image.srtOf (g : Image) (n : Nat) : Option PieceRec :=
  g.pieces.find? (fun r => kindOf r.num == .srt && r.pf 0 6 0 == 0 && r.pf 0 12 10 == n)

/-- The stored tokens of a FIFO tile. -/
def Position.stored (p : Position) (n : Fin 8) : List Tok :=
  match p.image.srtOf n.val with
  | some r =>
    match Tbl.find p.pieces r.num with
    | some ⟨_, _, .srt g l, _⟩ => pairTokens r (g ++ l)
    | _ => []
  | none => (p.tile n).fifo

/-- The block of a tile of role BUF or FIFO. -/
def tileBlock (p : Position) (n : Fin 8) : List Byte :=
  let role := p.image.role n.val
  let ts := if role == 2 then p.stored n else []
  padTo 64 (leBytes 1 n.val ++ leBytes 1 role ++ leBytes 2 0 ++ leBytes 4 0 ++ leBytes 4 ts.length)
    ++ (if role == 2 then padTo 131072 (ts.flatMap wrTok) else Memory.readBytes zeroByte (p.tile n).mem 0 131072)

/-- The tiles that have a block. -/
def Image.savedTiles (g : Image) : List (Fin 8) := (List.finRange 8).filter (fun n => g.role n.val == 1 || g.role n.val == 2)

/-- The stepping code of the device (R381). -/
def stepping : Nat := 1

/-- The size of a save image of a position. -/
def Image.saveSize (g : Image) : Nat := 0xB080 + g.savedTiles.length * (64 + 131072)

/-- The reason for a stop that has none. -/
def FabStop.none : FabStop := ⟨0, 0, 0, true, 0xFF, [], []⟩

/-- The header of a save image. -/
def saveHeader (p : Position) (v : Option Invocation) : List Byte :=
  let field (f : Option (BitVec 5)) : List Byte := leBytes 1 (match f with | some g => g.toNat | none => 0xFF)
  padTo 128 (leBytes 4 0x53564C4D ++ leBytes 2 1 ++ wrBool v.isSome ++ leBytes 1 stepping ++ leBytes 8 p.addr.toNat
    ++ leBytes 4 p.image.crc.toNat ++ leBytes 4 p.image.saveSize
    ++ match v with
      | some v => leBytes 1 v.slot.toNat ++ leBytes 1 v.entry.toNat ++ leBytes 6 0 ++ leBytes 8 v.vtype.toNat
          ++ v.fields.flatMap field ++ leBytes 1 v.mreg.toNat ++ leBytes 17 0
          ++ progressRecord p v (v.cut.getD FabStop.none)
      | none => [])

/-- The save image of a context's board. -/
def Ctx.saveImage (c : Ctx) : List Byte :=
  match c.board with
  | none => padTo 128 (leBytes 4 0x53564C4D ++ leBytes 2 1 ++ leBytes 1 0 ++ leBytes 1 stepping ++ leBytes 8 0
      ++ leBytes 4 0 ++ leBytes 4 128)
  | some p =>
    let shared := match c.inv with | some v => sharedBytes p v (xreqMarks c.xfers) | none => []
    let spare := match c.inv with | some v => spareBytes v c.xfers | none => []
    saveHeader p c.inv ++ (List.range 44).flatMap (recordBytes p shared spare) ++ p.image.savedTiles.flatMap (tileBlock p)

/-! ### Writing and reading it (R258) -/

/-- Bytes written at a virtual address, line by line, on the XU path; an untranslated region meets PERM. -/
def State.imageWrite (s : State) (ten : BitVec 5) : Nat → Word → List Byte → Moved State
  | 0, _, _ => .done s
  | fuel + 1, va, bs =>
    if bs.isEmpty then .done s
    else if (regionOf va).isSome then .fault .perm va
    else
      let n := Nat.min bs.length (128 - va.toNat % 128)
      match s.unitWrite ten va (bs.take n) with
      | .fault c a => .fault c a
      | .wait s1 => .wait s1
      | .done s1 => s1.imageWrite ten fuel (va + BitVec.ofNat 64 n) (bs.drop n)

/-- Initial data of a tile that a save image holds has not arrived (R226). -/
def Position.comingIn (p : Position) : Bool := p.image.savedTiles.any (fun n => p.dataWaits n.val 0 131072)

/-- The board of a context is saved to ga (R258), once the data of its tiles has arrived (R226): afterwards it has no
resident position. -/
def State.saveBoard (s : State) (t : Tid) (ga : Word) : Moved State :=
  let c := s.ctx t
  if (c.board.map Position.comingIn).getD false then .wait s
  else
    let bs := c.saveImage
    match s.imageWrite c.tenant (bs.length / 128 + 2) ga bs with
    | .done s1 => s1.setBoard t (fun c => { c with board := none, inv := none })
    | r => r

/-- The tokens that a FIFO tile's block holds, from its head index on, around its 32,768 places (R249; DEDUCED, log 8). -/
def blockTokens (b : List Byte) : List Tok :=
  let head := numAt b 4 4
  (List.range (numAt b 8 4)).map (fun k => BitVec.ofNat 32 (numAt b (64 + 4 * ((head + k) % 32768)) 4))

/-- The contents of the tiles of a position from the blocks of a save image. -/
def restoreTiles (g : Image) (p : Position) (bs : List Byte) : Position :=
  g.savedTiles.zipIdx.foldl (fun p x =>
    let b := (bs.drop (0xB080 + x.2 * 131136)).take 131136
    if g.role x.1.val == 1 then p.onTile x.1 (fun t => { t with mem := Memory.writeBytes zeroByte [] 0 (b.drop 64) })
    else if (g.srtOf x.1.val).isSome then p
    else p.onTile x.1 (fun t => { t with fifo := blockTokens b })) p

/-- The tokens of the run tile of a whole-stream SRT in a save image. -/
def runTokens (g : Image) (bs : List Byte) (r : PieceRec) : List Tok :=
  match g.savedTiles.zipIdx.find? (fun x => x.1.val == r.pf 0 12 10) with
  | some x => blockTokens ((bs.drop (0xB080 + x.2 * 131136)).take 131136)
  | none => []

/-- A piece from its record. -/
def restorePiece (g : Image) (bs : List Byte) (r : PieceRec) : Piece :=
  let b := (bs.drop (0x80 + 0x400 * r.num)).take 1024
  let occ (j : Nat) : Nat := numAt b 0x20 1 / 4 ^ j % 4
  let skid (j : Nat) : List Tok := (List.range (occ j)).map (fun k => BitVec.ofNat 32 (numAt b (8 * j + 4 * k) 4))
  let reg (j : Nat) : Option Tok :=
    if numAt b 0x21 1 / 2 ^ j % 2 = 1 then some (BitVec.ofNat 32 (numAt b (0x24 + 4 * j) 4)) else none
  { ins := Vector.ofFn (fun j => ⟨skid j.val, false⟩)
    outs := Vector.ofFn (fun j => ⟨reg j.val, false⟩)
    kind := if r.num < 8 then .plain else (rdKind r (runTokens g bs r) (b.drop 64)).1
    finished := false }

/-- The reason for the stop of a held invocation, as its progress record tells it. -/
def restoreStop (b : List Byte) : FabStop :=
  let code := numAt b 0x7A 2
  ⟨if code = 0 then 0 else Cause.stream.num, BitVec.ofNat 64 code, 0, numAt b 0x7C 1 % 2 == 1, numAt b 0x78 1, bytesAt b 0x40 64, []⟩

/-- The held invocation of a save image, but for what the shared bytes hold. -/
def restoreInv (b : List Byte) : Invocation :=
  let field (j : Nat) : Option (BitVec 5) := if numAt b (0x28 + j) 1 < 32 then some (BitVec.ofNat 5 (numAt b (0x28 + j) 1)) else none
  { slot := BitVec.ofNat 4 (numAt b 0x18 1), entry := BitVec.ofNat 4 (numAt b 0x19 1), fields := (List.range 6).map field
    mreg := BitVec.ofNat 3 (numAt b 0x2E 1), mask := 0, vtype := BitVec.ofNat 4 (numAt b 0x20 8), tpc := 0
    ins := Vector.replicate 4 ⟨0, [], 0, 0, none, 0, ⟨none, false⟩⟩
    outs := Vector.replicate 2 ⟨0, none, 0, none, ⟨[], false⟩, false⟩
    memOut := Vector.replicate 2 ⟨none, false⟩, xferOut := ⟨none, false⟩, svc := ⟨⟨[], false⟩, [], [], [], ⟨none, false⟩⟩
    flags := 0, stall := 0, cut := some (restoreStop b), quiet := 0, held := true }

/-- The transfers of a context marked as the requests that a save image names. -/
def Ctx.remark (c : Ctx) (marks : List Mark) : Ctx :=
  { c with xfers := c.xfers.mapIdx (fun i x =>
      match marks.find? (fun m => m.place == i) with
      | some m => { x with xreq := true, piece := m.piece, req := m.req, aux := padTo 64 m.aux }
      | none => x) }

/-- An invocation whose input ports deliver the groups that the spare bytes hold; a port that is bound to none keeps
none. -/
def Invocation.regroup (v : Invocation) (spare : List Byte) : Invocation :=
  { v with ins := v.ins.mapIdx (fun j i =>
      { i with group := if i.field = 0 then [] else
          (Sys2Proof.Machine.cut 512 ((spare.drop (4096 * j)).take (512 * gfOf v.vtype)) (gfOf v.vtype)).map (fun b =>
            BitVec.ofNat 4096 (leNat b)) }) }

/-- The shared bytes of a save image. -/
def readShared (bs : List Byte) : List Byte :=
  (List.range 8).flatMap (fun n => (bs.drop (0x80 + 0x400 * n + 64)).take 960)

/-- A held invocation of a save image: itself, the requests that are marked, and the declined requests. -/
structure SavedInv where
  inv   : Invocation
  marks : List Mark
  again : List Xfer
deriving DecidableEq, Repr

/-- What a save image of an image's position restores: the position, and the held invocation. -/
def readSave (p0 : Position) (bs : List Byte) : Position × Option SavedInv :=
  let g := p0.image
  let p1 := restoreTiles g p0.arriveAll bs
  if numAt bs 6 1 = 0 then (p1, none)
  else
    let p2 := { p1 with pieces := g.pieces.map (fun r => (r.num, restorePiece g bs r)) }
    let (p3, v, marks) := (rdShared p2 (restoreInv (bs.take 128)) (readShared bs)).1
    let spare := readSpare bs
    (p3, some ⟨v.regroup spare, marks, (rdList 1 (rdAgain v.tpc) (spare.drop 16384)).1⟩)

/-- A context with the board of a save image of an image's position. table: its transfers are those of the copy table that
was saved with the image (R361), which hold the declined requests too; otherwise the image's own are added (R311). -/
def Ctx.restoreImage (c : Ctx) (p0 : Position) (bs : List Byte) (table : Bool) : Ctx :=
  match readSave p0 bs with
  | (p, none) => { c with board := some p, inv := none }
  | (p, some h) =>
    let c1 := if table then c.remark h.marks else h.again.foldl Ctx.addXfer c
    { c1 with board := some p, inv := some h.inv }

/-- A piece's record in a save image is sound (R229, R249): no skid buffer holds more than two tokens, and what must be zero
is. -/
def recordSound (bs : List Byte) (n : Nat) : Bool :=
  let b := (bs.drop (0x80 + 0x400 * n)).take 64
  (List.range 4).all (fun j => numAt b 0x20 1 / 4 ^ j % 4 ≤ 2) && numAt b 0x21 1 ≤ 3 && allZero (bytesAt b 0x22 2)
    && allZero (bytesAt b 0x2C 20)

/-- A tile's state in a save image is sound: its number, its role, a FIFO's tokens within its depth. -/
def tileSound (g : Image) (bs : List Byte) (n : Fin 8) (k : Nat) : Bool :=
  let b := (bs.drop (0xB080 + k * 131136)).take 64
  let fifo := g.role n.val == 2
  numAt b 0 1 == n.val && numAt b 1 1 == g.role n.val && allZero (bytesAt b 2 2) && allZero (bytesAt b 0xC 52)
    && (if fifo then numAt b 4 4 < 32768 && numAt b 8 4 ≤ (g.tiles[n.val]?.map TileRec.depth).getD 0
        else numAt b 4 4 == 0 && numAt b 8 4 == 0)

/-- The pieces of a held invocation have the state of their kinds. -/
def kindsFit (p : Position) : Bool :=
  p.image.pieces.all (fun r =>
    match Tbl.find p.pieces r.num with
    | some q => (kindBytes r q.kind).head? == (kindBytes r (Ctx.reset.kindStart p.image [] r)).head?
    | none => false)

/-- The piece records of a save image hold what the state that they restore is saved as: bytes that no save writes are damage
(R229; DEDUCED, log 8). -/
def recordsKept (p0 : Position) (bs : List Byte) : Bool :=
  let same (p : Position) (shared spare : List Byte) : Bool :=
    (List.range 44).all (fun n => recordBytes p shared spare n == (bs.drop (0x80 + 0x400 * n)).take 0x400)
  match readSave p0 bs with
  | (p, none) => same p [] []
  | (p, some h) =>
    let shared := readShared bs
    let spare := readSpare bs
    kindsFit p && padTo shared.length (sharedBytes p h.inv h.marks) == shared && padTo spare.length (spareBytes h.inv h.again) == spare
      && same p shared spare

/-- The body of a save image is sound (R229). -/
def saveBodyOk (p0 : Position) (bs : List Byte) : Bool :=
  let g := p0.image
  g.pieces.all (fun r => recordSound bs r.num) && g.savedTiles.zipIdx.all (fun x => tileSound g bs x.1 x.2)
    && recordsKept p0 bs

/-- A save image's header is sound for this device (R229, R249): the image's address aligned, slot, entry, `vtype`, register
fields and m field within their ranges, and what must be zero is, in the progress record too (R243). -/
def saveHeadOk (h : List Byte) : Bool :=
  numAt h 0 4 == 0x53564C4D && numAt h 4 2 == 1 && numAt h 6 1 ≤ 1 && numAt h 7 1 == stepping
    && numAt h 8 8 % 128 == 0 && numAt h 0x18 1 ≤ 15 && numAt h 0x19 1 ≤ 15 && numAt h 0x20 8 ≤ 15
    && (bytesAt h 0x28 6).all (fun f => f.toNat < 32 || f == 0xFF) && numAt h 0x2E 1 ≤ 7
    && allZero (bytesAt h 0x1A 6) && allZero (bytesAt h 0x2F 17) && numAt h 0x79 1 == 0 && numAt h 0x7C 4 ≤ 1
    && (numAt h 8 8 != 0 || (numAt h 6 1 == 0 && numAt h 0x14 4 == 128))

/-- The transfers of XREQ pieces that a save image adds to a context have no place among its 64 (R361). -/
def Ctx.crowded (c : Ctx) (bs : List Byte) (table : Bool) : Bool :=
  !table && numAt bs 6 1 == 1 && decide (64 < c.xfers.length + numAt (readSpare bs) 16384 1)

/-- Restores a context's board from a save image (R258): code 0, or the code of a refusal, in the checking order of R229:
those of the Mladtik image it points to, 12, then 13. table is as for Ctx.restoreImage. -/
def State.restoreBoard (s : State) (t : Tid) (ga : Word) (table : Bool) : Moved (State × Nat) :=
  let ten := (s.ctx t).tenant
  let refuse (s : State) (code : Nat) : Moved (State × Nat) := .done (s.onCtx t (fun c => c.noteLoad code), code)
  match s.imageBytes ten ga 128 with
  | .fault c a => .fault c a
  | .wait s1 => .wait s1
  | .done (s1, h) =>
    if numAt h 8 8 = 0 then
      if !(saveHeadOk h) then refuse s1 13
      else
        match s1.setBoard t (fun c => { c with board := none, inv := none }) with
        | .done s2 => .done (s2, 0)
        | .wait s2 => .wait s2
        | .fault c a => .fault c a
    else
      match s1.loadImage t (BitVec.ofNat 64 (numAt h 8 8)) with
      | .fault c a => .fault c a
      | .wait s2 => .wait s2
      | .done (s2, code, none) => refuse s2 code
      | .done (s2, _, some p) =>
        if !(saveHeadOk h && p.image.crc.toNat == numAt h 0x10 4 && p.image.saveSize == numAt h 0x14 4) then refuse s2 13
        else
          match s2.imageBytes ten ga p.image.saveSize with
          | .fault c a => .fault c a
          | .wait s3 => .wait s3
          | .done (s3, bs) =>
            if !(saveBodyOk p bs) then refuse s3 13
            else if (s3.ctx t).crowded bs table then .wait s3
            else
              match s3.setBoard t (fun c => c.restoreImage p bs table) with
              | .done s4 => .done (s4, 0)
              | .wait s4 => .wait s4
              | .fault c a => .fault c a

end Sys2Proof.Machine
end

