-- ==== Sys2Proof/Machine/Fabric.lean ====
section
/-! DEFINITION. Fabric opcodes (R231 to R236, R250 to R258) and the steps of the board: configuration packets, fabric
cycles, accesses of AGENs, stalls, cuts, completion and re-latch tokens (R190, R211, R218, R226, R236, R242, R246). -/

namespace Sys2Proof.Machine

/-- The context has a running invocation (R235). -/
def Ctx.invRunning (c : Ctx) : Bool := match c.inv with | some v => !v.held | none => false

/-- A fault of the XU path traps the instruction; the PERM of a region is not resumable (R345). -/
def xuTrap {α : Type} (s : State) (c : Cause) (va : Word) : Run α :=
  trapRes s c va (if c == .perm then (regionOf va).isNone else c.resumable)

/-! ### Invocation (R234, R250 to R252) -/

/-- The entry word that a binding names, resident or read from the image (R234, step 1): a read that meets a fault traps as
step 4 states. -/
def entryWord (s : State) (b : Binding) : Run (BitVec 32) :=
  let c := s.me
  match c.board with
  | some p =>
    if p.addr == b.image then .ok (p.image.entries.getD b.entry.toNat 0) else readIt
  | none => readIt
where
  readIt : Run (BitVec 32) :=
    match s.imageBytes s.me.tenant (b.image + BitVec.ofNat 64 (0x40 + 4 * b.entry.toNat)) 4 with
    | .done (_, bs) => .ok (BitVec.ofNat 32 (leNat bs))
    | .fault c va => xuTrap s c va
    | .wait s1 => waitNow (s.holdFrom s1)

/-- Every supplied field that an entry word binds to a port is a multiple of GF (R231, R234). A word
with V = 0, whether resident or read from memory, binds no port here, so that step 5 reports it (DESIGN CHOICE, log 38: R234 does not
say). -/
def fieldsAligned (gf : Nat) (w : BitVec 32) (fields : List (Option (BitVec 5))) : Bool :=
  !(entryDefined w) || (List.range 6).all (fun p =>
    match boundReg w fields p with
    | some g => g.toNat % gf == 0
    | none => true)

/-- Makes an image resident, unless it is (R234, step 4; R252). -/
def makeResident (s : State) (addr : Word) : Run State :=
  if (match s.me.board with | some p => p.addr == addr | none => false) then .ok s
  else
    match s.loadPosition s.cur addr with
    | .fault c va => xuTrap s c va
    | .wait s1 => waitNow (s.holdFrom s1)
    | .done (s1, code) => if code = 0 then .ok s1 else trapNow s1 .stream (BitVec.ofNat 64 (0x10000 + code))

/-- An invocation by a fabric opcode of n bytes. -/
def invokeBy (i : Instr) (n : Nat) (slot : BitVec 4) (fields : List (Option (BitVec 5))) (m : BitVec 3) (s : State) :
    Run State := do
  notInTx s
  let c := s.me
  if c.invRunning then waitNow s
  legal s i (c.vstart == 0 && c.maskOk m)
  let b := c.slots[slot.toNat]'(slot.isLt)
  match b with
  | some b =>
    let w ← entryWord s b
    legal s i (fieldsAligned c.gf w fields)
  | none => .ok ()
  if c.isHeld then trapNow s .stream 0x0600
  match b with
  | none => trapNow s .stream (BitVec.ofNat 64 (0x400 + slot.toNat))
  | some b =>
    let s1 ← makeResident s b.image
    match s1.me.board with
    | none => waitNow s1
    | some p =>
      if p.arrived < 8 then waitNow s1
      match s1.me.invoke p slot b.entry fields m with
      | .error code => trapNow s1 .stream (BitVec.ofNat 64 code)
      | .ok c1 => .ok (((s1.onMe (fun _ => c1)).keepFirst s1.cur).advance n)

/-- FX (R250, R252). -/
def execFx (slot : BitVec 4) (d a b : BitVec 5) (m : BitVec 3) (s : State) : Host.Outcome State Fault Refusal :=
  finish (invokeBy (.fx slot d a b m) 4 slot [some a, some b, none, some d, none, none] m s)

/-- FXL (R251, R252). -/
def execFxl (d a b c e f : BitVec 5) (m : BitVec 3) (slot : BitVec 4) (s : State) : Host.Outcome State Fault Refusal :=
  finish (invokeBy (.fxl d a b c e f m slot) 8 slot [some a, some b, some c, some d, some e, some f] m s)

/-! ### Positions and slots (R253 to R258) -/

/-- `fxload`, `fxsave`, `fxrest` and `fxdrop` wait first until no invocation of the context runs (R235, R253). -/
def boardIdle (s : State) : Run Unit := do
  notInTx s
  if s.me.invRunning then waitNow s

/-- FXLOAD (R254). -/
def execFxload (d a : BitVec 5) (s : State) : Host.Outcome State Fault Refusal := finish do
  boardIdle s
  let ga := s.G a
  if ga.toNat % 128 != 0 then trapNow s .misalign ga
  if s.me.isHeld then .ok ((s.setG d 14).advance 4)
  else
    match s.loadPosition s.cur ga with
    | .fault c va => xuTrap s c va
    | .wait s1 => waitNow (s.holdFrom s1)
    | .done (s1, code) => .ok ((s1.setG d (BitVec.ofNat 64 code)).advance 4)

/-- A context with a slot's binding replaced. -/
def Ctx.bind (c : Ctx) (slot : BitVec 4) (b : Option Binding) : Ctx :=
  { c with slots := c.slots.set slot.toNat b slot.isLt }

/-- FXBIND (R255). -/
def execFxbind (a : BitVec 5) (e slot : BitVec 4) (s : State) : Host.Outcome State Fault Refusal := finish do
  notInTx s
  let ga := s.G a
  if ga.toNat % 128 != 0 then trapNow s .misalign ga
  .ok ((s.onMe (fun c => c.bind slot (some ⟨ga, e⟩))).advance 4)

/-- FXUNBIND (R255). -/
def execFxunbind (slot : BitVec 4) (s : State) : Host.Outcome State Fault Refusal := finish do
  notInTx s
  .ok ((s.onMe (fun c => c.bind slot none)).advance 4)

/-- The board state code of a context (R256). -/
def Ctx.boardCode (c : Ctx) : Nat :=
  match c.board with
  | none => 0
  | some p => if c.isHeld then 4 else if c.invRunning then 3 else if p.coming.isEmpty then 2 else 1

/-- The status word of a slot (R256). -/
def Ctx.fxStatus (c : Ctx) (slot : BitVec 4) : Word :=
  let b := c.slots[slot.toNat]'(slot.isLt)
  let res := match b, c.board with | some b, some p => p.addr == b.image | _, _ => false
  BitVec.ofNat 64 (c.lchk.toNat % 256 * 2 ^ 32 + (match b with | some b => b.entry.toNat | none => 0) * 2 ^ 24
    + c.boardCode * 2 ^ 16 + (if res then 2 else 0) + (if b.isSome then 1 else 0))

/-- FXSTAT (R256): it proceeds while an invocation runs, and shows so (R235). -/
def execFxstat (d : BitVec 5) (slot : BitVec 4) (s : State) : Host.Outcome State Fault Refusal := finish do
  notInTx s
  .ok ((s.setG d (s.me.fxStatus slot)).advance 4)

/-- A context whose held invocation is discarded (R257): its requests go on, with no completion tokens, but for those
whose fault was declined. -/
def Ctx.dropHeld (c : Ctx) : Ctx :=
  if c.isHeld then
    let keep := c.xfers.filter (fun x => !x.declined)
    { c with
      inv := none
      board := c.board.map Position.emptied
      xfers := keep.map (fun x => { x with xreq := false })
      cp := c.cp - (c.xfers.length - keep.length) }
  else c

/-- FXDROP (R257). -/
def execFxdrop (s : State) : Host.Outcome State Fault Refusal := finish do
  boardIdle s
  .ok ((s.onMe Ctx.dropHeld).advance 4)

/-- A context whose declined requests a save image has taken (R311). -/
def Ctx.dropDeclined (c : Ctx) : Ctx :=
  let keep := c.xfers.filter (fun x => !x.declined)
  { c with xfers := keep, cp := c.cp - (c.xfers.length - keep.length) }

/-- FXSAVE (R258); the requests of XREQ pieces complete first, but for those whose fault was declined. -/
def execFxsave (a : BitVec 5) (s : State) : Host.Outcome State Fault Refusal := finish do
  boardIdle s
  let ga := s.G a
  if ga.toNat % 128 != 0 then trapNow s .misalign ga
  if s.me.xfers.any (fun x => x.xreq && !x.declined) then waitNow s
  match s.saveBoard s.cur ga with
  | .fault c va => xuTrap s c va
  | .wait s1 => waitNow (s.holdFrom s1)
  | .done s1 => .ok ((s1.onMe Ctx.dropDeclined).advance 4)

/-- FXREST (R258). -/
def execFxrest (a : BitVec 5) (s : State) : Host.Outcome State Fault Refusal := finish do
  boardIdle s
  let ga := s.G a
  if ga.toNat % 128 != 0 then trapNow s .misalign ga
  if s.me.isHeld then trapNow s .stream 0x0600
  match s.restoreBoard s.cur ga false with
  | .fault c va => xuTrap s c va
  | .wait s1 => waitNow (s.holdFrom s1)
  | .done (s1, code) =>
    if code = 0 then .ok (s1.advance 4) else trapNow s1 .stream (BitVec.ofNat 64 (0x10000 + code))

/-! ### Steps of the board -/

/-- The outcome of a step that acts on a thread's running invocation; without one, nothing happens. -/
def onRunning (s : State) (t : Tid) (f : Position → Invocation → State) : Host.Outcome State Fault Refusal :=
  match (s.ctx t).board, (s.ctx t).inv with
  | some p, some v => .next (if v.held then s else f p v)
  | _, _ => .next s

/-- CONFIGURATION_PACKET (R226). -/
def execConfigurationPacket (core : BitVec 6) (cx : Cx) (s : State) : Host.Outcome State Fault Refusal :=
  .next (s.onCtx ⟨core, cx⟩ (fun c => { c with board := c.board.map Position.packet }))

/-- The context that holds the board in the next fabric cycle (R9, R245). -/
def Core.boardCx (k : Core) : Cx := if k.ctxU.invRunning then .u else .n

/-- FABRIC_CYCLE (R190, R191, R245). -/
def execFabricCycle (core : BitVec 6) (s : State) : Host.Outcome State Fault Refusal :=
  let t : Tid := ⟨core, (s.core core).boardCx⟩
  onRunning s t (fun p v =>
    let (c1, req) := (s.ctx t).fabricCycle (s.noticeWaits core).isNone p v
    let s1 := s.setCtx t c1
    let s2 := match req with | some q => s1.serviceNotices t q | none => s1
    s2.issueXreqs t p)

/-- AGEN_ACCESS_PERFORMED (R211, R212, R238): nothing of a position moves while the other context holds the board
(R184). -/
def execAgenAccessPerformed (core : BitVec 6) (cx : Cx) (agen : BitVec 3) (s : State) :
    Host.Outcome State Fault Refusal :=
  let t : Tid := ⟨core, cx⟩
  if (s.core core).boardCx != cx then .next s
  else
  onRunning s t (fun p v =>
    match p.image.piece (34 + agen.toNat), p.agen (34 + agen.toNat) with
    | some r, some a =>
      match a.candidate with
      | some x => s.agenStep t p v r a x
      | none => s
    | _, _ => s)

/-- FABSTALL (R218). -/
def execFabstall (core : BitVec 6) (cx : Cx) (s : State) : Host.Outcome State Fault Refusal :=
  let t : Tid := ⟨core, cx⟩
  onRunning s t (fun _ v =>
    if 65536 ≤ v.stall then s.stopInv t ⟨Cause.fabstall.num, 0, v.tpc, false, 0xFF, [], []⟩ else s)

/-- MARKER_CUT_TIMEOUT (R246): after 16 fabric cycles without a firing, and with the issued accesses performed, every
piece has forwarded the marker. -/
def execMarkerCutTimeout (core : BitVec 6) (cx : Cx) (s : State) : Host.Outcome State Fault Refusal :=
  let t : Tid := ⟨core, cx⟩
  onRunning s t (fun p v =>
    match v.cut with
    | some q => if 16 ≤ v.quiet && !p.cutWaits then s.onCtx t (fun c => c.holdInv p v q) else s
    | none => s)

/-- INVOCATION_COMPLETE (R233, R236). An invocation that a stop is cutting does not complete. -/
def execInvocationComplete (core : BitVec 6) (cx : Cx) (s : State) : Host.Outcome State Fault Refusal :=
  let t : Tid := ⟨core, cx⟩
  onRunning s t (fun p v =>
    let going := match v.cut with | some q => q.cause == 0 | none => true
    if going && (s.ctx t).invDone p v then s.onCtx t (fun c => c.completeInv v) else s)

/-- RELATCH_TOKEN (R212, R242): the token comes out once every access issued before it has been performed, and the AGEN
translates again. -/
def execRelatchToken (core : BitVec 6) (cx : Cx) (agen : BitVec 3) (s : State) : Host.Outcome State Fault Refusal :=
  let t : Tid := ⟨core, cx⟩
  let n := 34 + agen.toNat
  match (s.ctx t).board.bind (fun p => p.agen n) with
  | some a =>
    match a.relatch with
    | some k =>
      if a.accs.all (fun x => decide (k ≤ x.idx) || x.value.isSome) then
        .next (s.setAgen t n { a with page := none, relatch := none })
      else .next s
    | none => .next s
  | none => .next s

/-- SERVICE_STREAM_STOP (R241): the code that `tval` holds is the executive's, which the spec does not list: a free
value (DESIGN CHOICE, log 4). -/
def execServiceStreamStop (core : BitVec 6) (cx : Cx) (s : State) : Host.Outcome State Fault Refusal :=
  let t : Tid := ⟨core, cx⟩
  onRunning s t (fun _ v =>
    if v.svc.outstanding == 0 then s
    else
      let (w, s1) := s.fresh
      let svc := match v.svc.due with
        | _ :: l => { v.svc with due := l }
        | [] => { v.svc with replies := v.svc.replies.tail }
      (s1.onCtx t (fun c => { c with inv := some { v with svc := svc } })).stopInv t
        ⟨Cause.stream.num, w, v.tpc, false, 0xFF, [], []⟩)

end Sys2Proof.Machine
end

