-- ==== Sys2Proof/Machine/Transfer.lean ====
section
/-! DEFINITION. Transfer-unit instructions (R308 to R320): copies and drains, handles, sync words, pip fills. The bytes
of a transfer move in later steps of the transfer unit (DESIGN CHOICE, log 1). -/

namespace Sys2Proof.Machine

/-- The handle that an instruction names, which must name a region for the thread (R297). -/
def namedHandle (s : State) (h : BitVec 6) : Run Handle :=
  let hd := s.handle s.cur h
  if hd.names s.me.tenant then .ok hd else trapNow s .handle (h.zeroExtend 64)

/-- A transfer address in the thread's own tile window, the queue ports or a command-port page traps PERM at issue
(R308). -/
def xferAddr (s : State) (va : Word) : Run Unit :=
  match regionOf va with
  | none | some .remote => .ok ()
  | some _ => trapNow s .perm va

/-- The checks of a sync word address at issue: 0 names none (R314). -/
def syncAddr (s : State) (va : Word) : Run Unit :=
  if va == 0 then .ok ()
  else if va.toNat % 8 != 0 then trapNow s .misalign va
  else if regionOf va == some .remote then .ok () else trapNow s .perm va

/-- The count n of a count operand: its low half (R313). -/
def countOf (x : Word) : Nat := (x.extractLsb' 0 32).toNat

/-- The offset o of a count operand: its high half (R313). -/
def offsetOf (x : Word) : Nat := (x.extractLsb' 32 32).toNat

/-- The handle names a region that holds the bytes o to o + n - 1 (R313). -/
def regionCheck (s : State) (h : BitVec 6) (x : Word) : Run Handle := do
  let hd ← namedHandle s h
  if decide (hd.size < offsetOf x + countOf x) then trapNow s .handle (h.zeroExtend 64)
  .ok hd

/-- The moving thread issues a transfer (R310), waiting while its class counter is full (R334). -/
def State.issue (s : State) (x : Xfer) : State := (s.onMe (fun c => c.addXfer x)).advance 4

/-- COPY (R313). -/
def execCopy (d a b : BitVec 5) (h : BitVec 6) (s : State) : Host.Outcome State Fault Refusal := finish do
  notInTx s
  let gb := s.G b
  let hd ← regionCheck s h gb
  xferAddr s (s.G a)
  if hd.st == .filling || hd.st == .draining || hd.st == .full then waitNow s
  if s.regionBusy s.cur h || s.me.xferFull then waitNow s
  let x : Xfer := { Xfer.blank .copy s.pc with
    handle := some h, pips := (s.G d).extractLsb' 0 16, src := s.G a, count := countOf gb, off := offsetOf gb }
  .ok ((s.onHandle s.cur h (fun k => { k with st := .filling, left := k.st })).issue x)

/-- A drain of either kind (R315). -/
def drainBy (op : XferOp) (d a b : BitVec 5) (h : BitVec 6) (s : State) : Run State := do
  notInTx s
  let gb := s.G b
  let hd ← regionCheck s h gb
  syncAddr s (s.G d)
  xferAddr s (s.G a)
  if hd.st == .filling || hd.st == .draining then waitNow s
  if s.regionBusy s.cur h || s.me.xferFull then waitNow s
  let x : Xfer := { Xfer.blank op s.pc with
    handle := some h, dst := s.G a, count := countOf gb, off := offsetOf gb, sync := s.G d }
  .ok ((s.onHandle s.cur h (fun k => { k with st := .draining, left := k.st })).issue x)

/-- DRAIN (R315). -/
def execDrain (d a b : BitVec 5) (h : BitVec 6) (s : State) : Host.Outcome State Fault Refusal :=
  finish (drainBy .drain d a b h s)

/-- DRAIN_R (R315). -/
def execDrainR (d a b : BitVec 5) (h : BitVec 6) (s : State) : Host.Outcome State Fault Refusal :=
  finish (drainBy .drainR d a b h s)

/-- COPYL (R314). -/
def execCopyl (a b c e : BitVec 5) (sc : BitVec 2) (s : State) : Host.Outcome State Fault Refusal := finish do
  notInTx s
  syncAddr s (s.G e)
  xferAddr s (s.G a)
  xferAddr s (s.G b)
  if s.me.xferFull then waitNow s
  let x : Xfer := { Xfer.blank .copyl s.pc with
    sc := sc, dst := s.G a, src := s.G b, count := ((s.G c).extractLsb' 0 40).toNat, sync := s.G e }
  .ok (((s.order sc).onMe (fun c => c.addXfer x)).advance 8)

/-! ### Handles (R316, R317) -/

/-- HWAIT (R316). -/
def execHwait (d : BitVec 5) (h : BitVec 6) (s : State) : Host.Outcome State Fault Refusal := finish do
  notInTx s
  let hd ← namedHandle s h
  if hd.st == .filling || hd.st == .draining then waitNow s
  .ok ((s.setG d (BitVec.ofNat 64 hd.st.code)).advance 4)

/-- HSTAT (R316): a handle that names no region shows a word with BUF 0. -/
def execHstat (d : BitVec 5) (h : BitVec 6) (s : State) : Host.Outcome State Fault Refusal := finish do
  notInTx s
  let hd := s.handle s.cur h
  .ok ((s.setG d (if hd.names s.me.tenant then hd.status else 0)).advance 4)

/-- The pips that a release leaves over: PIPS of a FULL handle, else 0 (R317). -/
def Handle.residue (h : Handle) : Nat := if h.st == .full && !h.unl then h.pips.toNat else 0

/-- The under-read effects of a residue after its effect (R300, R303): PUR, and PIPUNDER when PUE is set, resuming at
the next instruction. -/
def underRead (s : State) (n : Nat) : Run State :=
  if n == 0 then .ok (s.advance 4)
  else
    let s1 := s.onMe Ctx.setPur
    if s1.me.pue then .error (.trap s1 (trapN s1 .pipunder (BitVec.ofNat 64 n) 4)) else .ok (s1.advance 4)

/-- HREL (R317). -/
def execHrel (d : BitVec 5) (h : BitVec 6) (s : State) : Host.Outcome State Fault Refusal := finish do
  notInTx s
  let hd ← namedHandle s h
  if hd.st == .filling || hd.st == .draining then waitNow s
  let s1 := s.onHandle s.cur h (fun k => { k with st := .free, pips := 0, unl := false })
  underRead (s1.setG d (BitVec.ofNat 64 hd.residue)) hd.residue

/-- HREL_P (R317). -/
def execHrelP (b : BitVec 5) (h : BitVec 6) (s : State) : Host.Outcome State Fault Refusal := finish do
  notInTx s
  let hd ← namedHandle s h
  if hd.st == .filling || hd.st == .draining then waitNow s
  if hd.st == .full then trapNow s .handle (h.zeroExtend 64)
  if s.regionBusy s.cur h then waitNow s
  let p : BitVec 16 := (s.G b).extractLsb' 0 16
  .ok ((s.onHandle s.cur h (fun k => { k with st := .full, pips := p, unl := p == 0 })).advance 4)

/-! ### Sync words (R306, R318) -/

/-- The tile and offset of a sync word of the thread's own tile window (R318). -/
def ownSync (s : State) (va : Word) : Run (Fin 8 × Nat) :=
  if va.toNat % 8 != 0 then trapNow s .misalign va
  else
    match regionOf va, s.me.tilePlace va with
    | some .tile, some r => if s.me.dataWaits r.1 r.2 8 then waitNow s else .ok r
    | _, _ => trapNow s .perm va

/-- A sync word of the thread's position. -/
def State.ownWord (s : State) (p : Fin 8 × Nat) : Word := BitVec.ofNat 64 (leNat (s.tileBytes s.cur p.1 p.2 8))

/-- SINIT (R318): GEN unchanged, COUNT 0, TARGET G(b)<27:0>. -/
def execSinit (d a b : BitVec 5) (s : State) : Host.Outcome State Fault Refusal := finish do
  notInTx s
  let p ← ownSync s (s.G a)
  let old := s.ownWord p
  let new : Word := old.extractLsb' 56 8 ++ (0 : BitVec 28) ++ (s.G b).extractLsb' 0 28
  .ok (((s.onTile s.cur p.1 (fun k => k.put p.2 (leBytes 8 new.toNat))).setG d old).advance 4)

/-- SWAIT (R318). -/
def execSwait (d a b : BitVec 5) (s : State) : Host.Outcome State Fault Refusal := finish do
  notInTx s
  let p ← ownSync s (s.G a)
  let w := s.ownWord p
  if w.extractLsb' 56 8 != (s.G b).extractLsb' 0 8 || (w.extractLsb' 0 28).ult (w.extractLsb' 28 28) then
    .ok ((s.setG d w).advance 4)
  else waitNow s

/-! ### Pip fills (R319, R320) -/

/-- PFILL (R319). -/
def execPfill (d a b : BitVec 5) (s : State) : Host.Outcome State Fault Refusal := finish do
  notInTx s
  let ga := s.G a
  let gd := s.G d
  if ga.toNat % 128 != 0 then trapNow s .misalign ga
  if gd.extractLsb' 0 8 == 0 || gd.extractLsb' 12 16 == 0 then .ok (s.advance 4)
  else
    xferAddr s (s.G b)
    if s.me.xferFull then waitNow s
    let s1 ← s.fillFrom s.cur s.pc (s.pc + 4) ga (s.G b) gd 0
    .ok (s1.advance 4)

/-- PCLOSE (R320): waits until every fill of the group has arrived, then closes it. -/
def execPclose (d : BitVec 5) (g : BitVec 4) (s : State) : Host.Outcome State Fault Refusal := finish do
  notInTx s
  if s.me.fillsGroup g then waitNow s
  let (s1, n) := s.closeGroup s.cur g
  underRead (s1.setG d (BitVec.ofNat 64 n)) n

end Sys2Proof.Machine
end

