-- ==== Sys2Proof/Machine/ScalarMem.lean ====
section
/-! DEFINITION. Scalar loads, stores and atomics (R110 to R119): memory, the tile address window (R214), the queue
ports (R20) and pipped lines (R114, R302). -/

namespace Sys2Proof.Machine

/-! ### The queue ports (R20) -/

/-- Checks a queue-port access of the moving thread (R20): the slot's launch and queue number, or none where a load
returns zero. Alignment has been checked. -/
def portPlace (s : State) (va : Word) (off : Nat) (store : Bool) : Run (Option (Nat × Nat)) :=
  if 0x4000000 ≤ off then trapNow s .perm va
  else
    let slot := off / 0x10000
    let q := off / 0x800 % 32
    match s.launchAt slot with
    | none => if store then trapNow s .perm va else .ok none
    | some l =>
      if l.tenant != s.me.tenant then trapNow s .perm va
      else if store && l.state.isFinal then trapNow s .perm va
      else
        match l.queue q with
        | some _ => .ok (some (slot, q))
        | none => if store then trapNow s .perm va else .ok none

/-- A scalar load of n bytes from the queue-port region. A load of a status word that is not of 8 bytes has no stated
value (DESIGN CHOICE, log 4). -/
def portRead (s : State) (va : Word) (off n : Nat) : Run (State × Nat) := do
  match ← portPlace s va off false with
  | none => .ok (s, 0)
  | some _ =>
    let w := off % 0x800
    if 0x7F0 ≤ w && w < 0x7F8 && n != 8 then .ok (s.fresh.2, s.fresh.1.toNat % 2 ^ (8 * n))
    else .ok (s, (s.portLoad off n).toNat)

/-- A scalar store of n bytes to the queue-port region: no scalar store is a whole 16-byte unit. -/
def portWrite (s : State) (va : Word) (off n : Nat) (x : Word) : Run State := do
  let w := off % 0x800
  if off < 0x4000000 && (w < 0x7F0 || (w < 0x7F8 && n != 8)) then trapNow s .misalign va
  match ← portPlace s va off true with
  | none => .ok s
  | some (slot, q) => if w == 0x7F0 && x == 1 then .ok (s.closeQueue slot q) else .ok s

/-! ### Loads and stores -/

/-- n bytes at a virtual address read by the moving thread, as a number. -/
def loadNum (s : State) (va : Word) (n : Nat) : Run (State × Nat) := do
  match ← scalarPlace s va n .read true true with
  | .tile t off => .ok (s, leNat (s.tileBytes s.cur t off n))
  | .queue off => portRead s va off n
  | .mem pa unc =>
    let (s1, bs) ← lsRead s s.cur va pa n unc
    .ok (s1, leNat bs)

/-- The n low bytes of x written at a virtual address by the moving thread. -/
def storeNum (s : State) (va : Word) (n : Nat) (x : Word) : Run State := do
  match ← scalarPlace s va n .write true true with
  | .tile t off => .ok (s.onTile s.cur t (fun k => k.put off (leBytes n x.toNat)))
  | .queue off => portWrite s va off n x
  | .mem pa unc => lsWrite s s.cur va pa unc (leBytes n x.toNat)

/-- LD (R112). -/
def execLd (d a : BitVec 5) (w : BitVec 3) (i : BitVec 13) (s : State) : Host.Outcome State Fault Refusal := finish do
  let (s1, x) ← loadNum s (memAddr (s.G a) i) (widthBytes w)
  .ok ((s1.setG d (extend w x)).advance 4)

/-- ST (R112). -/
def execSt (r a : BitVec 5) (w : BitVec 3) (i : BitVec 13) (s : State) : Host.Outcome State Fault Refusal := finish do
  let s1 ← storeNum s (memAddr (s.G a) i) (widthBytes w) (s.G r)
  .ok (s1.advance 4)

/-- LDA (R113). -/
def execLda (d a : BitVec 5) (w : BitVec 3) (c : BitVec 2) (i : BitVec 11) (s : State) :
    Host.Outcome State Fault Refusal := finish do
  let (s1, x) ← loadNum s (memAddr (s.G a) i) (widthBytes w)
  .ok (((s1.order c).setG d (extend w x)).advance 4)

/-- STL (R113). -/
def execStl (r a : BitVec 5) (w : BitVec 3) (c : BitVec 2) (i : BitVec 11) (s : State) :
    Host.Outcome State Fault Refusal := finish do
  let s1 ← storeNum s (memAddr (s.G a) i) (widthBytes w) (s.G r)
  .ok ((s1.order c).advance 4)

/-! ### Consuming loads (R114, R302) -/

/-- A consuming read finds its line: it waits while the line is pending, and traps PIPOVER where no live pipped line
holds it. -/
def liveLine (s : State) (va : Word) (line : Nat) : Run Unit :=
  let e := s.dirOf line
  if e.st != .pipped then trapNow s .pipover va
  else if e.pending then waitNow s
  else .ok ()

/-- Takes one pip of a live line; the last pip drops it without a write-back. -/
def State.takePip (s : State) (line : Nat) : State :=
  let e := s.dirOf line
  if e.pips.toNat ≤ 1 then s.dropPipped line else s.setDir line { e with pips := e.pips - 1 }

/-- The access meets an orphaned line (R375). -/
def Gate.isOrphaned : Gate → Bool
  | .orphaned => true
  | _ => false

/-- LDC (R114). A host-homed line is never pipped: PIPOVER ranks before the POISON of an orphaned one (R110); the LINK of a
down port, which R110 does not rank, is reported before PIPOVER (DESIGN CHOICE, log 58). -/
def execLdc (d a : BitVec 5) (w : BitVec 3) (i : BitVec 13) (s : State) : Host.Outcome State Fault Refusal := finish do
  notInTx s
  let va := memAddr (s.G a) i
  let n := widthBytes w
  match ← scalarPlace s va n .read false false with
  | .mem pa _ =>
    let g := s.gate (some s.cur) pa n false
    if g.isOrphaned then liveLine s va (lineOf pa)
    let s1 ← g.toRun s s.cur va
    liveLine s va (lineOf pa)
    if s.poisoned pa n then trapNow s .poison va
    .ok (((s1.takePip (lineOf pa)).setG d (extend w (s.num pa n))).advance 4)
  | _ => trapNow s .perm va

/-! ### Atomics (R116 to R119) -/

/-- The line of an atomic that writes nothing is owned all the same (R293). -/
def State.ownOnly (s : State) (t : Tid) (pa : Nat) (unc : Bool) : State :=
  let l := lineOf pa
  let s1 := s.fillL2 t l
  if unc || s.pipped l then s1 else s1.takeOwned t.core t.cx l

/-- The atomic on n bytes at a virtual address: f gives the new value from the old one, or none to write nothing. The
old value is the answer. -/
def atomically (s : State) (va : Word) (n : Nat) (f : Nat → Option Nat) : Run (State × Nat) := do
  notInTx s
  match ← scalarPlace s va n .both true false with
  | .tile t off =>
    let old := leNat (s.tileBytes s.cur t off n)
    match f old with
    | some x => .ok (s.onTile s.cur t (fun k => k.put off (leBytes n x)), old)
    | none => .ok (s, old)
  | .mem pa unc =>
    let s1 ← (s.gate (some s.cur) pa n true).toRun s s.cur va
    if s1.poisoned pa n then trapNow s .poison va
    let old := s1.num pa n
    match f old with
    | some x =>
      .ok (((linesOf pa n).foldl (fun s l => s.touchWrite s.cur.core s.cur.cx unc l) s1).put pa (leBytes n x), old)
    | none => .ok (s1.ownOnly s.cur pa unc, old)
  | .queue _ => trapNow s .perm va

/-- The bytes of an atomic (R116). -/
def amoBytes (z : BitVec 1) : Nat := if z = 0 then 4 else 8

/-- An n-byte value as a signed number. -/
def signedOf (n x : Nat) : Int := if x < 2 ^ (8 * n - 1) then x else (x : Int) - 2 ^ (8 * n)

/-- The low n bytes of a word as a number. -/
def lowBytes (n : Nat) (x : Word) : Nat := x.toNat % 2 ^ (8 * n)

/-- An n-byte value sign-extended. -/
def sextBytes (n x : Nat) : Word := BitVec.ofInt 64 (signedOf n x)

/-- An atomic with its orderings (R117, R118): AQ and RL ask for orderings at the scope; with both clear the scope has
no effect. -/
def amo (f : Nat → Nat → Nat → Option Nat) (d a b : BitVec 5) (z : BitVec 1) (c : BitVec 2) (q l : BitVec 1)
    (s : State) : Host.Outcome State Fault Refusal := finish do
  let n := amoBytes z
  let (s1, old) ← atomically s (s.G a) n (fun old => f n old (lowBytes n (s.G b)))
  let s2 := if q = 1 ∨ l = 1 then s1.order c else s1
  .ok ((s2.setG d (sextBytes n old)).advance 4)

/-- AMO_ADD (R117). -/
def execAmoAdd (d a b : BitVec 5) (z : BitVec 1) (c : BitVec 2) (q l : BitVec 1) (s : State) :
    Host.Outcome State Fault Refusal := amo (fun n old x => some ((old + x) % 2 ^ (8 * n))) d a b z c q l s

/-- AMO_SWAP (R117). -/
def execAmoSwap (d a b : BitVec 5) (z : BitVec 1) (c : BitVec 2) (q l : BitVec 1) (s : State) :
    Host.Outcome State Fault Refusal := amo (fun _ _ x => some x) d a b z c q l s

/-- AMO_AND (R117). -/
def execAmoAnd (d a b : BitVec 5) (z : BitVec 1) (c : BitVec 2) (q l : BitVec 1) (s : State) :
    Host.Outcome State Fault Refusal := amo (fun _ old x => some (old &&& x)) d a b z c q l s

/-- AMO_OR (R117). -/
def execAmoOr (d a b : BitVec 5) (z : BitVec 1) (c : BitVec 2) (q l : BitVec 1) (s : State) :
    Host.Outcome State Fault Refusal := amo (fun _ old x => some (old ||| x)) d a b z c q l s

/-- AMO_XOR (R117). -/
def execAmoXor (d a b : BitVec 5) (z : BitVec 1) (c : BitVec 2) (q l : BitVec 1) (s : State) :
    Host.Outcome State Fault Refusal := amo (fun _ old x => some (old ^^^ x)) d a b z c q l s

/-- AMO_MIN (R117). -/
def execAmoMin (d a b : BitVec 5) (z : BitVec 1) (c : BitVec 2) (q l : BitVec 1) (s : State) :
    Host.Outcome State Fault Refusal :=
  amo (fun n old x => some (if signedOf n old < signedOf n x then old else x)) d a b z c q l s

/-- AMO_MAX (R117). -/
def execAmoMax (d a b : BitVec 5) (z : BitVec 1) (c : BitVec 2) (q l : BitVec 1) (s : State) :
    Host.Outcome State Fault Refusal :=
  amo (fun n old x => some (if signedOf n old < signedOf n x then x else old)) d a b z c q l s

/-- AMO_MINU (R117). -/
def execAmoMinu (d a b : BitVec 5) (z : BitVec 1) (c : BitVec 2) (q l : BitVec 1) (s : State) :
    Host.Outcome State Fault Refusal := amo (fun _ old x => some (Nat.min old x)) d a b z c q l s

/-- AMO_MAXU (R117). -/
def execAmoMaxu (d a b : BitVec 5) (z : BitVec 1) (c : BitVec 2) (q l : BitVec 1) (s : State) :
    Host.Outcome State Fault Refusal := amo (fun _ old x => some (Nat.max old x)) d a b z c q l s

/-- AMO_CAS (R117): compares with G(d); a failed cas writes nothing. -/
def execAmoCas (d a b : BitVec 5) (z : BitVec 1) (c : BitVec 2) (q l : BitVec 1) (s : State) :
    Host.Outcome State Fault Refusal :=
  amo (fun n old x => if old = lowBytes n (s.G d) then some x else none) d a b z c q l s

end Sys2Proof.Machine
end

