-- ==== Sys2Proof/Machine/VectorMem.lean ====
section
/-! DEFINITION. Vector loads and stores (R161 to R172): memory through the resident table, the queue ports, typed
buffers, mask loads, consuming loads, first-fault loads and tensor tiles. -/

namespace Sys2Proof.Machine

/-! ### One access (R161, R165) -/

/-- Where a vector access of n bytes of the moving thread goes: the physical address and whether it is uncached. -/
def vecPlace (s : State) (va : Word) (n : Nat) (aligned write : Bool) : Run (Nat × Bool) :=
  if aligned && va.toNat % n != 0 then trapNow s .misalign va
  else if (regionOf va).isSome then do
    txRegion s
    trapNow s .perm va
  else
    match s.me.resident va n write with
    | .ok r => .ok r
    | .error .perm => trapRes s .perm va true
    | .error c => trapNow s c va

/-- A stop whose trap names another address. -/
def retag (va : Word) {α : Type} : Run α → Run α
  | .error (.trap s q) => .error (.trap s { q with tval := va })
  | r => r

/-- n bytes of a vector access read as a number. -/
def vecRead (s : State) (va : Word) (n : Nat) : Run (State × Nat) := do
  let (pa, unc) ← vecPlace s va n true false
  let (s1, bs) ← lsRead s s.cur va pa n unc
  .ok (s1, leNat bs)

/-- The n low bytes of x written by a vector access. -/
def vecWrite (s : State) (va : Word) (n x : Nat) : Run State := do
  let (pa, unc) ← vecPlace s va n true true
  lsWrite s s.cur va pa unc (leBytes n x)

/-- What byte j of the three-byte group at va meets (R161, R165): its place, or a cause. -/
def groupByte (s : State) (va : Word) (write : Bool) (j : Nat) : Except Cause (Nat × Bool) :=
  let a := va + BitVec.ofNat 64 j
  if (regionOf a).isSome then .error .perm else s.me.resident a 1 write

/-- What an access met is a given cause. -/
def meets {α : Type} (c : Cause) : Except Cause α → Bool
  | .error e => e == c
  | .ok _ => false

/-- A byte of the three-byte group at va lies in an untranslated region. -/
def groupRegion (va : Word) : Bool := (List.range 3).any (fun j => (regionOf (va + BitVec.ofNat 64 j)).isSome)

/-- The places of the three bytes of a group, PERM where its address names an untranslated region (R161); else their traps rank over the whole access, and name its address. -/
def groupPlaces (s : State) (va : Word) (write : Bool) : Run (List (Nat × Bool)) := do
  let ps := (List.range 3).map (groupByte s va write)
  let region := groupRegion va
  if region then txRegion s
  if (regionOf va).isSome then trapNow s .perm va
  match [Cause.vwin, Cause.vpage, Cause.perm].find? (fun c => ps.any (meets c)) with
  | some .perm => trapRes s .perm va (!region)
  | some c => trapNow s c va
  | none => .ok (ps.filterMap Except.toOption)

/-- An access of several parts that is made whole or not at all: any stop leaves the state s before it, with what a wait
asked for. -/
def atOnce {α : Type} (s : State) : Run α → Run α
  | .error (.trap _ q) => .error (.trap s q)
  | .error (.abort _ c tc) => .error (.abort s c tc)
  | .error (.wait s1) => .error (.wait (s.holdFrom s1))
  | r => r

/-- Bytes read at several places, for one access at va. -/
def placesRead (s : State) (va : Word) : List (Nat × Bool) → Run (State × List Byte)
  | [] => .ok (s, [])
  | p :: ps => do
    let (s1, b) ← lsRead s s.cur va p.1 1 p.2
    let (s2, bs) ← placesRead s1 va ps
    .ok (s2, b ++ bs)

/-- Bytes written at several places, for one access at va. -/
def placesWrite (s : State) (va : Word) : List ((Nat × Bool) × Byte) → Run State
  | [] => .ok s
  | (p, b) :: ps => do placesWrite (← lsWrite s s.cur va p.1 p.2 [b]) va ps

/-- The three bytes of an L6P group read. -/
def groupRead (s : State) (va : Word) : Run (State × List Byte) := do atOnce s (placesRead s va (← groupPlaces s va false))

/-- The three bytes of an L6P group written. -/
def groupWrite (s : State) (va : Word) (bs : List Byte) : Run State := do
  atOnce s (placesWrite s va ((← groupPlaces s va true).zip bs))

/-- The address of the L6P group of element k (R165). -/
def groupAddr (ga : Word) (k : Nat) : Word := ga + BitVec.ofNat 64 (3 * (k / 4))

/-- Code k mod 4 of a 24-bit group (R134). -/
def codeOf (x k : Nat) : Nat := x / 2 ^ (6 * (k % 4)) % 64

/-- The 24-bit group that holds element k of register group r (R134, R165). -/
def Ctx.codes (c : Ctx) (r k : Nat) : Nat :=
  (List.range 4).foldl (fun x j => x + c.el 8 r (k / 4 * 4 + j) % 64 * 2 ^ (6 * j)) 0

/-- The state with element k of group d written in the moving thread's context. -/
def State.setElem (s : State) (d : BitVec 5) (k x : Nat) : State := s.onMe (fun c => c.setEl c.ew d.toNat k x)

/-- One active element loaded from an address (R164). -/
def loadEl (d : BitVec 5) (s : State) (va : Word) (k : Nat) : Run State := do
  let (s1, x) ← vecRead s va (s.me.ew / 8)
  .ok (s1.setElem d k x)

/-- One active element loaded from its L6P group (R165). -/
def loadCode (d : BitVec 5) (s : State) (ga : Word) (k : Nat) : Run State := do
  let (s1, bs) ← groupRead s (groupAddr ga k)
  .ok (s1.setElem d k (codeOf (leNat bs) k))

/-! ### Loads (R164, R165) -/

/-- The address of element k in modes 0, 3 and 4 (R164). -/
def unitAddr (ga : Word) (ew k : Nat) : Word := ga + BitVec.ofNat 64 (k * (ew / 8))

/-- The address of element k at a byte stride (R164). -/
def strideAddr (ga gb : Word) (k : Nat) : Word := ga + BitVec.ofNat 64 k * gb

/-- The address of element k of an indexed access: IW code i, index group b (R164). -/
def Ctx.indexAddr (c : Ctx) (ga : Word) (b : BitVec 5) (i : BitVec 2) (k : Nat) : Word :=
  ga + BitVec.ofNat 64 (c.el (8 * 2 ^ i.toNat) b.toNat k)

/-- The checks of an index group (R164): its span is at most eight registers and b is a multiple of it. -/
def Ctx.indexOk (c : Ctx) (b : BitVec 5) (i : BitVec 2) : Bool :=
  let w := 8 * 2 ^ i.toNat
  decide (c.gf * w ≤ 8 * c.ew) && b.toNat % c.spanOf w == 0

/-- The index group does not overlap the destination of `vldx` (R164). -/
def Ctx.indexApart (c : Ctx) (d b : BitVec 5) (i : BitVec 2) : Bool :=
  let n := c.spanOf (8 * 2 ^ i.toNat)
  !(decide (d.toNat < b.toNat + n) && decide (b.toNat < d.toNat + c.gf))

/-- The common legality of a vector load or store: a group, a mask, and EW 8 for L6P (R163, R165). -/
def Ctx.memOk (c : Ctx) (d : BitVec 5) (m : BitVec 3) (p : BitVec 1) : Bool :=
  c.group d && c.maskOk m && (p == 0 || c.ew == 8)

/-- The completion of a vector load: the destination's fill (R153). -/
def State.fillDone (s : State) (d : BitVec 5) : State := s.onMe (fun c => c.fillGroup d c.vl.toNat)

/-- A load of each active element by its address. -/
def vecLoad (i : Instr) (d : BitVec 5) (m : BitVec 3) (at_ : Nat → Word) (s : State) : Run State :=
  vecMem i 4 s (fun s k => if s.me.active m k then loadEl d s (at_ k) k else .ok s) (fun s => s.fillDone d)

/-- VLD (R164, R165). -/
def execVld (d a : BitVec 5) (m : BitVec 3) (p : BitVec 1) (s : State) : Host.Outcome State Fault Refusal := finish do
  let i : Instr := .vld d a m p
  let ga := s.G a
  legal s i (s.me.memOk d m p)
  if p = 0 then vecLoad i d m (unitAddr ga s.me.ew) s
  else vecMem i 4 s (fun s k => if s.me.active m k then loadCode d s ga k else .ok s) (fun s => s.fillDone d)

/-- VLDS (R164). -/
def execVlds (d a b : BitVec 5) (m : BitVec 3) (s : State) : Host.Outcome State Fault Refusal := finish do
  legal s (.vlds d a b m) (s.me.memOk d m 0)
  vecLoad (.vlds d a b m) d m (strideAddr (s.G a) (s.G b)) s

/-- VLDX (R164). -/
def execVldx (d a b : BitVec 5) (m : BitVec 3) (i : BitVec 2) (s : State) : Host.Outcome State Fault Refusal := finish do
  legal s (.vldx d a b m i) (s.me.memOk d m 0 && s.me.indexOk b i && s.me.indexApart d b i)
  vecLoad (.vldx d a b m i) d m (s.me.indexAddr (s.G a) b i) s

/-! ### First-fault loads (R166) -/

/-- The conditions of R161 from VWIN onward. -/
def shortens (cause : Nat) : Bool :=
  cause == Cause.vwin.num || cause == Cause.vpage.num || cause == Cause.perm.num || cause == Cause.poison.num

/-- The lowest active element of a first-fault load, of those from the element at which it was issued. -/
def Ctx.lowestActive (c : Ctx) (m : BitVec 3) : Option Nat := ((List.range c.vl.toNat).drop c.start).find? (c.active m)

/-- A first-fault load complete with `vl` shortened to k. -/
def State.shortened (s : State) (d : BitVec 5) (k : Nat) : State :=
  ((s.onMe (fun c => { c with vl := BitVec.ofNat 13 k })).fillDone d).vdone 4

/-- An element of a first-fault load lies in an untranslated region: there its access meets PERM (R161). -/
def elemRegion (p : BitVec 1) (ga : Word) (ew k : Nat) : Bool :=
  if p = 0 then (regionOf (unitAddr ga ew k)).isSome else groupRegion (groupAddr ga k)

/-- VLDFF (R166). Inside a transaction too, an element that meets a condition after the lowest active one shortens `vl`: only
the lowest one's access aborts it (R343). -/
def execVldff (d a : BitVec 5) (m : BitVec 3) (p : BitVec 1) (s : State) : Host.Outcome State Fault Refusal := finish do
  let i : Instr := .vldff d a m p
  let ga := s.G a
  legal s i (s.me.memOk d m p)
  let low := s.me.lowestActive m
  let f (s : State) (k : Nat) : Run State :=
    if s.me.active m k then (if p = 0 then loadEl d s (unitAddr ga s.me.ew k) k else loadCode d s ga k) else .ok s
  let (now, rest) := s.me.share s.inParts s.me.todo
  match vecRun f s now with
  | .all s1 => if rest.isEmpty then .ok ((s1.fillDone d).vdone 4) else .error (partStop i s1 rest)
  | .stopped e r =>
    let k := r.headD 0
    match e with
    | .trap s1 q =>
      if shortens q.cause && some k != low then .ok (s1.shortened d k) else .error (vecStop i s e (r ++ rest))
    | .abort s1 _ _ =>
      if elemRegion p ga s.me.ew k && some k != low then .ok (s1.shortened d k) else .error (vecStop i s e (r ++ rest))
    | _ => .error (vecStop i s e (r ++ rest))

/-! ### Consuming loads (R167) -/

/-- Consecutive elements grouped by a key. -/
def runsBy (key : Nat → Nat) : List Nat → List (List Nat)
  | [] => []
  | i :: is =>
    match runsBy key is with
    | (j :: g) :: gs => if key i = key j then (i :: j :: g) :: gs else [i] :: (j :: g) :: gs
    | gs => [i] :: gs

/-- Every active element of one line read: the translated places of the elements, in order. -/
def linePlaces (s : State) (at_ : Nat → Word) : List Nat → Run (List (Nat × Nat))
  | [] => .ok []
  | k :: ks => do
    let (pa, _) ← vecPlace s (at_ k) (s.me.ew / 8) true false
    let r ← linePlaces s at_ ks
    .ok ((k, pa) :: r)

/-- One line of a consuming load (R167): its elements are read and one pip is taken, or neither. An orphaned line, never a
live pipped one, meets PIPOVER (R161); the LINK of a down port, which R161 does not rank, is reported before PIPOVER and POISON
(DESIGN CHOICE, log 58). -/
def consumeLine (d : BitVec 5) (m : BitVec 3) (at_ : Nat → Word) (s : State) (ks : List Nat) : Run State := do
  let act := ks.filter (s.me.active m)
  match act with
  | [] => .ok s
  | k0 :: _ =>
    let n := s.me.ew / 8
    let ps ← linePlaces s at_ act
    let pa := (ps.headD (0, 0)).2
    let g := s.gate (some s.cur) pa n false
    if g.isOrphaned then liveLine s (at_ k0) (lineOf pa)
    let s1 ← g.toRun s s.cur (at_ k0)
    liveLine s (at_ k0) (lineOf pa)
    match ps.find? (fun p => s.poisoned p.2 n) with
    | some p => trapNow s .poison (at_ p.1)
    | none =>
      .ok ((ps.foldl (fun s p => s.setElem d p.1 (s.num p.2 n)) s1).takePip (lineOf pa))

/-- Runs over lines in ascending order until one stops, with the elements not complete. -/
def lineRun (f : State → List Nat → Run State) (s : State) : List (List Nat) → VecRan
  | [] => .all s
  | g :: gs =>
    match f s g with
    | .ok s1 => lineRun f s1 gs
    | .error e => .stopped e ((g :: gs).flatten)

/-- VLDC (R167). Its progress boundary lies at the first element of a line, so that a portion is the lines that hold an
element of the lowest chunk not complete (R364; DEDUCED, log 7). -/
def execVldc (d a : BitVec 5) (m : BitVec 3) (s : State) : Host.Outcome State Fault Refusal := finish do
  notInTx s
  let i : Instr := .vldc d a m
  let ga := s.G a
  legal s i (s.me.memOk d m 0)
  let at_ := unitAddr ga s.me.ew
  let todo := s.me.todo
  let lines := runsBy (fun k => (at_ k).toNat / 128) todo
  let first := (splitChunk s.me.ew todo).1
  let (now, rest) := if s.inParts then lines.span (fun l => first.contains (l.headD 0)) else (lines, [])
  match lineRun (consumeLine d m at_) s now with
  | .stopped e r => .error (vecStop i s e (r ++ rest.flatten) .waits)
  | .all s1 => if rest.isEmpty then .ok ((s1.fillDone d).vdone 4) else .error (partStop i s1 rest.flatten)

/-! ### Typed buffers (R168) -/

/-- The 6-bit handle number of a buffer access: fn bit 0 above field b (R163). -/
def bufHandle (h : BitVec 5) (j : BitVec 1) : BitVec 6 := j ++ h

/-- The offset and bytes of element k in a region. -/
def bufSpan (ga ew : Nat) (p : BitVec 1) (k : Nat) : Nat × Nat :=
  if p = 0 then (ga + k * (ew / 8), ew / 8) else (ga + 3 * (k / 4), 3)

/-- The bytes of the body elements all lie within the region (R168). -/
def Ctx.bodyWithin (c : Ctx) (ga size : Nat) (p : BitVec 1) : Bool :=
  let fst := c.vstart.toNat
  let lst := c.vl.toNat
  if lst ≤ fst then true
  else
    let (o, n) := bufSpan ga c.ew p (lst - 1)
    decide (o + n ≤ size)

/-- The checks of R168 up to the wait: MISALIGN, HANDLE, and the wait while the handle is FILLING or, for a store,
DRAINING. -/
def bufCheck (s : State) (ga : Word) (h : BitVec 6) (p : BitVec 1) (store : Bool) : Run Handle := do
  let hd := s.handle s.cur h
  if p == 0 && ga.toNat % (s.me.ew / 8) != 0 then trapNow s .misalign ga
  if !(hd.names s.me.tenant && s.me.bodyWithin ga.toNat hd.size p) then trapNow s .handle (h.zeroExtend 64)
  if hd.st == .filling || (store && hd.st == .draining) then waitNow s
  .ok hd

/-- One active element read from a region. -/
def bufLoad (hd : Handle) (ga : Word) (p : BitVec 1) (d : BitVec 5) (m : BitVec 3) (s : State) (k : Nat) : Run State :=
  if s.me.active m k then
    let (o, n) := bufSpan ga.toNat s.me.ew p k
    let x := leNat (s.myCore.regionBytes hd o n)
    .ok (s.setElem d k (if p = 0 then x else codeOf x k))
  else .ok s

/-- VLDB (R168). -/
def execVldb (d a h : BitVec 5) (m : BitVec 3) (p j : BitVec 1) (s : State) : Host.Outcome State Fault Refusal :=
  finish do
    let i : Instr := .vldb d a h m p j
    legal s i (s.me.memOk d m p)
    let hd ← bufCheck s (s.G a) (bufHandle h j) p false
    if hd.st == .free then trapNow s .handle ((bufHandle h j).zeroExtend 64)
    vecMem i 4 s (bufLoad hd (s.G a) p d m) (fun s => s.fillDone d)

/-- A handle with one pip taken and the reads not done (R168, R300); UNL takes none. -/
def Handle.pull (h : Handle) : Handle := if h.unl then h else { h with pips := h.pips - 1 }

/-- The reads of a consuming instruction are done: a handle with no pip left enters SPENT (R168). -/
def Handle.readDone (h : Handle) : Handle := if h.st == .full && !h.unl && h.pips == 0 then { h with st := .spent } else h

/-- A handle with one pip taken and the reads done. -/
def Handle.take (h : Handle) : Handle := h.pull.readDone

/-- A consuming read of a handle that is not FILLING (R168, R298): it must be FULL, and hold a pip that no other
consuming read has taken. -/
def consumable (s : State) (h : BitVec 6) (hd : Handle) : Run Unit :=
  match hd.st with
  | .full => if hd.unl || hd.pips != 0 then .ok () else trapNow s .pipover (h.zeroExtend 64)
  | .draining => trapNow s .handle (h.zeroExtend 64)
  | _ => trapNow s .pipover (h.zeroExtend 64)

/-- VLDB_C (R168): class W. -/
def execVldbC (d a h : BitVec 5) (m : BitVec 3) (p j : BitVec 1) (s : State) : Host.Outcome State Fault Refusal :=
  finish do
    notInTx s
    let i : Instr := .vldbC d a h m p j
    legal s i (s.me.memOk d m p && s.me.whole)
    let hd ← bufCheck s (s.G a) (bufHandle h j) p false
    consumable s (bufHandle h j) hd
    match vecRun (bufLoad hd (s.G a) p d m) s (List.range s.me.vl.toNat) with
    | .all s1 => .ok (((s1.onHandle s1.cur (bufHandle h j) Handle.take).fillDone d).vdone 4)
    | .stopped e _ => .error e

/-! ### Stores (R164, R165) -/

/-- The bytes that the performed elements of a store cover: pairs of a physical address and a length. -/
def spansOf (s : State) (m : BitVec 3) (n : Nat) (at_ : Nat → Word) (ks : List Nat) : List (Nat × Nat) :=
  let span (va : Word) (n : Nat) : List (Nat × Nat) :=
    match s.me.resident va n true with
    | .ok (pa, _) => [(pa, n)]
    | .error _ => []
  (ks.filter (s.me.active m)).flatMap (fun k =>
    if n == 3 then (List.range 3).flatMap (fun j => span (at_ k + BitVec.ofNat 64 j) 1) else span (at_ k) n)

/-- A granule that a store covers whole loses its poison (R386), outside a transaction. -/
def State.clearCovered (s : State) (spans : List (Nat × Nat)) : State :=
  if s.poison.isEmpty then s
  else { s with poison := s.poison.filter (fun g =>
    !((List.range 32).all (fun b => spans.any (fun p => decide (p.1 ≤ g * 32 + b) && decide (g * 32 + b < p.1 + p.2))))) }

/-- The state after elements of a vector store of thread s.cur, of n bytes each, those in rest being left: in however many portions
it is performed, the store is one write, and the granules that it has covered whole so far lose their poison (R386; DEDUCED,
log 7). s is the state in which the portion began. -/
def State.storedSo (s s1 : State) (m : BitVec 3) (n : Nat) (at_ : Nat → Word) (rest : List Nat) : State :=
  if s.me.txa || s.poison.isEmpty then s1
  else s1.clearCovered (spansOf s m n at_
    (((List.range s.me.vl.toNat).drop s.me.start).filter (fun k => !(rest.contains k))))

/-- A store of each active element by its address, width in bytes and value; granules covered by the elements performed
lose their poison. -/
def vecStore (i : Instr) (m : BitVec 3) (n : Nat) (at_ : Nat → Word) (f : State → Nat → Run State) (s : State) :
    Run State :=
  let g (s : State) (k : Nat) : Run State := if s.me.active m k then f s k else .ok s
  let (now, rest) := s.me.share s.inParts s.me.todo
  match vecRun g s now with
  | .all s1 =>
    let s2 := s.storedSo s1 m n at_ rest
    if rest.isEmpty then .ok (s2.vdone 4) else .error (partStop i s2 rest)
  | .stopped e r =>
    match e with
    | .trap s1 q => .error (vecStop i s (.trap (s.storedSo s1 m n at_ (r ++ rest)) q) (r ++ rest))
    | .wait s1 => .error (vecStop i s (.wait (s.storedSo s1 m n at_ (r ++ rest))) (r ++ rest))
    | .abort _ c tc => .error (.abort s c tc)

/-- One active element stored at an address. -/
def storeEl (r : BitVec 5) (at_ : Nat → Word) (s : State) (k : Nat) : Run State :=
  vecWrite s (at_ k) (s.me.ew / 8) (s.me.el s.me.ew r.toNat k)

/-- The L6P group of one active element stored in full (R165). -/
def storeCode (r : BitVec 5) (ga : Word) (s : State) (k : Nat) : Run State := do
  groupWrite s (groupAddr ga k) (leBytes 3 (s.me.codes r.toNat k))

/-- The entries of a queue-port `vst`: each 16 bytes of the elements (R20, R161). -/
def portEntries (c : Ctx) (r : BitVec 5) : List (BitVec 128) :=
  let n := c.vl.toNat * (c.ew / 8)
  let bs := (List.range c.vl.toNat).flatMap (fun k => leBytes (c.ew / 8) (c.el c.ew r.toNat k))
  (List.range (n / 16)).map (fun j => BitVec.ofNat 128 (leNat ((bs.drop (16 * j)).take 16)))

/-- A `vst` to the queue-port region (R20, R161): class W, mode 0, unmasked, whole aligned 16-byte units of one window. It
counts once in the store counter while back-pressure holds any of its units (R162, R334). -/
def portStore (i : Instr) (r : BitVec 5) (ga : Word) (s : State) : Run State := do
  legal s i s.me.whole
  txRegion s
  let n := s.me.vl.toNat * (s.me.ew / 8)
  let off := ga.toNat % 2 ^ 40
  let w := off % 0x800
  if ga.toNat % 16 != 0 || n % 16 != 0 || (decide (0 < n) && decide (0x7F0 < w + n)) then trapNow s .misalign ga
  if n == 0 then .ok (s.vdone 4)
  else
    match ← portPlace s ga off true with
    | none => .ok (s.vdone 4)
    | some (slot, q) =>
      if decide (65535 ≤ s.me.st) then waitNow s
      else
        let s1 := (portEntries s.me r).foldl (fun s e => s.portEntry (.thread s.cur) slot q e) s
        .ok ((if s1.holdsStore (.thread s.cur) then s1.onMe (fun c => { c with st := c.st + 1 }) else s1).vdone 4)

/-- VST (R164, R165). -/
def execVst (r a : BitVec 5) (m : BitVec 3) (p : BitVec 1) (s : State) : Host.Outcome State Fault Refusal := finish do
  let i : Instr := .vst r a m p
  let ga := s.G a
  legal s i (s.me.memOk r m p)
  if regionOf ga == some .queue && p == 0 && m == 0 then portStore i r ga s
  else if p = 0 then vecStore i m (s.me.ew / 8) (unitAddr ga s.me.ew) (storeEl r (unitAddr ga s.me.ew)) s
  else vecStore i m 3 (groupAddr ga) (storeCode r ga) s

/-- VSTS (R164). -/
def execVsts (r a b : BitVec 5) (m : BitVec 3) (s : State) : Host.Outcome State Fault Refusal := finish do
  legal s (.vsts r a b m) (s.me.memOk r m 0)
  let at_ := strideAddr (s.G a) (s.G b)
  vecStore (.vsts r a b m) m (s.me.ew / 8) at_ (storeEl r at_) s

/-- VSTX (R164). -/
def execVstx (r a b : BitVec 5) (m : BitVec 3) (i : BitVec 2) (s : State) : Host.Outcome State Fault Refusal := finish do
  legal s (.vstx r a b m i) (s.me.memOk r m 0 && s.me.indexOk b i)
  let at_ := s.me.indexAddr (s.G a) b i
  vecStore (.vstx r a b m i) m (s.me.ew / 8) at_ (storeEl r at_) s

/-- One active element written into a region. -/
def bufStore (hd : Handle) (ga : Word) (p : BitVec 1) (r : BitVec 5) (m : BitVec 3) (s : State) (k : Nat) : Run State :=
  if s.me.active m k then
    let (o, n) := bufSpan ga.toNat s.me.ew p k
    let x := if p = 0 then s.me.el s.me.ew r.toNat k else s.me.codes r.toNat k
    .ok (s.onCore s.cur.core (fun c => c.putRegion hd o (leBytes n x)))
  else .ok s

/-- VSTB (R168). -/
def execVstb (r a h : BitVec 5) (m : BitVec 3) (p j : BitVec 1) (s : State) : Host.Outcome State Fault Refusal :=
  finish do
    notInTx s
    let i : Instr := .vstb r a h m p j
    legal s i (s.me.memOk r m p)
    let hd ← bufCheck s (s.G a) (bufHandle h j) p true
    vecMem i 4 s (bufStore hd (s.G a) p r m) id

/-! ### Mask loads and stores (R169) -/

/-- The elements to do of a mask access in whole bytes, each named by its first element. -/
def Ctx.maskBytes (c : Ctx) : List Nat :=
  let start := match c.resumed with
    | some (.vector _ _ e) => e.foldl Nat.min c.vl.toNat
    | _ => c.vstart.toNat
  (((List.range ((c.vl.toNat + 7) / 8)).drop (start / 8)).map (· * 8))

/-- The bytes one execution does, and those after: of a portion one chunk, of at least eight elements. -/
def Ctx.maskShare (c : Ctx) (parts : Bool) : List Nat × List Nat :=
  let l := c.maskBytes
  if parts then
    match l with
    | k :: _ => l.span (fun j => j / Nat.max 8 (256 / c.ew) == k / Nat.max 8 (256 / c.ew))
    | [] => ([], [])
  else (l, [])

/-- The elements from the first byte not complete to `vl` (R156, R169). -/
def Ctx.maskRest (c : Ctx) (rest : List Nat) : List Nat := (List.range c.vl.toNat).drop (rest.headD c.vl.toNat)

/-- A mask access: f performs one byte; so adds what a store's bytes do to poison, with the elements left. -/
def maskMem (i : Instr) (f : State → Nat → Run State) (so : State → List Nat → State) (s : State) : Run State :=
  let (now, rest) := s.me.maskShare s.inParts
  match vecRun f s now with
  | .stopped e r =>
    let left := s.me.maskRest (r ++ rest)
    .error (vecStop i s (match e with
      | .trap s1 q => .trap (so s1 left) q
      | .wait s1 => .wait (so s1 left)
      | e => e) left)
  | .all s1 =>
    let s2 := so s1 (if rest.isEmpty then [] else s.me.maskRest rest)
    if rest.isEmpty then .ok (s2.vdone 4) else .error (partStop i s2 (s.me.maskRest rest))

/-- VLDM (R169). -/
def execVldm (d a : BitVec 5) (s : State) : Host.Outcome State Fault Refusal := finish do
  let ga := s.G a
  legal s (.vldm d a) s.me.maskWrite
  maskMem (.vldm d a) (fun s k => do
    let (s1, x) ← vecRead s (ga + BitVec.ofNat 64 (k / 8)) 1
    .ok (s1.onMe (fun c =>
      c.setM (maskField d) (setBits (c.M (maskField d)) k (Nat.min 8 (c.vl.toNat - k)) x)))) (fun s1 _ => s1) s

/-- VSTM (R169). A mask register has 512 bits: the bytes above it, under a `vl` above 512, are not stated, and are free
values (DESIGN CHOICE, log 4). -/
def execVstm (r a : BitVec 5) (s : State) : Host.Outcome State Fault Refusal := finish do
  let ga := s.G a
  maskMem (.vstm r a) (fun s k => do
    if k < 512 then vecWrite s (ga + BitVec.ofNat 64 (k / 8)) 1 (((s.me.M (maskField r)).extractLsb' k 8).toNat)
    else if maskField r == 0 then vecWrite s (ga + BitVec.ofNat 64 (k / 8)) 1 255
    else vecWrite s.fresh.2 (ga + BitVec.ofNat 64 (k / 8)) 1 s.fresh.1.toNat)
    (fun s1 rest => s.storedSo s1 0 1 (fun k => ga + BitVec.ofNat 64 (k / 8)) rest) s

/-! ### Tensor tiles (R170 to R172) -/

/-- A tensor descriptor read as eight doublewords (R171). -/
def readDesc (s : State) (ga : Word) : Nat → Run (State × List Byte)
  | 0 => .ok (s, [])
  | n + 1 => do
    let (s1, x) ← vecRead s ga 8
    let (s2, bs) ← readDesc s1 (ga + 8) n
    .ok (s2, leBytes 8 x ++ bs)

/-- What a `vldt` needs of its operands: rows, columns per register, origins, sizes, strides and base. -/
structure TileShape where
  per  : Nat
  n1   : Nat
  n2   : Nat
  org  : List Int
  size : List Nat
  base : Word
  step : List Int
deriving DecidableEq, Repr

/-- The coordinates of group element i (R172). -/
def TileShape.coords (t : TileShape) (i : Nat) : List Int :=
  let r := i / t.per
  let o (k : Nat) : Int := t.org.getD k 0
  [o 0 + (i % t.per : Nat), o 1 + (r % t.n1 : Nat), o 2 + (r / t.n1 % t.n2 : Nat), o 3 + (r / (t.n1 * t.n2) : Nat)]

/-- The element is in range (R172). -/
def TileShape.inRange (t : TileShape) (i : Nat) : Bool :=
  ((t.coords i).zip t.size).all (fun p => decide (0 ≤ p.1) && decide (p.1 < p.2))

/-- The address of the element (R172). -/
def TileShape.addr (t : TileShape) (i : Nat) : Word :=
  t.base + BitVec.ofInt 64 (((t.coords i).zip t.step).map (fun p => p.1 * p.2)).sum

/-- The shape of a `vldt` from its descriptor and origins. -/
def tileShape (c : Ctx) (desc : List Byte) (gb ge : Word) (n2 n1 : BitVec 2) : TileShape where
  per := 4096 / c.ew
  n1 := 2 ^ n1.toNat
  n2 := 2 ^ n2.toNat
  org := [(gb.extractLsb' 0 32).toInt, (gb.extractLsb' 32 32).toInt, (ge.extractLsb' 0 32).toInt,
          (ge.extractLsb' 32 32).toInt]
  size := [numAt desc 8 4, numAt desc 0xC 4, numAt desc 0x10 4, numAt desc 0x14 4]
  base := BitVec.ofNat 64 (numAt desc 0 8)
  step := [(c.ew / 8 : Nat), (BitVec.ofNat 64 (numAt desc 0x18 8)).toInt, (BitVec.ofNat 64 (numAt desc 0x20 8)).toInt,
           (BitVec.ofNat 64 (numAt desc 0x28 8)).toInt]

/-- The columns that the tile's extent leaves (R172). -/
def TileShape.cols (t : TileShape) (vl : Nat) : Nat :=
  let l : Int := t.size.getD 0 0 - t.org.getD 0 0
  if 0 < l && l < vl then l.toNat else vl

/-- The group elements of the tile's columns, ascending. -/
def TileShape.elements (t : TileShape) (gf cols : Nat) : List Nat :=
  (List.range (gf * t.per)).filter (fun i => decide (i % t.per < cols))

/-- The counter of lane group g of a `vldt` says that the group is complete (R156): it is `vl`. With `vl` a whole row, `vl` is
itself an element of lane group 0, the first of the next row, and is taken to be the one not complete (DEDUCED, log 7). -/
def Ctx.laneDone (c : Ctx) (e : List Nat) (g : Nat) : Bool :=
  e.getD g 0 == c.vl.toNat && !(g == 0 && c.vl.toNat * c.ew == 4096)

/-- The group elements of a `vldt` not complete (R157, R172). -/
def Ctx.tileTodo (c : Ctx) (els : List Nat) : List Nat :=
  match c.resumed with
  | some (.vector _ _ e) =>
    els.filter (fun i => decide (e.getD (laneOf c.ew i) 0 ≤ i) && !(c.laneDone e (laneOf c.ew i)))
  | _ => els.filter (fun i => decide (c.vstart.toNat ≤ i))

/-- The group elements whose mask bits the completion writes: those from the element at which it was issued. -/
def Ctx.tileMasked (c : Ctx) (els : List Nat) : List Nat := els.filter (fun i => decide (c.start ≤ i))

/-- The completion of a `vldt`: mask, `vl` and fills (R153, R172). -/
def tileDone (t : TileShape) (d c : BitVec 5) (cols : Nat) (masked : List Nat) (k : Ctx) : Ctx :=
  let k1 := if c = 0 then k else masked.foldl (fun k i => k.setMaskBit (maskField c) i (t.inRange i)) k
  let k2 := (List.range k1.gf).foldl (fun k r => k.setFill (d.toNat + r) (cols * k.ew / 8)) k1
  { k2 with vl := BitVec.ofNat 13 cols }

/-- VLDT (R170 to R172). -/
def execVldt (d a b c e : BitVec 5) (n2 n1 : BitVec 2) (s : State) : Host.Outcome State Fault Refusal := finish do
  let i : Instr := .vldt d a b c e n2 n1
  let k := s.me
  let ga := s.G a
  legal s i (k.group d && decide (2 ^ n1.toNat * 2 ^ n2.toNat ≤ k.gf) && decide (k.vl.toNat ≤ 4096 / k.ew)
    && (c == 0 || k.maskWrite))
  if ga.toNat % 64 != 0 then trapNow s .misalign ga
  let (s1, desc) ← readDesc s ga 8
  if !(allZero (bytesAt desc 0x30 16)) then trapNow s .handle ga
  let t := tileShape k desc (s.G b) (s.G e) n2 n1
  let cols := t.cols k.vl.toNat
  let els := t.elements k.gf cols
  let (now, rest) := k.share s.inParts (k.tileTodo els)
  let f (s : State) (j : Nat) : Run State := if t.inRange j then loadEl d s (t.addr j) j else .ok (s.setElem d j 0)
  match vecRun f s1 now with
  | .stopped x r => .error (vecStop i s x (r ++ rest))
  | .all s2 =>
    if rest.isEmpty then .ok ((s2.onMe (tileDone t d c cols (k.tileMasked els))).vdone 8)
    else .error (partStop i s2 rest)

end Sys2Proof.Machine
end

