-- ==== Sys2Proof/Machine/Matrix.lean ====
section
/-! DEFINITION. The matrix array (R259 to R278): the planes and their owner, weight latches, swaps, rows that stream
past the planes, the sequencer, the expert ring, the arithmetic of a row step (R136 to R140), and the outer product on
the lanes. -/

namespace Sys2Proof.Machine

/-! ### The planes and their owner (R259 to R262) -/

/-- Work of the context that uses the planes is in flight: its matrix counter beyond its `mzero` instructions (R261). -/
def Ctx.planesBusy (c : Ctx) : Bool :=
  decide (c.mxJobs.countP (fun j => match j with | .zero _ _ l => l | _ => false) < c.mx)

/-- An empty plane with epoch none. -/
def Plane.bare : Plane := ⟨.none, .none⟩

/-- The wait of a context's instruction that uses the planes, while it waits at it. -/
def Ctx.planesWait (c : Ctx) : Option MxWait :=
  if c.run == .running && c.waiting then c.mxWait.filter (fun w => w.pc == c.pc) else none

/-- The other context of the moving thread's core. -/
def State.otherCtx (s : State) : Ctx := s.myCore.ctx (Cx.other s.cur.cx)

/-- The turn of the moving thread's instruction that comes to wait for the planes, or waits already: after that of the other
context's instruction that waits. -/
def State.planesTurn (s : State) : Nat :=
  match s.me.planesWait, s.otherCtx.planesWait with
  | some w, _ => w.turn
  | none, some w => w.turn + 1
  | none, none => 0

/-- A latch that the core's other context waits at was issued before the moving thread's instruction (R270; DEDUCED, log 39). -/
def State.latchBefore (s : State) : Bool :=
  match s.otherCtx.planesWait with
  | some w => w.latches && decide (w.turn < s.planesTurn)
  | none => false

/-- The outcome of an instruction that uses the planes: while it waits, it is running (R261); tag is the one that a receive
waits for. -/
def onPlanes (latches : Bool) (tag : Option (BitVec 8)) {α : Type} : Run α → Run α
  | .error (.wait s) => .error (.wait (s.onMe (fun c => { c with mxWait := some ⟨c.pc, latches, tag, s.planesTurn⟩ })))
  | r => r

/-- The issuing tenant becomes the owner of the planes, which empties them, once nothing of the owning tenant that
uses them is in flight or running (R261). -/
def takePlanes (s : State) : Run State :=
  let k := s.myCore
  let o := s.otherCtx
  if k.owner == some s.me.tenant then .ok s
  else if k.owner.isSome && (k.ctxN.planesBusy || k.ctxU.planesBusy
      || (o.planesWait.isSome && k.owner == some o.tenant)) then waitNow s
  else .ok (s.onCore s.cur.core (fun k =>
    { k with owner := some s.me.tenant, front := Plane.bare, shadow := Plane.bare }))

/-- The plane that a row with the tag meets (R262). -/
def Core.planeOf (k : Core) (tag : BitVec 16) : Option Plane :=
  if k.front.epoch = some tag then some k.front
  else if k.shadow.epoch = some tag then some k.shadow else none

/-- The job is a row with the tag. -/
def MxJob.hasTag (j : MxJob) (tag : BitVec 16) : Bool :=
  match j with
  | .row _ _ _ _ _ t _ => t == tag
  | .zero .. => false

/-- The tag of the rows that a running `mmab` has still to send (R262): not of one that a trap has stopped and that is still to
be re-entered. -/
def Ctx.rowsTag (c : Ctx) : Option (BitVec 16) :=
  match c.resumed with
  | some (.matrix p _ t _) => if p == .given then none else some t
  | _ => none

/-- The context has rows with the tag issued and not performed, those of a running `mmab` still to be sent among them. -/
def Ctx.hasRows (c : Ctx) (tag : BitVec 16) : Bool := c.mxJobs.any (fun j => j.hasTag tag) || c.rowsTag == some tag

/-- An issued row carries the shadow plane's epoch, so that a latch waits (R262). -/
def Core.shadowBusy (k : Core) : Bool :=
  match k.shadow.epoch with
  | some e => k.ctxN.hasRows e || k.ctxU.hasRows e
  | none => false

/-- The tile latched into the shadow plane; a latch sets its epoch to none (R262). -/
def Core.latch (k : Core) (w : Weights) : Core := { k with shadow := ⟨some w, none⟩ }

/-! ### Weight tiles (R260) -/

/-- The row size of a tile format. -/
def tileRow (f : BitVec 5) : Nat := if f = 9 then 48 else if f = 0xA then 128 else 64

/-- The largest weight count of a tile format. -/
def tileMax (f : BitVec 5) : Nat := if f = 0xA then 256 else 512

/-- Code k of an L6P stream of bytes (R134). -/
def packedCode (bs : List Byte) (k : Nat) : Nat := numAt bs (3 * (k / 4)) 3 / 2 ^ (6 * (k % 4)) % 64

/-- Position k of a row of bytes in a tile or stream format (R260, R274). -/
def rowEntry (f : Nat) (bs : List Byte) (k : Nat) : Nat :=
  if f = 9 then packedCode bs k else if f = 0xA then numAt bs (2 * k) 2 else numAt bs k 1

/-- The weights that a tile of K rows holds; L6P is latched as L6. -/
def tileOf (f : BitVec 5) (kw : Nat) (bs : List Byte) : Weights where
  fmt := if f = 9 then 8 else f.extractLsb' 0 4
  kw := kw
  rows := (cut (tileRow f) (bs.drop 64) kw).map (fun r => (List.range 64).map (rowEntry f.toNat r))
  ws := bs.take 64

/-- The checks of a weight tile in the W buffer (R267): MISALIGN, then HANDLE. -/
def tileCheck (s : State) (f : BitVec 5) (off kw : Word) (h : BitVec 6) : Run Handle := do
  if off.toNat % 64 != 0 then trapNow s .misalign off
  let hd := s.handle s.cur h
  if !(hd.names s.me.tenant && hd.buf == some .w && decide (1 ≤ kw.toNat) && decide (kw.toNat ≤ tileMax f)
      && decide (off.toNat + 64 + kw.toNat * tileRow f ≤ hd.size)) then
    trapNow s .handle (h.zeroExtend 64)
  .ok hd

/-- The handle-state step of a read (R168): the vldb column, or the vldb.c column with its pip taken. -/
def readStep (s : State) (h : BitVec 6) (consuming : Bool) : Run State := do
  let hd := s.handle s.cur h
  if consuming then
    consumable s h hd
    .ok (s.onHandle s.cur h Handle.pull)
  else if hd.st == .free then trapNow s .handle (h.zeroExtend 64)
  else .ok s

/-- The reads of the instruction are done. -/
def State.readsDone (s : State) (h : BitVec 6) (consuming : Bool) : State :=
  if consuming then s.onHandle s.cur h Handle.readDone else s

/-- Reads a weight tile once the waits are over: the handle-state step, then the read. A read that meets poison takes
no weights: the shadow plane is left empty where the tile was to be latched, and the trap is not resumable (R267). -/
def readTile (s : State) (f : BitVec 5) (off kw : Word) (h : BitVec 6) (consuming latched : Bool) :
    Run (State × Weights) := do
  let s1 ← readStep s h consuming
  let hd := s1.handle s1.cur h
  let n := 64 + kw.toNat * tileRow f
  let s2 := s1.readsDone h consuming
  match s2.myCore.firstBad hd off.toNat n with
  | some o =>
    let s3 := if latched then s2.onCore s2.cur.core (fun k => { k with shadow := Plane.bare }) else s2
    trapRes s3 .poison (BitVec.ofNat 64 o) false
  | none => .ok (s2, tileOf f kw.toNat (s2.myCore.regionBytes hd off.toNat n))

/-- A latch waits while the handle is FILLING or issued rows carry the shadow's epoch. -/
def latchWait (s : State) (h : BitVec 6) (latched : Bool) : Run Unit :=
  if (s.handle s.cur h).st == .filling || (latched && s.myCore.shadowBusy) then waitNow s else .ok ()

/-- A tile latched by the moving thread. -/
def State.latch (s : State) (w : Weights) : State := s.onCore s.cur.core (fun k => k.latch w)

/-- An instruction that would raise the matrix counter above 65,535 waits at issue (R334). -/
def mxRoom (s : State) : Run Unit := if 65535 ≤ s.me.mx then waitNow s else .ok ()

/-- Both forms of `lds` (R267). -/
def ldsBy (f a b : BitVec 5) (h : BitVec 6) (consuming : Bool) (s : State) : Run State := onPlanes true none do
  notInTx s
  let _ ← tileCheck s f (s.G a) (s.G b) h
  mxRoom s
  let s1 ← takePlanes s
  latchWait s1 h true
  let (s2, w) ← readTile s1 f (s.G a) (s.G b) h consuming true
  .ok ((s2.latch w).advance 4)

/-- LDS (R267). -/
def execLds (f a b : BitVec 5) (h : BitVec 6) (s : State) : Host.Outcome State Fault Refusal :=
  finish (ldsBy f a b h false s)

/-- LDS_C (R267). -/
def execLdsC (f a b : BitVec 5) (h : BitVec 6) (s : State) : Host.Outcome State Fault Refusal :=
  finish (ldsBy f a b h true s)

/-- A job that carried one tag carries another. -/
def MxJob.retag (j : MxJob) (old : Option (BitVec 16)) (new : BitVec 16) : MxJob :=
  match j with
  | .row h o a f sa t l => .row h o a f sa (if some t = old then new else t) l
  | .zero h o l => .zero h o l

/-- A context whose issued rows with one tag carry another, those of a running `mmab` still to be sent among them. -/
def Ctx.retag (c : Ctx) (old : Option (BitVec 16)) (new : BitVec 16) : Ctx :=
  { c with
    mxJobs := c.mxJobs.map (fun j => j.retag old new)
    resumed := match c.resumed with
      | some (.matrix p n t pip) => some (.matrix p n (if p != .given && some t == old then new else t) pip)
      | r => r }

/-- The planes exchanged (R262). Rows already issued that meet the new front plane go on meeting it. -/
def Core.swap (k : Core) : Core :=
  let g := k.gen + 1
  let re (c : Ctx) : Ctx := c.retag k.shadow.epoch g
  { k with gen := g, front := { k.shadow with epoch := some g }, shadow := k.front, ctxN := re k.ctxN, ctxU := re k.ctxU }

/-- PSWAP (R270): a latch that the core's other context waits at and issued earlier comes first (DEDUCED, log 39). -/
def execPswap (d : BitVec 5) (s : State) : Host.Outcome State Fault Refusal := finish <| onPlanes false none do
  notInTx s
  let s1 ← takePlanes s
  if s1.latchBefore then waitNow s1
  let s2 := s1.onCore s1.cur.core Core.swap
  .ok ((s2.setG d (s2.myCore.gen.zeroExtend 64)).advance 4)

/-! ### Rows issued to the array (R266, R271 to R276) -/

/-- row0 of a row word. -/
def row0Of (x : Word) : Nat := (x.extractLsb' 0 32).toNat

/-- σa of a row word. -/
def sigmaOf (x : Word) : BitVec 8 := x.extractLsb' 32 8

/-- The handle names a C-buffer region that holds n C rows from row0 (R273). -/
def rowCheck (s : State) (h : BitVec 6) (row0 n : Nat) : Run Handle :=
  let hd := s.handle s.cur h
  if hd.names s.me.tenant && hd.buf == some .c && (n == 0 || decide (256 * (row0 + n) ≤ hd.size)) then .ok hd
  else trapNow s .handle (h.zeroExtend 64)

/-- The offset of a C row in the C buffer. -/
def Handle.rowAt (h : Handle) (j : Nat) : Nat := h.off + 256 * j

/-- A matrix instruction waits while its C handle is FILLING or DRAINING (R273). -/
def rowWait (s : State) (h : BitVec 6) : Run Unit :=
  let st := (s.handle s.cur h).st
  if st == .filling || st == .draining then waitNow s else .ok ()

/-- The 64-bit word of an FMTMIS trap (R272). -/
def fmtWord (p : Option Plane) (code : Nat) : Word :=
  let pf := match p.bind Plane.weights with | some w => w.fmt.toNat | none => 0xF
  BitVec.ofNat 64 ((if p.isSome then 1 else 2) * 2 ^ 12 + pf * 2 ^ 8 + code)

/-- The plane holds weights that a stream of the format meets (R271). -/
def Plane.meets (p : Plane) (code : Nat) : Bool :=
  match p.weights with
  | some w => w.fmt.toNat == (if code = 9 then 8 else code)
  | none => false

/-- The FMTMIS check of rows with a tag (R272); prog is the progress record of a resumed `mmab`, if any. -/
def fmtCheck (s : State) (tag : BitVec 16) (code : Nat) (prog : Option (List Byte)) : Run Unit :=
  let p := s.myCore.planeOf tag
  if (p.map (fun p => p.meets code)).getD false then .ok ()
  else
    let q := trapT s .fmtmis (fmtWord p code)
    match prog with
    | some r => .error (.trap s { q with kind := 3, prog := r })
    | none => .error (.trap s q)

/-- The moving thread issues matrix jobs of one instruction: its matrix counter is one higher until the last is
performed (R273). -/
def State.pushJobs (s : State) (js : List MxJob) : State :=
  if js.isEmpty then s else s.onMe (fun c => { c with mxJobs := c.mxJobs ++ js, mx := c.mx + 1 })

/-- Both ends of a list of n things: whether thing i is the last. -/
def isLast (n i : Nat) : Bool := i + 1 == n

/-- An `mmav` of a stream format (R273). -/
def mmav (i : Instr) (fmt : BitVec 4) (a b : BitVec 5) (h : BitVec 6) (s : State) : Run State := onPlanes false none do
  notInTx s
  let c := s.me
  legal s i (c.ew == (if fmt = 0xA then 16 else 8) && c.group b && decide (c.vl.toNat ≤ 4096 / c.ew))
  let rw := s.G a
  let hd ← rowCheck s h (row0Of rw) c.gf
  mxRoom s
  rowWait s h
  let s1 ← takePlanes s
  let tag := s1.myCore.gen
  fmtCheck s1 tag fmt.toNat none
  let row (r : Nat) : MxJob :=
    .row [h] (hd.rowAt (row0Of rw + r)) ((List.range c.vl.toNat).map (fun k => some (c.el c.ew (b.toNat + r) k))) fmt
      (sigmaOf rw) tag (isLast c.gf r)
  .ok ((s1.pushJobs ((List.range c.gf).map row)).advance 4)

/-- MMAV_L6 (R273). -/
def execMmavL6 (a b : BitVec 5) (h : BitVec 6) (s : State) : Host.Outcome State Fault Refusal :=
  finish (mmav (.mmavL6 a b h) 8 a b h s)

/-- MMAV_I8 (R273). -/
def execMmavI8 (a b : BitVec 5) (h : BitVec 6) (s : State) : Host.Outcome State Fault Refusal :=
  finish (mmav (.mmavI8 a b h) 0 a b h s)

/-- MMAV_BF16 (R273). -/
def execMmavBf16 (a b : BitVec 5) (h : BitVec 6) (s : State) : Host.Outcome State Fault Refusal :=
  finish (mmav (.mmavBf16 a b h) 0xA a b h s)

/-- MZERO (R276). -/
def execMzero (a b : BitVec 5) (h : BitVec 6) (s : State) : Host.Outcome State Fault Refusal := finish do
  notInTx s
  let n := (s.G b).toNat
  let j := row0Of (s.G a)
  let hd ← rowCheck s h j n
  if n != 0 then mxRoom s
  rowWait s h
  .ok ((s.pushJobs ((List.range n).map (fun r => .zero [h] (hd.rowAt (j + r)) (isLast n r)))).advance 4)

/-! ### The sequencer (R274, R275) -/

/-- The stream code of an FS field. -/
def streamCode (fs : BitVec 2) : Nat :=
  match fs.toNat with
  | 0 => 8
  | 1 => 9
  | 2 => 0
  | _ => 0xA

/-- The bytes of an activation row of k positions. -/
def streamBytes (code k : Nat) : Nat := if code = 9 then 3 * ((k + 3) / 4) else if code = 0xA then 2 * k else k

/-- The kind 3 record of an `mmab` (R350). -/
def matrixRecord (i : Instr) (step : Nat) (tag : BitVec 16) (pip : Bool) : List Byte :=
  padTo 64 (padTo 16 (leBytes 4 step ++ leBytes 2 tag.toNat ++ leBytes 1 (if pip then 1 else 0)) ++
    match encode i with
    | some w => leBytes 4 w.first.toNat ++ leBytes 4 w.second.toNat
    | none => [])

/-- The operands of an `mmab` (R274). -/
structure Stream where
  code   : Nat
  base   : Nat
  stride : Nat
  kact   : Nat
  rows   : Nat
  row0   : Nat
  sigma  : BitVec 8
deriving DecidableEq, Repr

/-- The operands from the registers' values. -/
def streamOf (fs : BitVec 2) (gd ga gb ge : Word) : Stream where
  code := streamCode fs
  base := gd.toNat
  stride := (ge.extractLsb' 32 16).toNat
  kact := (ge.extractLsb' 0 10).toNat
  rows := gb.toNat
  row0 := row0Of ga
  sigma := sigmaOf ga

/-- The checks of the A handle: its region, the limit of Kact, and every row inside the region. -/
def Stream.fits (x : Stream) (hd : Handle) (ten : BitVec 5) : Bool :=
  let rb := streamBytes x.code x.kact
  hd.names ten && hd.buf == some .a && decide (x.kact ≤ (if x.code = 0xA then 256 else 512))
    && (x.rows == 0 || rb == 0 || decide (x.base + (x.rows - 1) * x.stride + rb ≤ hd.size))

/-- The rows of one portion, from step: all that remain, or up to the next multiple of eight when the sequencer is to stop
there (R275). -/
def Stream.upTo (x : Stream) (step : Nat) (parts : Bool) : Nat :=
  if parts then Nat.min x.rows ((step / 8 + 1) * 8) else x.rows

/-- The first row of a range that holds a poisoned byte, with the byte's offset. -/
def Stream.firstPoison (x : Stream) (k : Core) (hd : Handle) (step n : Nat) : Option (Nat × Nat) :=
  if (k.bad .a).isEmpty then none
  else (List.range' step n).findSome? (fun r =>
    (k.firstBad hd (x.base + r * x.stride) (streamBytes x.code x.kact)).map (fun o => (r, o)))

/-- The job of row r. -/
def Stream.job (x : Stream) (k : Core) (ha : Handle) (hs : List (BitVec 6)) (hc : Handle) (active : Nat → Bool) (tag : BitVec 16)
    (last : Bool) (r : Nat) : MxJob :=
  let bs := k.regionBytes ha (x.base + r * x.stride) (streamBytes x.code x.kact)
  .row hs (hc.rowAt (x.row0 + r))
    ((List.range x.kact).map (fun p => if active p then some (rowEntry x.code bs p) else none))
    (if x.code = 9 then 8 else BitVec.ofNat 4 x.code) x.sigma tag last

/-- The jobs of rows lo to hi - 1. -/
def Stream.jobs (x : Stream) (k : Core) (ha : Handle) (hs : List (BitVec 6)) (hc : Handle) (active : Nat → Bool) (tag : BitVec 16)
    (lo hi : Nat) : List MxJob :=
  (List.range' lo (hi - lo)).map (fun r => x.job k ha hs hc active tag (r + 1 == hi) r)

/-- The job is not the last of its instruction after all. -/
def MxJob.goesOn (j : MxJob) : MxJob :=
  match j with
  | .row h o a f sa t _ => .row h o a f sa t false
  | .zero h o _ => .zero h o false

/-- More rows of the instruction whose earlier rows are the newest jobs: it goes on counting once. -/
def State.pushMore (s : State) (js : List MxJob) : State :=
  if s.me.mxJobs.isEmpty || js.isEmpty then s.pushJobs js
  else s.onMe (fun c => { c with mxJobs := c.mxJobs.dropLast ++ (c.mxJobs.getLast?.map MxJob.goesOn).toList ++ js })

/-- How an `mmab` stands: the step and tag, whether its pip is taken, and where it stands; at issue, step 0 with the current
generation. -/
def State.matrixAt (s : State) : Nat × BitVec 16 × Bool × Option Standing :=
  match s.me.resumed with
  | some (.matrix p k t pip) => (k, t, pip, some p)
  | _ => (0, s.myCore.gen, false, none)

/-- The context of an `mmab` that stands at a step. -/
def Ctx.rowsAt (c : Ctx) (p : Standing) (step : Nat) (tag : BitVec 16) (pip : Bool) : Ctx :=
  { c with resumed := some (.matrix p step tag pip) }

/-- What an `mmab` meets before its next rows: where it waits between two portions of its rows, it stands as waiting. -/
def rowsHeld {α : Type} : Run α → Run α
  | .error (.wait s) => .error (.wait (s.onMe (fun c =>
      match c.resumed with
      | some (.matrix .paused k tag pip) => c.rowsAt .waits k tag pip
      | _ => c)))
  | r => r

/-- MMAB (R274, R275). Before a POISON or a STEP, the rows below its step have been performed (R274, R364): until then the
instruction waits with that stop ahead. The STEP of the eight rows below its step comes before what the next ones meet. -/
def execMmab (d a b c e : BitVec 5) (con : BitVec 1) (fs : BitVec 2) (ha hc : BitVec 6) (s : State) :
    Host.Outcome State Fault Refusal := finish <| onPlanes false none do
  notInTx s
  let i : Instr := .mmab d a b c e con fs ha hc
  let me := s.me
  let m := maskField c
  legal s i (me.maskOk m)
  let x := streamOf fs (s.G d) (s.G a) (s.G b) (s.G e)
  if x.code == 0xA && (x.base % 2 == 1 || x.stride % 2 == 1) then trapNow s .misalign (s.G d)
  if !(x.fits (s.handle s.cur ha) me.tenant) then trapNow s .handle (ha.zeroExtend 64)
  let hdC ← rowCheck s hc x.row0 x.rows
  if x.rows == 0 then .ok (s.advance 8)
  else
    let s1 ← rowsHeld do
      if me.mxJobs.isEmpty || me.resumed.isNone then mxRoom s
      let s1 ← takePlanes s
      if (s1.handle s1.cur ha).st == .filling then waitNow s1
      rowWait s1 hc
      .ok s1
    let (step, tag, pip, at_) := s1.matrixAt
    if step < x.rows && (at_.isNone || at_ == some .given) then
      fmtCheck s1 tag x.code (at_.map (fun _ => matrixRecord i step tag pip))
    let s2 ← if pip || at_ == some .paused || at_ == some .waits || at_ == some .inside then .ok s1 else readStep s1 ha (con == 1)
    let took := con == 1
    let hdA := s2.handle s2.cur ha
    let stop (c : Cause) (tval : Word) : Run State :=
      let s3 := s2.onMe (fun c => { c with resumed := none })
      .error (.trap s3 { trapT s3 c tval with kind := 3, prog := matrixRecord i step tag took })
    let stand (p : Standing) (s : State) (n : Nat) : Run State := waitNow (s.onMe (fun c => c.rowsAt p n tag took))
    let push (js : List MxJob) : State :=
      if at_ == some .paused || at_ == some .waits || at_ == some .inside then s2.pushMore js else s2.pushJobs js
    if at_ == some .inside && !s2.me.mxJobs.isEmpty then waitNow s2
    let hi := x.upTo step s2.inParts
    if at_ == some .inside && me.estep && step % 8 == 0 then stop .step 0
    else
      match x.firstPoison s2.myCore hdA step (hi - step) with
      | some (r, o) =>
        if r != step then stand .inside (push (x.jobs s2.myCore hdA [ha, hc] hdC (me.active m) tag step r)) r
        else if s2.me.mxJobs.isEmpty then stop .poison (BitVec.ofNat 64 o)
        else stand .waits s2 step
      | none =>
        let s3 := push (x.jobs s2.myCore hdA [ha, hc] hdC (me.active m) tag step hi)
        if hi < x.rows then stand (if me.estep then .inside else .paused) s3 hi
        else .ok (((s3.onMe (fun c => { c with resumed := none })).readsDone ha took).advance 8)

/-! ### The expert ring (R268, R269) -/

/-- The routing mask selects expert x; m0 selects every expert (R269). -/
def Ctx.routes (c : Ctx) (m : BitVec 3) (x : BitVec 9) : Bool := c.active m x.toNat

/-- LDSL, the source form (R269). -/
def execLdsl (d a b c e f : BitVec 5) (tag : BitVec 8) (con : BitVec 1) (h : BitVec 6) (s : State) :
    Host.Outcome State Fault Refusal := finish <| onPlanes true none do
  notInTx s
  let _ ← tileCheck s f (s.G a) (s.G b) h
  mxRoom s
  let x : BitVec 9 := (s.G e).extractLsb' 0 9
  let hit := s.me.routes (maskField c) x
  let s1 ← takePlanes s
  latchWait s1 h hit
  let (s2, w) ← readTile s1 f (s.G a) (s.G b) h (con == 1) hit
  let s3 := if hit then s2.latch w else s2
  let t : RingTile := ⟨w, x, tag, s.cur.cx, s.me.tenant, s.cur.core, true⟩
  let s4 := (s3.onCore s.cur.core (fun k => { k with ringOut := k.ringOut ++ [t] })).onMe
    (fun c => { c with mx := c.mx + 1 })
  .ok ((s4.setG d (boolWord hit)).advance 8)

/-- The oldest ring tile leaves the core's ring stop for the next core; the next one stands at the head from now on. -/
def Core.passTile (k : Core) (clock : Word) : Core :=
  match k.ring with
  | [] => k
  | (t, _) :: r =>
    { k with
      ringOut := k.ringOut ++ [t]
      ring := match r with
        | [] => []
        | (u, _) :: r' => (u, clock.toNat) :: r' }

/-- LDSL_R, the receive form (R269). -/
def execLdslR (d c : BitVec 5) (tag : BitVec 8) (s : State) : Host.Outcome State Fault Refusal := finish do
  notInTx s
  match s.myCore.ring with
  | [] => onPlanes true (some tag) (waitNow s)
  | (t, _) :: _ =>
    if !(t.tag == tag && t.cx == s.cur.cx && t.tenant == s.me.tenant) then onPlanes true (some tag) (waitNow s)
    let hit := s.me.routes (maskField c) t.x
    let s1 ← if hit then onPlanes true (some tag) (takePlanes s) else .ok s
    if hit && s1.myCore.shadowBusy then onPlanes true (some tag) (waitNow s1)
    let s2 := if hit then s1.latch t.tile else s1
    .ok (((s2.onCore s.cur.core (fun k => k.passTile s.clock)).setG d (boolWord hit)).advance 8)

/-- The core before a core on its die's ring. -/
def ringPred (c : BitVec 6) : BitVec 6 := dieOf c ++ (c.extractLsb' 0 4 - 1)

/-- RING_TILE_ARRIVAL (R269): the oldest tile that has left the core before arrives at this core's ring stop while it
holds fewer than two, or is dropped at its source, where its `ldsl` is then complete. -/
def execRingTileArrival (core : BitVec 6) (s : State) : Host.Outcome State Fault Refusal :=
  let p := ringPred core
  match (s.core p).ringOut with
  | [] => .next s
  | t :: r =>
    let left := s.onCore p (fun k => { k with ringOut := r })
    if t.src == core then .next (if t.counts then left.onCtx ⟨core, t.cx⟩ (fun c => { c with mx := c.mx - 1 }) else left)
    else if (s.core core).ring.length < 2 then
      .next (left.onCore core (fun k => { k with ring := k.ring ++ [(t, s.clock.toNat)] }))
    else .next s

/-- A ring tile without a claim on the counter of thread u. -/
def RingTile.disown (t : RingTile) (u : Tid) : RingTile :=
  if t.src == u.core && t.cx == u.cx then { t with counts := false } else t

/-- The source `ldsl` instructions of a thread stop counting (R360): their ring tiles travel on. -/
def State.disownTiles (s : State) (u : Tid) : State :=
  let mine (t : RingTile) : Bool := t.counts && t.src == u.core && t.cx == u.cx
  let n := (s.cores.toList.map (fun (k : Core) => k.ringOut.countP mine + k.ring.countP (fun p => mine p.1))).sum
  if n = 0 then s
  else
    let s1 := { s with cores := s.cores.map (fun (k : Core) =>
      { k with ringOut := k.ringOut.map (fun (t : RingTile) => t.disown u), ring := k.ring.map (fun (p : RingTile × Nat) => (p.1.disown u, p.2)) }) }
    s1.onCtx u (fun c => { c with mx := c.mx - n })

/-- A receive that matches the tile has come, and waits (R269). -/
def Core.received (k : Core) (t : RingTile) : Bool :=
  (k.ctx t.cx).tenant == t.tenant && ((k.ctx t.cx).planesWait.bind MxWait.tag) == some t.tag

/-- RING_TIMEOUT (R269): a tile that has stood at the head for 100,000 ticks, with no matching receive come, moves on, with a
RING notice (R352). The ticks count from when it reaches the head (DEDUCED, log 40). -/
def execRingTimeout (core : BitVec 6) (s : State) : Host.Outcome State Fault Refusal :=
  match (s.core core).ring with
  | [] => .next s
  | (t, at_) :: _ =>
    if (s.core core).received t then .next s
    else if (s.noticeWaits t.src).isSome then .next s
    else if at_ + 100000 ≤ s.clock.toNat then
      .next ((s.onCore core (fun k => k.passTile s.clock)).notify t.src
        ⟨9, t.cx == .u, t.src.toNat, t.tenant, t.tag.zeroExtend 64, t.x.zeroExtend 64, t.src.zeroExtend 64, []⟩)
    else .next s

/-! ### The arithmetic of a row step (R136 to R140, R271) -/

/-- An L6 product in units of 2^−24 (R136). -/
def l6Product (a w : Nat) : Int :=
  match l6Of a, l6Of w with
  | .val s j, .val t k =>
    let (m, e) := quarter (j + k)
    signedInt (s != t) (m * 2 ^ (e + 24).toNat)
  | _, _ => 0

/-- A code is NaR. -/
def isNar (x : Nat) : Bool := match l6Of x with | .nar => true | _ => false

/-- The C entry after a scaled exact sum S × 2^u × Q(t) is added (R138). -/
def addScaled (c : Nat) (sum u t : Int) : Nat :=
  let (m, e) := quarter t
  let term : Fpv := if sum = 0 then .zero false else .fin (decide (sum < 0)) (sum.natAbs * m) (e + u)
  (fp32.addV 0 (fp32.value c) term).1

/-- An exact BF16 product (R139, R140). -/
def bf16Product (a w : Nat) : Fpv :=
  let x := bf16.value a
  let y := bf16.value w
  if x.isNan || y.isNan then .nan false
  else
    let (p, bad) := mulV x y
    if bad then .nan false else p

/-- A node of the BF16 tree: two children are added and rounded once, one passes unchanged (R139). -/
def sumNode : Option Fpv → Option Fpv → Option Fpv
  | none, y => y
  | x, none => x
  | some x, some y => some (fp32.value (fp32.addV 0 x y).1)

/-- One level of the BF16 tree. -/
def sumLevel : List (Option Fpv) → List (Option Fpv)
  | x :: y :: l => sumNode x y :: sumLevel l
  | l => l

/-- The root of the BF16 tree; n bounds its levels. -/
def sumTree (l : List (Option Fpv)) : Nat → Option Fpv
  | 0 => l.headD none
  | n + 1 => if l.length ≤ 1 then l.headD none else sumTree (sumLevel l) n

/-- The C entry of one column after a row step: pairs holds the activation and the weight of each active position, in
position order, and none for an inactive one (R137 to R140). -/
def columnStep (fmt : BitVec 4) (t : Int) (pairs : List (Option (Nat × Nat))) (c : Nat) : Nat :=
  let on := pairs.filterMap id
  if on.isEmpty then c
  else if fmt = 8 then
    if on.any (fun p => isNar p.1 || isNar p.2) then fp32.nan
    else addScaled c (on.map (fun p => l6Product p.1 p.2)).sum (-24) t
  else if fmt = 0 then
    addScaled c (on.map (fun p => intOf true 8 p.1 * intOf true 8 p.2)).sum 0 t
  else
    match sumTree (pairs.map (fun o => o.map (fun p => bf16Product p.1 p.2))) 10 with
    | some x => (fp32.addV 0 (fp32.value c) x).1
    | none => c

/-- The active positions of a row against column n of the weights: those below Kact and Kw, and unmasked (R271). -/
def Weights.pairs (w : Weights) (acts : List (Option Nat)) (n : Nat) : List (Option (Nat × Nat)) :=
  List.zipWith (fun a r => a.map (fun x => (x, r.getD n 0))) acts w.rows

/-- The 256 bytes of a C row after a row step. -/
def Weights.rowStep (w : Weights) (acts : List (Option Nat)) (sa : BitVec 8) (old : List Byte) : List Byte :=
  (List.range 64).flatMap (fun n =>
    leBytes 4 (columnStep w.fmt ((w.ws.getD n 0).toInt + sa.toInt) (w.pairs acts n) (numAt old (4 * n) 4)))

/-- A core after one job: a row step against the plane that carries its tag, or a C row of zeros. -/
def Core.perform (k : Core) (j : MxJob) : Core :=
  match j with
  | .zero _ off _ => k.putBuf .c off (List.replicate 256 0)
  | .row _ off acts _ sa tag _ =>
    match (k.planeOf tag).bind Plane.weights with
    | some w => k.putBuf .c off (w.rowStep acts sa (k.bufBytes .c off 256))
    | none => k

/-- The job is the last of its instruction. -/
def MxJob.isLast (j : MxJob) : Bool :=
  match j with
  | .row _ _ _ _ _ _ l => l
  | .zero _ _ l => l

/-- A job is a row step. -/
def MxJob.isRow (j : MxJob) : Bool :=
  match j with
  | .row .. => true
  | .zero .. => false

/-- ROW_STEP (R271): the oldest matrix work of a context is performed. A row step of context N gives way to one of
context U (R263). -/
def execRowStep (core : BitVec 6) (cx : Cx) (s : State) : Host.Outcome State Fault Refusal :=
  let t : Tid := ⟨core, cx⟩
  match (s.ctx t).mxJobs with
  | [] => .next s
  | j :: js =>
    let uFirst := cx == .n && j.isRow && ((s.core core).ctxU.mxJobs.head?.map MxJob.isRow).getD false
    if uFirst then .next s
    else
      .next ((s.onCore core (fun k => k.perform j)).onCtx t (fun c =>
        { c with mxJobs := js, mx := if j.isLast then c.mx - 1 else c.mx }))

/-! ### The outer product on the lanes (R278) -/

/-- VOUTER (R278): class O. -/
def execVouter (d a b : BitVec 5) (s : State) : Host.Outcome State Fault Refusal := finish do
  notInTx s
  let i : Instr := .vouter d a b
  let c := s.me
  let apart (r : BitVec 5) : Bool := decide (r.toNat < d.toNat) || decide (d.toNat + c.gf ≤ r.toNat)
  legal s i ((c.ew == 16 || c.ew == 32) && c.group d && apart a && apart b && decide (c.vl.toNat ≤ 4096 / c.ew)
    && decide (c.gf ≤ 4096 / c.ew))
  let col (i : Nat) (c : Ctx) (j : Nat) : Ctx :=
    let (x, fl) := c.fmt.fma c.rm (c.el c.ew a.toNat i) (c.el c.ew b.toNat j) (c.el c.ew (d.toNat + j) i)
    (c.setEl c.ew (d.toNat + j) i x).raiseFlags fl
  vecPure i s (fun c k => (List.range c.gf).foldl (col k) c)
    (fun c => (List.range c.gf).foldl (fun c j => c.setFill (d.toNat + j) (c.vl.toNat * c.ew / 8)) c)

end Sys2Proof.Machine
end

