-- ==== Sys2Proof/Machine/Async.lean ====
section
/-! DEFINITION. What a thread meets at an instruction boundary before its next instruction (R347, R359, R360, R364): a
trap that waits, recorded work to go on with, a fabric stop, declined copies in issue order, a PREEMPT, and the end of a
step of element-step mode; and the waits of R235 and R237 behind a running invocation. -/

namespace Sys2Proof.Machine

/-! ### Asynchronous traps (R347) -/

/-- The boundary at which a thread stands (R347): a `wfi` that a trap ends is behind it (R125). -/
def Ctx.boundary (c : Ctx) : Word := if c.wfi.isSome then c.pc + 4 else c.pc

/-- The trap of a fabric stop (R243). -/
def Ctx.stopTrap (c : Ctx) (q : FabStop) : Trap :=
  ⟨q.cause, q.tval, q.tpc, c.boundary, q.res, true, 2, q.prog, q.aux⟩

/-- The trap of a declined copy (R309). -/
def Ctx.declineTrap (c : Ctx) (d : Declined) : Trap :=
  ⟨d.cause, d.addr, d.xfer.tpc, c.boundary, true, true, 4, d.xfer.record 0, []⟩

/-- An asynchronous trap of a thread: an open transaction aborts first, the trap still pending (R343). -/
def State.raiseAsync (s : State) (t : Tid) (q : Trap) (clear : Ctx → Ctx) : State :=
  if (s.txOf t).isSome then s.abortTx t 4 q.cause else (s.onCtx t clear).takeTrap t q

/-! ### PREEMPT (R359, R360) -/

/-- The words of the instruction at a thread's PC; zeros where they cannot be fetched. -/
def State.wordsAt (s : State) (t : Tid) : List Byte :=
  match s.fetchWords t (s.ctx t).pc with
  | .ok (w, w2) => leBytes 4 w.toNat ++ leBytes 4 w2.toNat
  | .error _ => []

/-- The instruction at a thread's PC, where it can be fetched and decoded. -/
def State.atPc (s : State) (t : Tid) : Option Instr :=
  match s.fetchWords t (s.ctx t).pc with
  | .ok (w, w2) => (decode w w2).toOption
  | .error _ => none

/-- The counters of a record for a frame: `vl` for a lane group that is complete (R156). -/
def Ctx.recordCounters (c : Ctx) (e : List Nat) : List Nat := e.map (fun k => if k == 8192 then c.vl.toNat else k)

/-- The PREEMPT trap of a thread with nothing left to wait for: an instruction that stands at a progress record of its own,
or recorded work that waits, keeps it; an invocation that was cut for it is recorded; otherwise there is nothing to resume
(R345, R359, R360). -/
def State.preemptTrap (s : State) (t : Tid) (reason : Nat) : Trap :=
  let c := s.ctx t
  let q : Trap := ⟨Cause.preempt.num, BitVec.ofNat 64 reason, c.pc, c.boundary, true, false, 0, [], []⟩
  match c.resumed with
  | some (.copy x) => { q with tpc := x.tpc, kind := 4, prog := x.record 0 }
  | some (.lines tpc ga gb gd i) => { q with tpc := tpc, kind := 6, prog := linesRecord i ga gb gd }
  | some (.vector _ _ e) => { q with kind := 1, prog := padTo 64 ((c.recordCounters e).flatMap (leBytes 2) ++ s.wordsAt t) }
  | some (.matrix _ n tag pip) =>
    { q with kind := 3, prog := padTo 64 (padTo 16 (leBytes 4 n ++ leBytes 2 tag.toNat ++ leBytes 1 (if pip then 1 else 0))
        ++ s.wordsAt t) }
  | none =>
    match c.heldBare, c.board, c.inv with
    | true, some p, some v => { q with kind := 2, prog := progressRecord p v (v.cut.getD FabStop.none) }
    | _, _, _ => q

/-- The least counter of a vector record that an instruction stands at (R156); `vstart` without one. -/
def Ctx.leastCounter (c : Ctx) : BitVec 13 :=
  match c.resumed with
  | some (.vector _ _ e) => BitVec.ofNat 13 (leastOf (c.recordCounters e))
  | _ => c.vstart

/-- What the kind 1 record of an instruction that stands part-way does not say is noted (R166, R172). -/
def Ctx.noteStanding (c : Ctx) : Ctx :=
  match c.resumed with
  | some (.vector _ k e) => c.noteIssue k (e.headD 0 == 8192)
  | _ => c

/-- The context after its PREEMPT trap has recorded what there is to resume. -/
def Ctx.preempted (c : Ctx) (q : Trap) : Ctx :=
  { c.noteStanding with
    preempt := none
    vstart := c.leastCounter
    resumed := none
    inv := if q.kind == 2 then c.inv.map (fun v => { v with cut := v.cut.map (fun x => { x with prog := q.prog }) }) else c.inv }

/-- A running invocation of a thread is being cut, for a reason that has no trap of its own (R246, R360). -/
def State.cutFor (s : State) (t : Tid) : State :=
  match (s.ctx t).inv with
  | some v => if v.held || v.cut.isSome then s else s.stopInv t { FabStop.none with tpc := v.tpc }
  | none => s

/-- What a STOP waits for (R360): the thread's loads, stores and array work are performed, and no invocation of it runs. -/
def Ctx.still (c : Ctx) : Bool := c.ld == 0 && c.st == 0 && c.mxJobs.isEmpty && !c.invRunning

/-- A thread on its way to a PREEMPT (R359, R360): its transaction aborts with cause 5; its running invocation is cut and
held; what it issued is performed; its source `ldsl` instructions stop counting; then the trap is taken. -/
def State.preemptStep (s : State) (t : Tid) (reason : Nat) : State :=
  if (s.txOf t).isSome then s.abortTx t 5 0
  else if !(s.ctx t).still then s.cutFor t
  else
    let s1 := s.disownTiles t
    let q := s1.preemptTrap t reason
    (s1.onCtx t (fun c => c.preempted q)).takeTrap t q

/-! ### Before an instruction -/

/-- The STEP trap after an instruction at PC tpc in element-step mode (R364): kind 0, resuming at the next
instruction. -/
def stepTrap (tpc rpc : Word) : Trap := ⟨Cause.step.num, 0, tpc, rpc, true, false, 0, [], []⟩

/-- Where a thread stands with respect to what it has pending (R347, R351, R359): inside its instruction or recorded work,
or about to re-enter it, it takes none; where it waits or is paused with a record, a PREEMPT can stop it; otherwise
it is at a boundary (DEDUCED, log 42). -/
inductive Point where
  | within
  | pause
  | boundary
deriving DecidableEq, Repr

/-- Where a thread stands. -/
def Ctx.point (c : Ctx) : Point :=
  let given : Point := if c.waiting then .pause else .within
  match c.resumed with
  | none => .boundary
  | some (.vector .inside ..) | some (.matrix .inside ..) => .within
  | some (.vector .paused ..) | some (.vector .waits ..) | some (.matrix .paused ..) | some (.matrix .waits ..) => .pause
  | some (.vector .given ..) | some (.matrix .given ..) | some (.copy _) | some (.lines ..) => given

/-- A step's end in element-step mode (R364): the STEP trap of an instruction at tpc, once its invocation or array work is
complete, and its ring tile is back at its source. -/
def State.endStep (s : State) (t : Tid) (tpc : Word) : State :=
  let c := s.ctx t
  if c.invRunning || !c.mxJobs.isEmpty || c.mx != 0 then s
  else (s.onCtx t (fun c => { c with stepFx := none })).takeTrap t (stepTrap tpc c.boundary)

/-- What thread t meets at a boundary, if anything (R347, R364). -/
def State.boundaryStep (s : State) (t : Tid) : Option State :=
  let c := s.ctx t
  match c.fabStop, c.declined, c.preempt, c.stepFx with
  | some q, _, _, _ => some (s.raiseAsync t (c.stopTrap q) (fun c => { c with fabStop := none, stepFx := none }))
  | none, d :: ds, _, _ => some (s.raiseAsync t (c.declineTrap d) (fun c => { c with declined := ds }))
  | none, [], some r, _ => some (s.preemptStep t r)
  | none, [], none, some tpc => some (s.endStep t tpc)
  | none, [], none, none => none

/-- A vector instruction that waits part-way leaves its wait for an asynchronous trap (R347); so does an `mmab` with its rows
below the step performed, also where it is about to be re-entered. -/
def Ctx.leavesWait (c : Ctx) : Bool :=
  (c.fabStop.isSome || !c.declined.isEmpty) &&
    match c.resumed with
    | some (.vector .waits ..) | some (.vector .inside ..) => true
    | some (.vector .given ..) => c.waiting && c.cvtSrc.isNone
    | some (.matrix .given ..) => true
    | some (.matrix .waits ..) => c.waiting && c.mxJobs.isEmpty
    | _ => false

/-- A vector instruction that has left its wait restarts at its PC (R347): from its least counter, or whole where what it did
depends on the element at which it was issued, as of a `vldff` or `vldt`; an `mmab`, from its step, under its tag and with no second
pip (R275; DEDUCED, log 42). -/
def State.leaveWait (s : State) (t : Tid) : State :=
  let whole : Bool := match s.atPc t with
    | some (.vldff ..) | some (.vldt ..) => true
    | _ => false
  s.onCtx t (fun c =>
    { c with
      vstart := match c.resumed with
        | some (.vector _ k _) => if whole then BitVec.ofNat 13 k else c.leastCounter
        | _ => c.vstart
      leftRows := match c.resumed with
        | some (.matrix _ k tag pip) => Tbl.put c.leftRows c.frameAddr.toNat (c.pc, k, tag, pip)
        | _ => c.leftRows
      resumed := none })

/-- What thread t meets before its next instruction, if anything: a trap that waits to be taken (R352); then what it has
pending where it stands; then recorded work to go on with (R351). -/
def State.pendingStep (s : State) (t : Tid) : Option State :=
  let c := s.ctx t
  let work : Option State := if c.hasWork then some (s.resumeWork t) else none
  match c.pendTrap with
  | some q => some (s.retryTrap t q)
  | none =>
    if c.leavesWait then (s.leaveWait t).boundaryStep t
    else
    match c.point with
    | .within => work
    | .pause => match c.preempt with | some r => some (s.preemptStep t r) | none => work
    | .boundary => s.boundaryStep t

/-- The outcome of a step in which a running thread takes what it has pending. -/
def takePending (t : Tid) (b : Ctx → Bool) (s : State) : Host.Outcome State Fault Refusal :=
  if (s.ctx t).run == .running && b (s.ctx t) then .next ((s.pendingStep t).getD s) else .next s

/-- ASYNCHRONOUS_TRAP (R347). -/
def execAsynchronousTrap (core : BitVec 6) (cx : Cx) (s : State) : Host.Outcome State Fault Refusal :=
  takePending ⟨core, cx⟩ (fun c => c.pendTrap.isSome || c.fabStop.isSome || !c.declined.isEmpty) s

/-- PREEMPT (R359). -/
def execPreempt (core : BitVec 6) (cx : Cx) (s : State) : Host.Outcome State Fault Refusal :=
  takePending ⟨core, cx⟩ (fun c => c.pendTrap.isSome || c.preempt.isSome) s

/-! ### Precedence on the lanes (R9) -/

/-- The vector instructions, which the lanes execute element chunk by element chunk. -/
def onLanes : Instr → Bool
  | .vfill .. | .vfillR .. | .vld .. | .vlds .. | .vldx .. | .vldff .. | .vldc .. | .vldb .. | .vldbC .. | .vldm .. | .vst ..
  | .vsts .. | .vstx .. | .vstb .. | .vstm .. | .vldt .. | .vadd .. | .vsub .. | .vmul .. | .vmulh .. | .vdiv .. | .vrem ..
  | .vmin .. | .vmax .. | .vminu .. | .vmaxu .. | .vand .. | .vor .. | .vxor .. | .vsll .. | .vsrl .. | .vsra ..
  | .vfadd .. | .vfsub .. | .vfmul .. | .vfma .. | .vfnma .. | .vfdiv .. | .vfsqrt .. | .vfmin .. | .vfmax .. | .vfexp2 ..
  | .vcmp .. | .vfcmp .. | .mand .. | .mor .. | .mxor .. | .mandn .. | .mpop .. | .mfirst .. | .vslideup .. | .vslidedn ..
  | .vperm .. | .vcompress .. | .vexpand .. | .viota .. | .vmerge .. | .vbcast .. | .vext .. | .vins .. | .vredsum ..
  | .vredmin .. | .vredmax .. | .vfredsum .. | .vfredmin .. | .vfredmax .. | .vcvt .. | .vouter .. => true
  | _ => false

/-- The context is inside a vector instruction and does not wait for an access: it goes on with the next chunk. -/
def Ctx.onLanes (c : Ctx) : Bool :=
  c.run == .running && c.pendTrap.isNone &&
    match c.resumed with
    | some (.vector .paused ..) => c.preempt.isNone
    | some (.vector .given ..) => !c.waiting
    | _ => false

/-- The lanes are taken from the moving thread of context N by context U of its core (R9). -/
def State.lanesTaken (s : State) (i : Instr) : Bool :=
  s.cur.cx == .n && Sys2Proof.Machine.onLanes i && s.myCore.ctxU.onLanes

/-! ### Waits behind an invocation (R124, R235, R237) -/

/-- What an instruction has to do with a running invocation of its thread: nothing; `vl` or the other registers that its
completion writes; the vector groups that it reads and writes; an access of the LS path. -/
inductive Touch where
  | none
  | outputs
  | groups (reads writes : List (BitVec 5))
  | access
deriving DecidableEq, Repr

/-- A special register that the completion of an invocation writes, or whose write changes `vl` (R52, R124). -/
def fxRegister (r : BitVec 11) : Touch := if r == 0 || r == 2 || r == 3 then .outputs else .none

/-- What an instruction has to do with a running invocation. -/
def touchOf : Instr → Touch
  | .ld .. | .st .. | .lda .. | .stl .. | .ldc .. | .amoAdd .. | .amoSwap .. | .amoAnd .. | .amoOr .. | .amoXor ..
  | .amoMin .. | .amoMax .. | .amoMinu .. | .amoMaxu .. | .amoCas .. | .fence .. | .qpush .. | .qclose .. | .launch ..
  | .free .. | .sinit .. | .swait .. => .access
  | .fencex e _ _ => if e.getLsbD 0 then .access else .none
  | .srd _ r => fxRegister r
  | .swr _ r | .sset _ r | .sclr _ r => if r == 1 then .outputs else fxRegister r
  | .vfill d _ => .groups [] [d]
  | .vfillR _ a | .vext _ a _ => .groups [a] []
  | .vins d _ _ => .groups [] [d]
  | .fupd _ b _ | .fdnd _ b _ | .fdndS _ _ b _ => .groups [b] []
  | .fsolt d _ _ | .fsoln d _ _ | .fdiag d _ _ => .groups [] [d]
  | .vset .. | .vseti .. | .vld .. | .vlds .. | .vldx .. | .vldff .. | .vldc .. | .vldb .. | .vldbC .. | .vldm .. | .vst ..
  | .vsts .. | .vstx .. | .vstb .. | .vstm .. | .vldt .. | .vadd .. | .vsub .. | .vmul .. | .vmulh .. | .vdiv .. | .vrem ..
  | .vmin .. | .vmax .. | .vminu .. | .vmaxu .. | .vand .. | .vor .. | .vxor .. | .vsll .. | .vsrl .. | .vsra ..
  | .vfadd .. | .vfsub .. | .vfmul .. | .vfma .. | .vfnma .. | .vfdiv .. | .vfsqrt .. | .vfmin .. | .vfmax .. | .vfexp2 ..
  | .vcmp .. | .vfcmp .. | .mand .. | .mor .. | .mxor .. | .mandn .. | .mpop .. | .mfirst .. | .vslideup .. | .vslidedn ..
  | .vperm .. | .vcompress .. | .vexpand .. | .viota .. | .vmerge .. | .vbcast .. | .vredsum .. | .vredmin .. | .vredmax ..
  | .vfredsum .. | .vfredmin .. | .vfredmax .. | .vcvt .. | .mmavL6 .. | .mmavI8 .. | .mmavBf16 .. | .vouter .. => .outputs
  | _ => .none

/-- Two groups of n registers overlap. -/
def groupsMeet (n : Nat) (a b : BitVec 5) : Bool := overlap a.toNat n b.toNat n

/-- The groups of an invocation's ports, inputs or outputs. -/
def Invocation.groups (v : Invocation) (out : Bool) : List (BitVec 5) :=
  (if out then v.outs.toList.map OutPort.field else v.ins.toList.map InPort.field).filterMap (fun f =>
    if f = 0 then none else v.fields.getD (f - 1) none)

/-- An AGEN or TBL of the position has accesses still to come: a later LS-path access, release or fence of the thread goes behind
them (R237, R325). -/
def Position.accessing (p : Position) : Bool :=
  p.pieces.any (fun e =>
    match e.2.kind with
    | .agen a => !a.sent
    | .tbl .. => !e.2.finished
    | _ => false)

/-- What goes behind the thread's earlier stores (R329, R330, R333): at `core` scope every later store, atomic, release and fence
but `fence.aq`; a `fencex` whose earlier paths are LS among others; `tbegin`, which acts as a fence (R342); the accesses of an invocation (R237). `retire` waits for the
store counter (R38). -/
def afterStores : Instr → Bool
  | .st .. | .stl .. | .amoAdd .. | .amoSwap .. | .amoAnd .. | .amoOr .. | .amoXor .. | .amoMin .. | .amoMax .. | .amoMinu ..
  | .amoMaxu .. | .amoCas .. | .vst .. | .vsts .. | .vstx .. | .vstb .. | .vstm .. | .launch .. | .qpush .. | .free .. | .sinit ..
  | .tbegin .. | .fx .. | .fxl .. => true
  | .fence _ k => k != 1
  | .fencex e _ _ => e.getLsbD 0
  | _ => false

/-- The moving thread's instruction waits until back-pressure holds no store of the thread (R21, R34, R35, R328 to R330). -/
def State.storesBlock (s : State) (i : Instr) : Bool := afterStores i && s.holdsStore (.thread s.cur)

/-- The instruction waits behind the context's running invocation (R124, R235, R237). -/
def Ctx.fxBlocks (c : Ctx) (i : Instr) : Bool :=
  match c.inv, c.board with
  | some v, some p =>
    !v.held &&
      match touchOf i with
      | .none => false
      | .outputs => true
      | .access => p.accessing
      | .groups rs ws =>
        let n := Nat.max c.gf (gfOf v.vtype)
        (rs ++ ws).any (fun r => (v.groups true).any (groupsMeet n r)) || ws.any (fun r => (v.groups false).any (groupsMeet n r))
  | _, _ => false

end Sys2Proof.Machine
end

