-- ==== Sys2Proof/Machine/System.lean ====
section
/-! DEFINITION. System instructions, fences, waits, transactions and the bank (R121 to R128, R321 to R324, R332 to
R334, R341 to R344). -/

namespace Sys2Proof.Machine

/-! ### Traps by instruction (R121, R122) -/

/-- ECALL (R121). -/
def execEcall (c : BitVec 16) (s : State) : Host.Outcome State Fault Refusal := finish do
  notInTx s
  .error (.trap s (trapN s .ecall (c.zeroExtend 64) 4))

/-- BRK (R121). -/
def execBrk (c : BitVec 16) (s : State) : Host.Outcome State Fault Refusal := finish do
  notInTx s
  .error (.trap s (trapN s .brk (c.zeroExtend 64) 4))

/-- TRET (R351). -/
def execTret (s : State) : Host.Outcome State Fault Refusal := finish do
  notInTx s
  returnFrom s

/-! ### Special registers (R123, R124) -/

/-- SRD (R123). -/
def execSrd (d : BitVec 5) (r : BitVec 11) (s : State) : Host.Outcome State Fault Refusal :=
  finish (.ok ((s.setG d (s.sreg s.cur r.toNat)).advance 4))

/-- SWR (R123). -/
def execSwr (a : BitVec 5) (r : BitVec 11) (s : State) : Host.Outcome State Fault Refusal := finish do
  notInTx s
  .ok ((s.onMe (fun c => c.setSreg r.toNat (s.G a) (s.G a))).advance 4)

/-- SSET (R123). -/
def execSset (a : BitVec 5) (r : BitVec 11) (s : State) : Host.Outcome State Fault Refusal := finish do
  notInTx s
  .ok ((s.onMe (fun c => c.setSreg r.toNat (s.sreg s.cur r.toNat ||| s.G a) 0)).advance 4)

/-- SCLR (R123). -/
def execSclr (a : BitVec 5) (r : BitVec 11) (s : State) : Host.Outcome State Fault Refusal := finish do
  notInTx s
  .ok ((s.onMe (fun c => c.setSreg r.toNat (s.sreg s.cur r.toNat &&& ~~~(s.G a)) (s.G a))).advance 4)

/-! ### Waiting (R125, R126, R128) -/

/-- A `wfi` of a context has ended, or would end as it starts: a yield or cancel request, a wake, or its time limit
(R125). -/
def Ctx.wfiEnds (c : Ctx) (clock : Word) : Bool :=
  c.yreq || c.cancel || c.wake ||
    match c.wfi with
    | some (some dl) => decide (dl ≤ clock.toNat)
    | _ => false

/-- The context after its `wfi` has ended: it continues at the next instruction. -/
def Ctx.endWfi (c : Ctx) : Ctx := { c with wfi := none, wake := false, waiting := false, pc := c.pc + 4 }

/-- The context after its time limit has ended its `wfi`; in element-step mode the step ends with it (R364). -/
def Ctx.wfiExpired (c : Ctx) : Ctx := { c.endWfi with stepFx := if c.estep then some c.pc else c.stepFx }

/-- WFI (R125). -/
def execWfi (n : BitVec 21) (s : State) : Host.Outcome State Fault Refusal := finish do
  notInTx s
  if s.me.wfiEnds s.clock then .ok (s.onMe Ctx.endWfi)
  else
    let dl := if n = 0 then none else some (s.clock.toNat + n.toNat * 1024)
    waitNow (s.onMe (fun c => { c with wfi := some (c.wfi.getD dl) }))

/-- ISYNC (R126): this model fetches each instruction as it executes it. -/
def execIsync (s : State) : Host.Outcome State Fault Refusal := finish (.ok (s.advance 4))

/-- PAUSE (R128): a hint. -/
def execPause (s : State) : Host.Outcome State Fault Refusal := finish (.ok (s.advance 4))

/-! ### Fences (R332 to R334, R340) -/

/-- FENCE (R332). -/
def execFence (c _k : BitVec 2) (s : State) : Host.Outcome State Fault Refusal := finish do
  notInTx s
  .ok ((s.order c).advance 4)

/-- FENCEX (R333). -/
def execFencex (_e : BitVec 5) (_l : BitVec 3) (c : BitVec 2) (s : State) : Host.Outcome State Fault Refusal :=
  finish do
    notInTx s
    .ok ((s.order c).advance 4)

/-- A class counter is at or below its field; a field of 15 places no condition (R334). -/
def below (n : Nat) (f : BitVec 4) : Bool := f == 15 || decide (n ≤ f.toNat)

/-- WAITC (R334). -/
def execWaitc (l r c m f : BitVec 4) (s : State) : Host.Outcome State Fault Refusal := finish do
  notInTx s
  let k := s.me
  if below k.ld l && below k.st r && below k.cp c && below k.mx m && below k.fx f then .ok (s.advance 4)
  else waitNow s

/-! ### Transactions (R341 to R344) -/

/-- TBEGIN (R342). -/
def execTbegin (d : BitVec 5) (s : State) : Host.Outcome State Fault Refusal := finish do
  if s.me.txa then .error (.abort s 8 0)
  let x : Tx := ⟨s.pc + 4, d, [], [], [], [], [], false, false⟩
  .ok ((({ s with txs := s.txs ++ [(s.cur, x)] }).onMe
    (fun c => ({ c with tstat := 0 }.setTxa true).setG d 0)).advance 4)

/-- The stores of a write set performed at one moment (R342): every line owned, but for those stored to through uncached
mappings (R337); every byte written; the granules that they cover whole are no longer poisoned (R386). -/
def State.commit (s : State) (t : Tid) (x : Tx) : State :=
  let s1 := x.wset.foldl (fun s l => s.touchWrite t.core t.cx (x.unc.contains l) l) s
  let s2 := x.writes.foldl (fun s p => s.put p.1 [p.2]) s1
  { s2 with poison := s2.poison.filter (fun g =>
      !((List.range 32).all (fun i => (Tbl.find x.writes (32 * g + i)).isSome))) }

/-- TEND (R342). -/
def execTend (s : State) : Host.Outcome State Fault Refusal := finish do
  match s.txOf s.cur with
  | none => trapNow s .perm 0
  | some x =>
    let s1 := { s with txs := s.txs.filter (fun p => p.1 != s.cur) }
    .ok (((s1.commit s.cur x).onMe (fun c => { c.setTxa false with tstat := 1 })).advance 4)

/-- TABORT (R342). -/
def execTabort (c : BitVec 6) (s : State) : Host.Outcome State Fault Refusal := finish do
  if s.me.txa then
    .error (.abort (s.onMe (fun k => { k with tstat := BitVec.ofNat 64 (c.toNat * 2 ^ 10) })) 6 0)
  .ok (s.advance 4)

/-- TSTAT (R344). -/
def execTstat (d : BitVec 5) (s : State) : Host.Outcome State Fault Refusal :=
  finish (.ok ((s.setG d s.me.tstat).advance 4))

/-! ### The bank (R321 to R324) -/

/-- The bytes of a block of class k (R321). -/
def blockBytes (k : BitVec 4) : Nat := 128 * 2 ^ k.toNat

/-- The key of the lists of a die, tenant and class. -/
def bankKey (die : BitVec 2) (ten : BitVec 5) (k : BitVec 4) : Nat := (die ++ ten ++ k).toNat

/-- The lists of a die, tenant and class. -/
def State.bank (s : State) (die : BitVec 2) (ten : BitVec 5) (k : BitVec 4) : BankList :=
  Tbl.getD s.banks (bankKey die ten k) ⟨[], 0, 0, 0⟩

/-- The state with the lists of a die, tenant and class. -/
def State.setBank (s : State) (die : BitVec 2) (ten : BitVec 5) (k : BitVec 4) (b : BankList) : State :=
  { s with banks := Tbl.put s.banks (bankKey die ten k) b }

/-- The moving thread's bank lists of a class. -/
def State.myBank (s : State) (k : BitVec 4) : BankList := s.bank (dieOf s.cur.core) s.me.tenant k

/-- The state with the moving thread's bank lists of a class. -/
def State.setMyBank (s : State) (k : BitVec 4) (b : BankList) : State := s.setBank (dieOf s.cur.core) s.me.tenant k b

/-- ALLOC (R323). -/
def execAlloc (d : BitVec 5) (c : BitVec 4) (s : State) : Host.Outcome State Fault Refusal := finish do
  notInTx s
  let b := s.myBank c
  match b.chip with
  | x :: xs => .ok (((s.setMyBank c { b with chip := xs }).setG d x).advance 4)
  | [] => if b.used == 0 then .ok ((s.setG d 0).advance 4) else waitNow s

/-- FREE (R324). A full on-chip list whose memory list has room waits for the spill of R321. -/
def execFree (a : BitVec 5) (c : BitVec 4) (s : State) : Host.Outcome State Fault Refusal := finish do
  notInTx s
  let x := s.G a
  if x == 0 then .ok (s.advance 4)
  else
    if x.toNat % blockBytes c != 0 then trapRes s .bankerr x false
    let b := s.myBank c
    if b.chip.length < 256 then .ok ((s.setMyBank c { b with chip := x :: b.chip }).advance 4)
    else if b.cap ≤ b.used then trapRes s .bankerr x true
    else waitNow s

end Sys2Proof.Machine
end

