-- ==== Sys2Proof/Machine/Caches.lean ====
section
/-! DEFINITION. Steps of the memory system: the directory's messages (R292, R293), the transaction time limit (R343),
uncorrectable errors (R386), the bank's moves (R321), and the executive's settings of the bank and of tenants (R321,
R340). -/

namespace Sys2Proof.Machine

/-! ### The directory entry as the executive reads it (R292) -/

/-- The code of a directory state. -/
def DirState.code : DirState → Nat
  | .uncached => 0
  | .shared => 1
  | .owned => 2
  | .pipped => 3

/-- The low 24 bits of an entry: the sharers, or what a pipped line holds. -/
def DirEntry.low (e : DirEntry) : Nat :=
  match e.st with
  | .uncached => 0
  | .pipped =>
    e.pips.toNat * 2 ^ 16 + e.group.toNat * 2 ^ 12 + e.core.toNat * 2 ^ 6 + (match e.cx with | .n => 0 | .u => 2 ^ 5)
      + (if e.dirty then 2 ^ 4 else 0) + (if e.pending then 2 ^ 3 else 0)
  | _ => if e.cv then e.vec.toNat else (e.ptrs.zipIdx.map (fun p => p.1.toNat * 64 ^ p.2)).sum

/-- The entry as a doubleword (R292). -/
def DirEntry.word (e : DirEntry) : Word :=
  let sharers := e.st == .shared || e.st == .owned
  BitVec.ofNat 64 (e.st.code * 2 ^ 62 + (if sharers && e.cv then 2 ^ 61 else 0)
    + (if sharers && !e.cv then e.ptrs.length * 2 ^ 58 else 0) + e.low)

/-! ### Messages of the directory (R293) -/

/-- The request for ownership of a line that is under way. -/
def State.ownReq (s : State) (line : Nat) : Option OwnReq := s.owning.find? (fun r => lineOf r.pa == line)

/-- READ_MISS (R293). -/
def execReadMiss (core : BitVec 6) (pa : BitVec 52) (s : State) : Host.Outcome State Fault Refusal :=
  let line := lineOf pa.toNat
  if !(mapped pa.toNat 1) || s.pipped line || (s.core core).hasLine line || (s.ownReq line).isSome then .next s
  else
    match s.gateLine none line false with
    | .pass s1 => .next (s1.touchRead core .n false line)
    | .hold s1 | .conflict s1 => .next (s.holdFrom s1)
    | .linkDown | .orphaned => .next s

/-- A write whose line every named core has given up is performed, and its writer owns the line (R293). -/
def State.performOwn (s : State) (r : OwnReq) : State :=
  ({ s with owning := s.owning.filter (fun q => lineOf q.pa != lineOf r.pa) }.touchWrite r.writer .n false
    (lineOf r.pa)).put r.pa r.data

/-- OWNERSHIP_REQUEST (R293): an invalidation goes to every other core that the entry names; with none to send, the write
is performed. -/
def execOwnershipRequest (core : BitVec 6) (pa : BitVec 52) (data : List (BitVec 8)) (s : State) :
    Host.Outcome State Fault Refusal :=
  let line := lineOf pa.toNat
  if !(mapped pa.toNat 1) || s.pipped line || (s.ownReq line).isSome then .next s
  else
    match s.gateLine none line true with
    | .pass s1 =>
      let r : OwnReq := ⟨core, (s1.dirOf line).named.filter (· != core), pa.toNat, data.take (128 - pa.toNat % 128)⟩
      .next (if r.acks.isEmpty then s1.performOwn r else { s1 with owning := s1.owning ++ [r] })
    | .hold s1 | .conflict s1 => .next (s.holdFrom s1)
    | .linkDown | .orphaned => .next s

/-- INVALIDATION_ACK (R293): the core's copy is gone; the last acknowledgement lets the write be performed. -/
def execInvalidationAck (core : BitVec 6) (pa : BitVec 52) (s : State) : Host.Outcome State Fault Refusal :=
  let line := lineOf pa.toNat
  match s.ownReq line with
  | some r =>
    if r.acks.contains core then
      let r1 := { r with acks := r.acks.filter (· != core) }
      let s1 := s.onCore core (fun k => k.dropLine line)
      .next (if r1.acks.isEmpty then s1.performOwn r1
        else { s1 with owning := s1.owning.map (fun q => if lineOf q.pa == line then r1 else q) })
    else .next s
  | none => .next s

/-- An entry after a core's eviction notice (R293): in pointer mode the pointer goes; in coarse mode nothing does. -/
def DirEntry.evicted (e : DirEntry) (c : BitVec 6) : DirEntry :=
  if e.st == .pipped || e.st == .uncached || e.cv then e
  else
    let ps := e.ptrs.filter (· != c)
    if ps.isEmpty then DirEntry.none else { e with st := .shared, ptrs := ps }

/-- An invalidation of the line from the core is outstanding. -/
def State.invalidating (s : State) (line : Nat) (c : BitVec 6) : Bool :=
  match s.ownReq line with
  | some r => r.acks.contains c
  | none => false

/-- An L1 may give up a line (R295): its context is at its limit, or no other line of its set is of a context at its
limit. -/
def State.mayEvict (s : State) (core : BitVec 6) (l : L1Line) : Bool :=
  s.over1 ⟨core, l.cx⟩ ||
    !((s.core core).l1.any (fun k => s.over1 ⟨core, k.cx⟩ && Config.l1Set k.line == Config.l1Set l.line))

/-- An L2 slice may give up a line (R295): none that is pinned or that a write waits for; its context is at its limit, or no
other line of its set is of a context at its limit. -/
def State.mayGiveUp (s : State) (line : Nat) (e : L2Line) : Bool :=
  !(s.pipped line) && !(s.owningLine line) &&
    (s.over2 e.who || !(s.l2.any (fun p => s.over2 p.2.who && !(s.pipped p.1) && homeCore (p.1 * 128) == homeCore (line * 128)
      && sameSet p.1 line)))

/-- A core's L2 slice gives up a line: coarse mode and every L1 copy end with it (R291, R293). -/
def State.l2Evict (s : State) (line : Nat) : State :=
  match Tbl.find s.l2 line with
  | some e => if s.mayGiveUp line e then s.giveUp line else s
  | none => s

/-- A line moves into the way that a CACHE tile of its home core lends, where its set has no other line there (R216): never a
pipped one. -/
def State.l2Lend (s : State) (line : Nat) (w : Cx × Fin 8) : State :=
  match Tbl.find s.l2 line with
  | some e =>
    if !(s.pipped line) && e.lent.isNone && (s.core (homeCore (line * 128))).lent.contains w && (s.lentMates line w).isEmpty then
      { s with l2 := Tbl.put s.l2 line { e with lent := some w } }
    else s
  | none => s

/-- EVICTION_NOTICE (R293, R295): an L1 gives up a clean copy. -/
def execEvictionNotice (core : BitVec 6) (pa : BitVec 52) (s : State) : Host.Outcome State Fault Refusal :=
  let line := lineOf pa.toNat
  if (s.core core).l1.any (fun l => l.line == line && !l.modified && s.mayEvict core l) then
    let s1 := s.onCore core (fun k => k.dropLine line)
    .next (if s.invalidating line core then s1 else s1.setDir line ((s.dirOf line).evicted core))
  else .next s

/-- L1_WRITE_BACK (R293, R295): an L1 gives up a modified copy; the entry becomes ST 0. -/
def execL1WriteBack (core : BitVec 6) (pa : BitVec 52) (s : State) : Host.Outcome State Fault Refusal :=
  let line := lineOf pa.toNat
  if (s.core core).l1.any (fun l => l.line == line && l.modified && s.mayEvict core l) && !s.pipped line then
    .next ((s.onCore core (fun k => k.dropLine line)).setDir line DirEntry.none)
  else .next s

/-! ### Transactions and errors -/

/-- TRANSACTION_CONFLICT_TIMEOUT (R343): a transaction that an access waits for aborts with cause 1. -/
def execTransactionConflictTimeout (core : BitVec 6) (cx : Cx) (s : State) : Host.Outcome State Fault Refusal :=
  match s.txOf ⟨core, cx⟩ with
  | some x => .next (if x.blocks then s.abortTx ⟨core, cx⟩ 1 0 else s)
  | none => .next s

/-- ECC_UNCORRECTABLE_ERROR (R386): the granule is poisoned. -/
def execEccUncorrectableError (pa : BitVec 52) (s : State) : Host.Outcome State Fault Refusal :=
  .next (if populated pa.toNat then s.addPoison pa.toNat 1 else s)

/-! ### The bank (R321) -/

/-- n bytes from a physical address lie in populated device memory. -/
def devPlace (base n : Nat) : Bool :=
  n == 0 || (populated base && populated (base + n - 1) && decide (base / 0x2000000000 = (base + n - 1) / 0x2000000000))

/-- The memory list holds n entries of eight bytes in populated device memory. -/
def listPlace (base : Word) (n : Nat) : Bool := devPlace base.toNat (8 * n)

/-- BANK_REFILL (R321): up to 128 entries, the last ones spilled, come on chip behind those there.
A refill whose entries in memory are poisoned does nothing (DESIGN CHOICE, log 48: R321 and R386 do not say). -/
def execBankRefill (die : BitVec 2) (ten : BitVec 5) (cls : BitVec 4) (s : State) : Host.Outcome State Fault Refusal :=
  let b := s.bank die ten cls
  if b.chip.length < 64 && 0 < b.used then
    let n := Nat.min 128 b.used
    if s.poisoned (b.base.toNat + 8 * (b.used - n)) (8 * n) then .next s else
    match s.agentRead (b.base.toNat + 8 * (b.used - n)) (8 * n) with
    | (s1, some bs) =>
      let es := ((cut 8 bs n).map (fun e => BitVec.ofNat 64 (leNat e))).reverse
      .next (s1.setBank die ten cls { b with chip := b.chip ++ es, used := b.used - n })
    | (s1, none) => .next (s.holdFrom s1)
  else .next s
where
  /-- A list cut into k pieces of n. -/
  cut (n : Nat) (bs : List Byte) : Nat → List (List Byte)
    | 0 => []
    | k + 1 => bs.take n :: cut n (bs.drop n) k

/-- BANK_SPILL (R321): the 128 entries freed longest ago, or as many as the memory list has room for, move to it. -/
def execBankSpill (die : BitVec 2) (ten : BitVec 5) (cls : BitVec 4) (s : State) : Host.Outcome State Fault Refusal :=
  let b := s.bank die ten cls
  if 192 < b.chip.length && b.used < b.cap then
    let n := Nat.min 128 (b.cap - b.used)
    let keep := b.chip.length - n
    match s.agentWrite (b.base.toNat + 8 * b.used) ((b.chip.drop keep).reverse.flatMap (fun x => leBytes 8 x.toNat)) with
    | (s1, true) => .next (s1.setBank die ten cls { b with chip := b.chip.take keep, used := b.used + n })
    | (s1, false) => .next (s.holdFrom s1)
  else .next s

/-- SET_BANK_MEMORY_LIST (R321): the executive gives a class an empty memory list. It does not run while no firmware slot
was verified (R381). -/
def execSetBankMemoryList (die : BitVec 2) (ten : BitVec 5) (cls : BitVec 4) (base : BitVec 64) (cap : Nat) (s : State) :
    Host.Outcome State Fault Refusal :=
  .next (if !s.plat.stuck && listPlace base cap && decide (ten.toNat ≤ 16) then
    s.setBank die ten cls { s.bank die ten cls with base := base, cap := cap, used := 0 } else s)

/-- TENANT_SCOPE_LIMIT (R340), by the executive, which does not run while no firmware slot was verified (R381). -/
def execTenantScopeLimit (ten : BitVec 5) (limited : Bool) (s : State) : Host.Outcome State Fault Refusal :=
  .next (if !s.plat.stuck && decide (ten.toNat ≤ 16) then
    { s with limited := if limited then s.limited ||| (1#17 <<< ten.toNat) else s.limited &&& ~~~(1#17 <<< ten.toNat) }
    else s)

end Sys2Proof.Machine
end

