-- ==== Sys2Proof/Machine/TransferSteps.lean ====
section
/-! DEFINITION. The steps of the transfer unit (R301, R306, R309, R310): a block and its increment delivered, a line of a pip
fill arriving, a transfer completing, a fault with its COPY notice, and the executive's two answers to it. -/

namespace Sys2Proof.Machine

/-- The outcome of a step of a transfer that no fault has stopped; without one, nothing happens. -/
def onXfer (core : BitVec 6) (cx : Cx) (id : Nat) (s : State) (f : Tid → Xfer → State) :
    Host.Outcome State Fault Refusal :=
  match (s.ctx ⟨core, cx⟩).xfer id with
  | some x => .next (if x.faulted.isSome then s else f ⟨core, cx⟩ x)
  | none => .next s

/-- A transfer whose every byte has been performed completes (R298, R309, R310): its handle moves, its counter falls, and
an XREQ request is done. -/
def State.xferDone (s : State) (t : Tid) (x : Xfer) : State :=
  (s.endXfer t x Handle.complete).onCtx t (fun c => c.xreqDone x)

/-- A transfer stops at a fault (R309): its bytes done are noted and a COPY notice is sent. -/
def State.faultXfer (s : State) (t : Tid) (x : Xfer) (done : Nat) (c : Cause) (va : Word) : State :=
  let y := { x with done := done, faulted := some (c.num, va), notice := some (s.core t.core).nseq }
  (s.onCtx t (fun k => k.setXfer y)).notify t.core
    (s.threadNotice t 5 va (BitVec.ofNat 64 done) x.sync ((y.record c.num).take 32))

/-- Delivers the next block of a transfer; nothing happens where it waits or meets a fault. -/
def State.xferStep (s : State) (t : Tid) (x : Xfer) : State :=
  if x.count ≤ x.done then s
  else
    match s.xferBlock t x with
    | .done (s1, d) => s1.onCtx t (fun c => c.setXfer { x with done := d })
    | .wait s1 => s.holdFrom s1
    | .fault _ _ => s

/-- SYNC_WORD_INCREMENT (R306, R309): the next block of a copy or drain is performed, then its increment. -/
def execSyncWordIncrement (core : BitVec 6) (cx : Cx) (id : Nat) (s : State) : Host.Outcome State Fault Refusal :=
  onXfer core cx id s (fun t x => if x.op == .fill then s else s.xferStep t x)

/-- PIP_FILL_ARRIVAL (R301, R319): the next line of a fill arrives and becomes live; the last one completes the fill. -/
def execPipFillArrival (core : BitVec 6) (cx : Cx) (id : Nat) (s : State) : Host.Outcome State Fault Refusal :=
  onXfer core cx id s (fun t x =>
    if x.op == .fill then
      let s1 := s.xferStep t x
      match (s1.ctx t).xfer id with
      | some y => if y.count ≤ y.done then s1.xferDone t y else s1
      | none => s1
    else s)

/-- COPY_COMPLETE (R310): every remaining block is performed and the transfer completes. -/
def execCopyComplete (core : BitVec 6) (cx : Cx) (id : Nat) (s : State) : Host.Outcome State Fault Refusal :=
  onXfer core cx id s (fun t x =>
    match s.xferRun t x x.fuel with
    | .all s1 => s1.xferDone t x
    | .wait s1 d => s1.onCtx t (fun c => c.setXfer { x with done := d })
    | .fault .. => s)

/-- COPY_FAULT (R309): the blocks below the fault are performed, and the transfer stops with a notice, for which it may have
to wait (R352). -/
def execCopyFault (core : BitVec 6) (cx : Cx) (id : Nat) (s : State) : Host.Outcome State Fault Refusal :=
  onXfer core cx id s (fun t x =>
    match s.noticeWaits t.core with
    | some s1 => s.holdFrom s1
    | none =>
      match s.xferRun t x x.fuel with
      | .fault s1 d c va => s1.faultXfer t x d c va
      | _ => s)

/-- The context's transfer that a COPY notice reported, by the notice's sequence number. -/
def Ctx.noticed (c : Ctx) (seq : Word) : Option Xfer :=
  c.xfers.find? (fun x => match x.notice with | some n => n.zeroExtend 64 == seq | none => false)

/-- The executive lets a faulted transfer continue from its bytes done (R309). -/
def Ctx.resumeXfer (c : Ctx) (x : Xfer) : Ctx := c.setXfer { x with faulted := none, notice := none }

/-- A declined copy among those that wait to be taken, in issue order (R309, R347). -/
def insertDeclined (d : Declined) : List Declined → List Declined
  | [] => [d]
  | e :: es => if d.xfer.order < e.xfer.order then d :: e :: es else e :: insertDeclined d es

/-- The executive declines a faulted transfer (R309, R311): its handle returns to the state it left and the thread's trap
is pending; a declined XREQ request stops the invocation, and is issued again when the invocation resumes. -/
def State.declineXfer (s : State) (t : Tid) (x : Xfer) (cause : Nat) (va : Word) : State :=
  if x.xreq then
    (s.onCtx t (fun c => c.setXfer { x with notice := none })).stopInv t ⟨cause, va, x.tpc, true, 0xFF, [], x.aux⟩
  else
    (s.endXfer t x Handle.restore).onCtx t (fun c => { c with declined := insertDeclined ⟨x, cause, va⟩ c.declined })

end Sys2Proof.Machine
end

