-- ==== Sys2Proof/Machine/Work.lean ====
section
/-! DEFINITION. The work-queue instructions (R32 to R41). Releases and acquires of these instructions have no further
effect in this model, where accesses are performed at once and in order (DESIGN CHOICE, log 6). -/

namespace Sys2Proof.Machine

/-- The moving thread's instance, its launch and its stage; outside a stage instance the instruction traps PERM
(R32). -/
def State.myStage (s : State) : Run (Instance × Launch × Stage) :=
  match s.me.inst with
  | none => trapOpen s .perm
  | some i =>
    match s.launchAt i.slot.toNat with
    | none => trapOpen s .perm
    | some l =>
      match l.stages[i.stage]? with
      | some st => .ok (i, l, st)
      | none => trapOpen s .perm

/-- The class counters are all zero (R38). -/
def Ctx.idle (c : Ctx) : Bool := c.ld == 0 && c.st == 0 && c.cp == 0 && c.mx == 0 && c.fx == 0

/-- Closes every open pip group of a thread, and counts the residues (R303, R38). -/
def State.closeAllGroups (s : State) (t : Tid) : State × Nat :=
  (List.range 16).foldl (fun p g =>
    let (s1, n) := p.1.closeGroup t (BitVec.ofNat 4 g)
    (s1, p.2 + n)) (s, 0)

/-- Closes every open pip group of a thread, setting PUR when a residue is not zero (R303, R38). -/
def State.closeGroups (s : State) (t : Tid) : State :=
  let (s1, n) := s.closeAllGroups t
  if n == 0 then s1 else s1.onCtx t Ctx.setPur

/-- The instance of the thread has retired and its context has no instance, but a trap of the `retire` keeps it from being
free until the executive acts on it. -/
def State.endBeforeTrap (s : State) : State :=
  let s1 := s.endInstance s.cur
  s1.onMe (fun c => { c with run := .running })

/-- Retiring (R38): waits for the class counters, closes the pip groups and ends the instance. With PUE set, a residue that
is not zero traps PIPUNDER after that effect, with the residue of all groups in tval (R303 step 4; DEDUCED, log 25). -/
def State.retire (s : State) : Run State :=
  if s.me.idle then
    let n := (s.closeAllGroups s.cur).2
    let s1 := s.closeGroups s.cur
    if n != 0 && s.me.pue then
      let q := trapN s .pipunder (BitVec.ofNat 64 n) 4
      .error (.trap s1.endBeforeTrap q)
    else .ok (s1.endInstance s.cur)
  else waitNow s

/-- LAUNCH (R34): a record that cannot be read traps with the slot left free; a PERM of an untranslated region is not resumable
(R345). As a release it comes to execute once no store of the thread is held (State.storesBlock). -/
def execLaunch (d a : BitVec 5) (s : State) : Host.Outcome State Fault Refusal := finish do
  notInTx s
  let ga := s.G a
  if ga.toNat % 128 != 0 then trapNow s .misalign ga
  match s.freeLaunchSlot with
  | none => .ok ((s.setG d (BitVec.allOnes 64)).advance 4)
  | some n =>
    match s.tryLaunch (some s.cur) n ga s.me.tenant (dieOf s.cur.core) with
    | .fault c va => trapRes s c va ((regionOf va).isNone)
    | .wait s1 => waitNow (s.holdFrom s1)
    | .done s1 => .ok ((s1.setG d ((launchId (s.slot n).gen n).zeroExtend 64)).advance 4)

/-- The moving thread's `qpush` has come to wait for its queue (R35). -/
def State.pushWaits (s : State) : State := s.onMe (fun c => { c with pushWait := true })

/-- QPUSH (R35). A push to a queue of a launch that is being cancelled is discarded as it arrives (R40), also where that
queue is CLOSED, since the spec gives no order between that and the STREAM trap (DESIGN CHOICE, log 62); one that
already waits for its queue acts as `retire`. As a release it comes to execute once no store of the thread is held (State.storesBlock). -/
def execQpush (a b q : BitVec 5) (s : State) : Host.Outcome State Fault Refusal := finish do
  notInTx s
  let (i, l, st) ← s.myStage
  let n := i.slot.toNat
  if !(st.outmask.getLsbD q.toNat) then trapNow s .perm (q.zeroExtend 64)
  match l.queue q.toNat with
  | none => trapNow s .perm (q.zeroExtend 64)
  | some x =>
    if s.me.pushWait && s.me.cancel then s.retire
    else if l.cancelling then .ok (s.advance 4)
    else if x.closed && !x.faulted then trapNow s .stream (q.zeroExtend 64)
    else if x.blocked then (if s.me.cancel then s.retire else waitNow s.pushWaits)
    else
      match s.qfullWaits n q.toNat with
      | some s1 => waitNow (s.holdFrom s1).pushWaits
      | none => .ok ((s.pushEntry n q.toNat (s.G b ++ s.G a)).advance 4)

/-- An entry delivered by `qpop` with status 1 (R36). -/
def State.deliver (s : State) (d a b : BitVec 5) (e : BitVec 128) : State :=
  (((s.setG d (e.extractLsb' 0 64)).setG a (e.extractLsb' 64 64)).setG b 1).advance 4

/-- No entry: zeros and the status (R36). -/
def State.deliverNone (s : State) (d a b : BitVec 5) (st : Word) : State :=
  (((s.setG d 0).setG a 0).setG b st).advance 4

/-- Both forms of `qpop` (R36, R40). -/
def popEntry (d a b : BitVec 5) (noWait : Bool) (s : State) : Run State := do
  notInTx s
  let (i, l, st) ← s.myStage
  let n := i.slot.toNat
  if i.robbed && !noWait then s.retire
  else
    match l.queue st.inq with
    | none => trapOpen s .perm
    | some q =>
      match i.reserved with
      | some e =>
        let s1 := s.onMe (fun c => { c with inst := some { i with reserved := none } })
        let s2 := (s1.putQueue n st.inq { q with reserved := q.reserved - 1 }.refill).settleLaunch n
        .ok (s2.deliver d a b e)
      | none =>
        match q.head with
        | some e =>
          let s2 := (s.putQueue n st.inq q.pop).settleLaunch n
          .ok (s2.deliver d a b e)
        | none =>
          if noWait && s.me.cancel then .ok (s.deliverNone d a b 2)
          else if q.drained then .ok (s.deliverNone d a b 0)
          else if noWait && q.unreserved == 0 then .ok (s.deliverNone d a b 2)
          else if s.me.cancel then s.retire
          else waitNow s

/-- QPOP (R36). -/
def execQpop (d a b : BitVec 5) (s : State) : Host.Outcome State Fault Refusal := finish (popEntry d a b false s)

/-- QPOP_NW (R36). -/
def execQpopNw (d a b : BitVec 5) (s : State) : Host.Outcome State Fault Refusal := finish (popEntry d a b true s)

/-- QCLOSE (R37). -/
def execQclose (q : BitVec 5) (s : State) : Host.Outcome State Fault Refusal := finish do
  notInTx s
  let (i, l, st) ← s.myStage
  if !(st.outmask.getLsbD q.toNat) || (l.queue q.toNat).isNone then trapNow s .perm (q.zeroExtend 64)
  .ok ((s.closeQueue i.slot.toNat q.toNat).advance 4)

/-- RETIRE (R38). -/
def execRetire (s : State) : Host.Outcome State Fault Refusal := finish do
  notInTx s
  let _ ← s.myStage
  s.retire

/-- YIELD (R39). -/
def execYield (s : State) : Host.Outcome State Fault Refusal := finish do
  notInTx s
  let _ ← s.myStage
  if s.me.yreq || s.me.cancel then s.retire else .ok (s.advance 4)

/-- CANCEL (R40). -/
def execCancel (d a : BitVec 5) (l : BitVec 2) (s : State) : Host.Outcome State Fault Refusal := finish do
  notInTx s
  let ga := s.G a
  if s.foreignObject l ga s.me.tenant then trapNow s .perm ga
  let st := s.levelStatus l ga
  .ok ((((s.openLaunches l ga).foldl State.cancelLaunch s).setG d st).advance 4)

/-- The status that `cwait` returns, a final launch's slot being freed (R18, R41). -/
def State.cwaited (s : State) (d : BitVec 5) (l : BitVec 2) (ga st : Word) : State :=
  let s1 := if l == 0 && 1 ≤ (st.extractLsb' 0 3).toNat && (st.extractLsb' 0 3).toNat ≤ 3
    then s.freeSlot (ga.extractLsb' 0 10).toNat else s
  (s1.setG d st).advance 4

/-- CWAIT (R41). -/
def execCwait (d a : BitVec 5) (l : BitVec 2) (s : State) : Host.Outcome State Fault Refusal := finish do
  notInTx s
  let ga := s.G a
  if s.foreignObject l ga s.me.tenant then trapNow s .perm ga
  let st := s.levelStatus l ga
  if st.extractLsb' 0 3 == 0 then waitNow s
  .ok (s.cwaited d l ga st)

/-- CWAIT_NW (R41). -/
def execCwaitNw (d a : BitVec 5) (l : BitVec 2) (s : State) : Host.Outcome State Fault Refusal := finish do
  notInTx s
  let ga := s.G a
  if s.foreignObject l ga s.me.tenant then trapNow s .perm ga
  .ok (s.cwaited d l ga (s.levelStatus l ga))

end Sys2Proof.Machine
end

