-- ==== Sys2Proof/Machine/Commands.lean ====
section
/-! DEFINITION. The executive's commands (R353, R377 to R380): the command port, a context's commands (RESUME to STOP),
saving and restoring a context (R361, R362), ending an instance (R363), and the settings. -/

namespace Sys2Proof.Machine

/-! ### The command port (R377) -/

/-- An AGEN of a context's position holds a re-latch token (R242). -/
def Ctx.relatching (c : Ctx) : Bool :=
  match c.board with
  | some p => p.pieces.any (fun e => match e.2.kind with | .agen a => a.relatch.isSome | _ => false)
  | none => false

/-- A STOP of the context is not complete (R360): its PREEMPT is still to be taken, or what the stopped thread issued is
still to be performed or cut. -/
def Ctx.stopping (c : Ctx) : Bool :=
  match c.run with
  | .running => c.preempt.isSome || c.pendTrap.isSome
  | .suspended | .held => !c.still
  | .free => false

/-- A transaction of an address space is open whose stores an INVALIDATE has found: translated before it, and performed only at
the commit (R339, R342, R358). -/
def State.oldStores (s : State) (ten : BitVec 5) : Bool := s.txs.any (fun p => p.2.old && (s.ctx p.1).tenant == ten)

/-- The port's last command is not complete: it cannot be carried out yet, the thread of a STOP has not stopped (R360), or, for an
INVALIDATE, a re-latch token has not come out or an earlier store is not performed (R358). -/
def State.portBusy (s : State) (core : BitVec 6) : Bool :=
  match (s.core core).busy with
  | some (.stop x) => (s.ctx ⟨core, x⟩).stopping
  | some (.invalidate ten) => s.oldStores ten || allTids.any (fun t => (s.ctx t).tenant == ten && (s.ctx t).relatching)
  | some (.command _) => true
  | none => false

/-- The command that the port could not carry out yet is this one. -/
def Core.again (k : Core) (cx : Cx) (op : Nat) (args : List (Fin 4 × Word)) : Bool :=
  k.busy == some (.command op) && k.cmdCx == cx && args.all (fun a => k.args[a.1] == a.2)

/-- How a command goes: carried out; refused (R353); not yet able to be carried out. -/
inductive Ran1 where
  | done (s : State)
  | refused
  | retry (s : State)

/-- Goes on when b holds; otherwise the command is refused. -/
def Ran1.unless (b : Bool) (s : State) : Ran1 := if b then .done s else .refused

/-- A command with operation op for a context, its arguments by number, written to a core's command port (R377): it waits
while the port is busy with another, and stays with the port until it can be carried out (R380). The executive does not run
while no firmware slot was verified (R381). -/
def command (core : BitVec 6) (cx : Cx) (op : Nat) (args : List (Fin 4 × Word)) (f : State → Ran1) (s : State) :
    Host.Outcome State Fault Refusal :=
  if s.plat.stuck || (s.portBusy core && !((s.core core).again cx op args)) then .next s
  else
    let s0 := s.onCore core (fun k =>
      { k with args := args.foldl (fun v a => v.set a.1 a.2) k.args, cmdCx := cx, busy := none })
    match f s0 with
    | .done s1 => .next (s1.onCore core (fun k => { k with stat := BitVec.ofNat 64 op }))
    | .refused => .next (s0.onCore core (fun k => { k with stat := BitVec.ofNat 64 (2 ^ 62 + op) }))
    | .retry s1 => .next (s1.onCore core (fun k => { k with busy := some (.command op) }))

/-- The thread is stopped by a trap until the executive acts on it (R346, R348). -/
def Ctx.stopped (c : Ctx) : Bool := c.run == .suspended || c.run == .held

/-! ### RESUME, REDIRECT, WAKE, STOP (R351, R353, R360) -/

/-- RESUME (R351): a trap of its checks is the thread's. -/
def execResume (core : BitVec 6) (cx : Cx) (s : State) : Host.Outcome State Fault Refusal :=
  let t : Tid := ⟨core, cx⟩
  command core cx 0x01 [] (fun s0 =>
    if (s0.ctx t).stopped then
      match returnFrom { s0 with cur := t } with
      | .ok s1 => .done { s1 with cur := s.cur }
      | .error (.trap s1 q) => .done ({ s1 with cur := s.cur }.takeTrap t q)
      | .error (.wait s1) => .retry { s1 with cur := s.cur }
      | .error (.abort _ _ _) => .retry s0
    else .refused) s

/-- REDIRECT (R353): a record given back to the instruction at the old PC is dropped. -/
def execRedirect (core : BitVec 6) (cx : Cx) (arg0 : BitVec 64) (s : State) : Host.Outcome State Fault Refusal :=
  let t : Tid := ⟨core, cx⟩
  command core cx 0x02 [(0, arg0)] (fun s0 =>
    .unless (s0.ctx t).stopped (s0.onCtx t (fun c =>
      { c.goOn (arg0 &&& ~~~(3#64)) with resumed := none, wfi := none }))) s

/-- WAKE (R125): without a `wfi` in progress it has no meaning. -/
def execWake (core : BitVec 6) (cx : Cx) (s : State) : Host.Outcome State Fault Refusal :=
  let t : Tid := ⟨core, cx⟩
  command core cx 0x06 [] (fun s0 =>
    .unless ((s0.ctx t).run == .running && (s0.ctx t).wfi.isSome)
      (s0.onCtx t (fun c => { c with wake := true }))) s

/-- STOP (R359, R360): the request waits for the thread; a suspended thread satisfies it (R347) once what it issued is
performed, its source `ldsl` instructions no longer counting and its running invocation cut. -/
def execStop (core : BitVec 6) (cx : Cx) (arg0 : BitVec 64) (s : State) : Host.Outcome State Fault Refusal :=
  let t : Tid := ⟨core, cx⟩
  command core cx 0x0B [(0, arg0)] (fun s0 =>
    let c := s0.ctx t
    if c.run == .free || !(decide (1 ≤ arg0.toNat) && decide (arg0.toNat ≤ 3)) then .refused
    else
      let s1 := if c.stopped then (s0.disownTiles t).cutFor t
        else s0.onCtx t (fun c => { c with preempt := some (c.preempt.getD arg0.toNat) })
      .done (s1.onCore core (fun k => { k with busy := some (.stop cx) }))) s

/-! ### Work that must be quiet before a context is saved or ended (R247, R361, R365) -/

/-- What a SAVE of a thread waits for, and with it, but for its stores, an END: its array work done, its running invocation
cut. None: all is quiet. -/
def State.unquiet (s : State) (t : Tid) (stores : Bool) : Option State :=
  let c := s.ctx t
  if if stores then c.still else c.mxJobs.isEmpty && !c.invRunning then none else some (s.cutFor t)

/-! ### SAVE and RESTORE (R361, R362) -/

/-- The bytes of a context image. -/
def contextImage (s : State) (t : Tid) (rpc board : Word) : List Byte :=
  let c := s.ctx t
  let w (x : Word) : List Byte := leBytes 8 x.toNat
  padTo 0x400 (
    (List.range 32).flatMap (fun r => w (c.G (BitVec.ofNat 5 r)))
    ++ (List.range 8).flatMap (fun r => leBytes 64 (c.M (BitVec.ofNat 3 r)).toNat)
    ++ (List.range 32).flatMap (fun r => leBytes 2 (c.fillOf r))
    ++ w rpc ++ ([0x000, 0x001, 0x002, 0x003, 0x018, 0x01B, 0x021].flatMap (fun n => w (s.sreg t n)))
    ++ w (BitVec.ofNat 64 (t.core.toNat + (match t.cx with | .n => 0 | .u => 2 ^ 8) + c.tenant.toNat * 2 ^ 16))
    ++ w board ++ w c.tframe ++ w (BitVec.ofNat 64 c.xfers.length))
  ++ padTo 0x200 (c.slots.toList.flatMap (fun b =>
      match b with
      | some b => padTo 16 (w b.image ++ leBytes 1 b.entry.toNat ++ leBytes 1 1)
      | none => List.replicate 16 0))
  ++ padTo 0x1000 (c.xfers.flatMap (fun x => x.record 0))
  ++ c.v.toList.flatMap (fun v => leBytes 512 v.toNat)

/-- The context after a SAVE: free for a grant, its copies in the table, the instance kept by the scheduler, with the addresses
of the instructions that issued the copies (R347). -/
def Ctx.parkedAt (c : Ctx) (area : Word) (rerun : Bool) : Ctx :=
  { c.freed with
    xfers := [], cp := 0, fabStop := none, declined := [], preempt := none, resumed := none, stepFx := none
    parked := (c.parked.filter (fun p => !(p.area == area && p.tenant == c.tenant)))
      ++ [⟨area, c.tenant, c.inst, c.yreq, c.cancel, c.fabStop, c.declined, c.resumed, c.issuedAt, c.cvtSrc, c.leftRows, c.stepFx,
        rerun,
        c.xfers.map Xfer.tpc⟩]
    issuedAt := [], cvtSrc := none, leftRows := [] }

/-- What a read of a thread's frame waits for, if it must (R343, R371, R372). -/
def State.frameReadWaits (s : State) (t : Tid) : Option State :=
  let fa := (s.ctx t).tframe
  if (regionOf fa).isSome then none
  else
    match s.walkWaits (s.ctx t).tenant fa with
    | some s1 => some s1
    | none => (s.framePlace t).bind (fun pa => s.heldUp (linesOf pa 256))

/-- The resume PC of a thread's frame (R361); the PC where the frame cannot be reached. -/
def State.frameRpc (s : State) (t : Tid) : Word :=
  match s.framePlace t with
  | some pa => s.dword (pa + 0x18)
  | none => (s.ctx t).pc

/-- SAVE (R247, R361). -/
def execSave (core : BitVec 6) (cx : Cx) (arg0 arg1 : BitVec 64) (s : State) : Host.Outcome State Fault Refusal :=
  let t : Tid := ⟨core, cx⟩
  command core cx 0x03 [(0, arg0), (1, arg1)] (fun s0 =>
    let c := s0.ctx t
    if !c.stopped || arg0.toNat % 256 != 0 || (c.board.isSome && arg1.toNat % 128 != 0) then .refused
    else
      match s0.unquiet t true with
      | some s1 => .retry s1
      | none =>
        match (if c.board.isSome then (s0.disownTiles t).saveBoard t arg1 else .done (s0.disownTiles t)) with
        | .fault _ _ => .refused
        | .wait s1 => .retry (s0.holdFrom s1)
        | .done s1 =>
          match s1.frameReadWaits t with
          | some s2 => .retry (s0.holdFrom s2)
          | none =>
            let bs := contextImage s1 t (s0.frameRpc t) (if c.board.isSome then arg1 else 0)
            match s1.imageWrite c.tenant (bs.length / 128 + 2) arg0 bs with
            | .fault _ _ => .refused
            | .wait s2 => .retry (s0.holdFrom s2)
            | .done s2 => .done (s2.onCtx t (fun k => k.parkedAt arg0 c.heldBare))) s

/-- The bits of `tstat` that are not reserved (R344). -/
def tstatBits : Word := 0xFFFCF1

/-- The registers, fill counts and slots of a context image in a context (R362); `vl` and `vstart` are written as R52
says, a fill count stays one that a register can hold (R46), and reserved bits read as zero (R50). TXA, which an image can
hold set though no transaction is open, is cleared (DEDUCED, log 45). -/
def Ctx.reload (c : Ctx) (b : List Byte) : Ctx :=
  let w (o : Nat) : Word := BitVec.ofNat 64 (numAt b o 8)
  let vt : BitVec 4 := BitVec.ofNat 4 (numAt b 0x350 8)
  { c with
    g := Vector.ofFn (fun (r : Fin 32) => if r.val = 0 then 0 else w (8 * r.val))
    v := Vector.ofFn (fun (r : Fin 32) => BitVec.ofNat 4096 (numAt b (0x1600 + 512 * r.val) 512))
    fill := Vector.ofFn (fun (r : Fin 32) => Nat.min 512 (numAt b (0x300 + 2 * r.val) 2))
    m := Vector.ofFn (fun (r : Fin 8) => if r.val = 0 then 0 else BitVec.ofNat 512 (numAt b (0x100 + 64 * r.val) 64))
    pc := w 0x340 &&& ~~~(3#64)
    vtype := vt, vl := capVl vt (numAt b 0x348 8 % 2 ^ 13), vstart := capVl vt (numAt b 0x358 8 % 2 ^ 13)
    fcsr := BitVec.ofNat 7 (numAt b 0x360 8)
    status := BitVec.ofNat 5 (numAt b 0x368 8) &&& 0b01111#5, tstat := w 0x370 &&& tstatBits
    lim2 := BitVec.ofNat 16 (numAt b 0x37E 2), lim1 := BitVec.ofNat 8 (numAt b 0x37B 1)
    tenant := BitVec.ofNat 5 (numAt b 0x382 1), tframe := w 0x390 &&& ~~~(0xFF#64)
    slots := Vector.ofFn (fun (n : Fin 16) =>
      if numAt b (0x409 + 16 * n.val) 1 = 1 then some ⟨w (0x400 + 16 * n.val), BitVec.ofNat 4 (numAt b (0x408 + 16 * n.val) 1)⟩
      else none)
    board := none, inv := none, run := .suspended, waiting := false, wfi := none, wake := false }

/-- The transfers of the copy table of a context's save image (R361). -/
def tableOf (b : List Byte) : List Xfer :=
  (List.range (numAt b 0x398 8)).map (fun i => xferOfRecord (bytesAt b (0x600 + 64 * i) 64) 0)

/-- Reissues the copy table's entries (R362): their handles are as SAVE left them, a fill's group is the one that the directory has
for its lines, and each comes from the instruction that issued it (R347); where SAVE kept no address for an entry, a free value
(DESIGN CHOICE, log 4). -/
def State.reissueTable (s : State) (t : Tid) (b : List Byte) (tpcs : List Word) : Nat → Nat → State
  | _, 0 => s
  | i, n + 1 =>
    let (pc, s1) := match tpcs[i]? with | some pc => (pc, s) | none => s.fresh
    (s1.addRecorded t (xferOfRecord (bytesAt b (0x600 + 64 * i) 64) pc)).reissueTable t b tpcs (i + 1) n

/-- What the scheduler holds for a saved instance, put back (R362). -/
def Ctx.unpark (c : Ctx) (p : Parked) : Ctx :=
  let c1 := { c with
    inst := p.inst, yreq := p.yreq, cancel := p.cancel, fabStop := p.fabStop, declined := p.declined
    resumed := p.resumed, issuedAt := p.issuedAt, cvtSrc := p.cvtSrc, leftRows := p.leftRows, stepFx := p.stepFx
    parked := c.parked.filter (fun q => !(q.area == p.area && q.tenant == p.tenant)) }
  if p.rerun then c1.resumeInv else c1

/-- The bits of `tcause` that are not reserved (R348). -/
def tcauseBits : Word := 0x18FFF

/-- `tcause`, `tpc` and `tval` of a thread at those of its frame (R349, R362); free values where it cannot be reached. The
reserved bits of `tcause` read as zero (R50). -/
def State.trapRegs (s : State) (t : Tid) : State :=
  match s.framePlace t with
  | some pa =>
    s.onCtx t (fun c => { c with tcause := s.dword pa &&& tcauseBits, tpc := s.dword (pa + 8), tval := s.dword (pa + 16) })
  | none =>
    let (a, s1) := s.fresh
    let (b, s2) := s1.fresh
    let (d, s3) := s2.fresh
    s3.onCtx t (fun c => { c with tcause := a &&& tcauseBits, tpc := b, tval := d })

/-- The saved instance of a context that an area holds; without one, nothing is held for it. -/
def Ctx.parkedIn (c : Ctx) (area : Word) : Parked :=
  (c.parked.find? (fun p => p.area == area)).getD ⟨area, c.tenant, none, false, false, none, [], none, [], none, [], none, false, []⟩

/-- RESTORE (R362). -/
def execRestore (core : BitVec 6) (cx : Cx) (arg0 : BitVec 64) (s : State) : Host.Outcome State Fault Refusal :=
  let t : Tid := ⟨core, cx⟩
  command core cx 0x04 [(0, arg0)] (fun s0 =>
    let c := s0.ctx t
    let p := c.parkedIn arg0
    if c.run != .free || arg0.toNat % 256 != 0 then .refused
    else
      match s0.imageBytes p.tenant arg0 0x5600 with
      | .fault _ _ => .refused
      | .wait s1 => .retry (s0.holdFrom s1)
      | .done (s1, b) =>
        let kind := match cx with | .n => 0 | .u => 1
        if !(numAt b 0x380 1 == core.toNat && numAt b 0x381 1 == kind && numAt b 0x382 1 == p.tenant.toNat
            && decide (numAt b 0x398 8 ≤ 64)) then .refused
        else
          match s1.setBoard t (fun c => c.reload b) with
          | .fault _ _ => .refused
          | .wait s2 => .retry (s0.holdFrom s2)
          | .done s2 =>
            match (tableOf b).findSome? (s2.recordWaits p.tenant) with
            | some s3 => .retry (s0.holdFrom s3)
            | none =>
            let s3 := s2.reissueTable t b p.tpcs 0 (numAt b 0x398 8)
            let s4 : Moved (State × Nat) :=
              if numAt b 0x388 8 = 0 then .done (s3, 0) else s3.restoreBoard t (BitVec.ofNat 64 (numAt b 0x388 8)) true
            match s4 with
            | .fault _ _ => .refused
            | .wait s5 => .retry (s0.holdFrom s5)
            | .done (s5, code) =>
              if code = 0 then
                match s5.frameReadWaits t with
                | some s6 => .retry (s0.holdFrom s6)
                | none => .done ((s5.onCtx t (fun c => c.unpark p)).trapRegs t)
              else .refused) s

/-! ### END (R363) -/

/-- The transfers of a thread discarded, their handles back in the states they left. -/
def State.discardXfers (s : State) (t : Tid) : State :=
  let s1 := (s.ctx t).xfers.foldl (fun s x => s.endXfer t x Handle.restore) s
  s1.onCtx t (fun c => { c with xfers := [], cp := 0 })

/-- The instance of a thread ends (R363): its source `ldsl` instructions and its held stores count for it no longer. -/
def State.endThread (s : State) (t : Tid) : State :=
  let s1 := (((s.disownTiles t).disownStores t).discardXfers t).onCtx t (fun c =>
    { c.dropHeld with pendTrap := none, fabStop := none, declined := [], preempt := none, resumed := none, stepFx := none
                      mxWait := none, pushWait := false, ld := 0, st := 0, mx := 0, fx := 0 })
  (s1.closeGroups t).endInstance t

/-- END (R363). -/
def execEndInstance (core : BitVec 6) (cx : Cx) (s : State) : Host.Outcome State Fault Refusal :=
  let t : Tid := ⟨core, cx⟩
  command core cx 0x05 [] (fun s0 =>
    if (s0.ctx t).stopped then
      match s0.unquiet t false with
      | some s1 => .retry s1
      | none => .done (s0.endThread t)
    else .refused) s

/-! ### Answers to notices (R240, R309) -/

/-- A position in which spilled elements of AGEN piece n are issued again, and AGENs that a full spill queue stopped go on
(R238, R240). -/
def Position.reissueOne (p : Position) (n : Nat) : Position :=
  { p with pieces := p.pieces.map (fun e =>
      (e.1, match e.2.kind with
        | .agen a => { e.2 with kind := .agen (if e.1 == n then a.reissue else { a with blocked := false }) }
        | _ => e.2)) }

/-- The oldest spilled element of the AGEN that an argument names, of a running invocation: the AGEN's number, the
address and the cause. -/
def Ctx.oldestSpill (c : Ctx) (arg0 : Word) : Option (Nat × Word × Nat) :=
  let n := arg0.toNat % 8
  match c.board.bind (fun p => p.agen (34 + n)) with
  | some a =>
    if c.invRunning then
      (a.accs.find? Access.isSpilled).map (fun x => (n, x.addr, match x.st with | .spilled k => k | _ => 0))
    else none
  | none => none

/-- AGEN_RESUME (R240). -/
def execAgenResume (core : BitVec 6) (cx : Cx) (arg0 : BitVec 64) (s : State) : Host.Outcome State Fault Refusal :=
  let t : Tid := ⟨core, cx⟩
  command core cx 0x07 [(0, arg0)] (fun s0 =>
    match (s0.ctx t).oldestSpill arg0 with
    | some (n, _, _) => .done (s0.onCtx t (fun c => { c with board := c.board.map (fun p => p.reissueOne (34 + n)) }))
    | none => .refused) s

/-- AGEN_DECLINE (R240). -/
def execAgenDecline (core : BitVec 6) (cx : Cx) (arg0 : BitVec 64) (s : State) : Host.Outcome State Fault Refusal :=
  let t : Tid := ⟨core, cx⟩
  command core cx 0x08 [(0, arg0)] (fun s0 =>
    match (s0.ctx t).oldestSpill arg0, (s0.ctx t).inv with
    | some (n, va, k), some v => .done (s0.stopInv t ⟨k, va, v.tpc, true, n, [], []⟩)
    | _, _ => .refused) s

/-- COPY_RESUME (R309). -/
def execCopyResume (core : BitVec 6) (cx : Cx) (arg0 : BitVec 64) (s : State) : Host.Outcome State Fault Refusal :=
  let t : Tid := ⟨core, cx⟩
  command core cx 0x09 [(0, arg0)] (fun s0 =>
    match (s0.ctx t).noticed arg0 with
    | some x => .done (s0.onCtx t (fun c => c.resumeXfer x))
    | none => .refused) s

/-- COPY_DECLINE (R309). -/
def execCopyDecline (core : BitVec 6) (cx : Cx) (arg0 : BitVec 64) (s : State) : Host.Outcome State Fault Refusal :=
  let t : Tid := ⟨core, cx⟩
  command core cx 0x0A [(0, arg0)] (fun s0 =>
    match (s0.ctx t).noticed arg0 with
    | some x =>
      match x.faulted with
      | some (k, va) => .done (s0.declineXfer t x k va)
      | none => .refused
    | none => .refused) s

/-- REPLY (R241, R380): the oldest request that awaits one gets its tokens from memory. -/
def execReply (core : BitVec 6) (cx : Cx) (arg0 : BitVec 64) (s : State) : Host.Outcome State Fault Refusal :=
  let t : Tid := ⟨core, cx⟩
  command core cx 0x15 [(0, arg0)] (fun s0 =>
    match (s0.ctx t).inv with
    | some v =>
      match v.svc.due with
      | n :: ds =>
        if n != 0 && (!(devPlace arg0.toNat (4 * n)) || s0.poisoned arg0.toNat (4 * n)) then .refused
        else
          match s0.agentRead arg0.toNat (4 * n) with
          | (s1, none) => .retry (s0.holdFrom s1)
          | (s1, some bs) =>
            let ts := (cut 4 bs n).map (fun w => BitVec.ofNat 32 (leNat w))
            .done (s1.onCtx t (fun c =>
              { c with inv := some { v with svc := { v.svc with due := ds, replies := v.svc.replies ++ [ts] } } }))
      | [] => .refused
    | none => .refused) s

/-! ### INVALIDATE (R242, R358) -/

/-- A position that takes a re-latch token: at once while its invocation does not run; otherwise each AGEN with BIND 1
holds it behind the elements issued before it (R242). -/
def Ctx.relatchAll (c : Ctx) : Ctx :=
  if c.invRunning then
    { c with board := c.board.map (fun p => { p with pieces := p.pieces.map (fun e =>
        (e.1, match e.2.kind, p.image.piece e.1 with
          | .agen a, some r =>
            if r.pf 0 6 5 == 1 then { e.2 with kind := .agen { a with relatch := some (a.relatch.getD a.next) } } else e.2
          | _, _ => e.2)) }) }
  else { c with board := c.board.map Position.relatched }

/-- The open transactions of an address space that hold stores are noted: an INVALIDATE waits for their ends. -/
def State.noteStores (s : State) (ten : BitVec 5) : State :=
  { s with txs := s.txs.map (fun p =>
      if (s.ctx p.1).tenant == ten && !p.2.writes.isEmpty then (p.1, { p.2 with old := true }) else p) }

/-- INVALIDATE for the context that the command word names (R242, R358): this model keeps no cached translation but the page bases
of AGENs. It completes once the open transactions of the address space that already hold stores have ended, of whatever range
(R339; DEDUCED, log 46). -/
def invalidateBy (core : BitVec 6) (cx : Cx) (arg0 arg1 arg2 arg3 : BitVec 64) (s : State) : Host.Outcome State Fault Refusal :=
  command core cx 0x10 [(0, arg0), (1, arg1), (2, arg2), (3, arg3)] (fun s0 =>
    if 16 < arg2.toNat then .refused
    else
      let ten : BitVec 5 := arg2.extractLsb' 0 5
      let s1 := s0.noteStores ten
      if arg3.getLsbD 0 then
        let s2 := (allTids.filter (fun t => (s1.ctx t).tenant == ten && (s1.ctx t).board.isSome)).foldl
          (fun s t => s.onCtx t Ctx.relatchAll) s1
        .done (s2.onCore core (fun k => { k with busy := some (.invalidate ten) }))
      else if s1.oldStores ten then .done (s1.onCore core (fun k => { k with busy := some (.invalidate ten) }))
      else .done s1) s

/-- INVALIDATE: its row of the opcode table names no context, and stands for context N. -/
def execInvalidate (core : BitVec 6) (arg0 arg1 arg2 arg3 : BitVec 64) (s : State) : Host.Outcome State Fault Refusal :=
  invalidateBy core .n arg0 arg1 arg2 arg3 s

/-! ### Settings of a context and a core -/

/-- The executive has set an item of what it sets before hosts and launches are admitted (R381, step 5). -/
def State.isSet (s : State) (n : Nat) : State := { s with plat := { s.plat with toSet := NatSet.del s.plat.toSet n } }

/-- The item of a context's `tframe`. -/
def frameItem (core : BitVec 6) (cx : Cx) : Nat := 64 + 2 * core.toNat + (match cx with | .n => 0 | .u => 1)

/-- SET_TFRAME (R348). -/
def execSetTframe (core : BitVec 6) (cx : Cx) (arg0 : BitVec 64) (s : State) : Host.Outcome State Fault Refusal :=
  command core cx 0x11 [(0, arg0)] (fun s0 =>
    .done ((s0.onCtx ⟨core, cx⟩ (fun c => { c with tframe := arg0 &&& ~~~(0xFF#64) })).isSet (frameItem core cx))) s

/-- The handle that an instruction names, if any. -/
def namesHandle : Instr → List (BitVec 6)
  | .copy _ _ _ h | .drain _ _ _ h | .drainR _ _ _ h | .hwait _ h | .hrel _ h | .hrelP _ h | .hstat _ h
  | .lds _ _ _ h | .ldsC _ _ _ h | .mmavL6 _ _ h | .mmavI8 _ _ h | .mmavBf16 _ _ h | .mzero _ _ h
  | .finit _ _ h | .fscale _ _ h | .fupd _ _ h | .fdnd _ _ h | .fdndS _ _ _ h | .fsolt _ _ h | .fsoln _ _ h
  | .fdiag _ _ h => [h]
  | .vldb _ _ h _ _ j | .vldbC _ _ h _ _ j | .vstb _ _ h _ _ j => [j ++ h]
  | .ldsl _ _ _ _ _ _ _ _ h => [h]
  | .mmab _ _ _ _ _ _ _ ha hc => [ha, hc]
  | _ => []

/-- An instruction names the handle: one that a thread of the core waits in, or one whose array work is not done. -/
def State.handleNamed (s : State) (core : BitVec 6) (h : BitVec 6) : Bool :=
  [Cx.n, Cx.u].any (fun x =>
    let t : Tid := ⟨core, x⟩
    let c := s.ctx t
    c.mxJobs.any (fun j => j.handles.contains h)
      || (c.run == .running && c.waiting &&
        match s.fetchWords t c.pc with
        | .ok (w, w2) => match decode w w2 with | .ok i => (namesHandle i).contains h | .error _ => false
        | .error _ => false))

/-- A handle from ARG1 of operation 0x12 (R379); none where it is refused. -/
def handleEntry (a : Word) : Option Handle :=
  let buf : Option Buf := match (a.extractLsb' 43 2).toNat with | 1 => some .w | 2 => some .a | 3 => some .c | _ => none
  let off := a.extractLsb' 24 14
  let size := a.extractLsb' 9 15
  let ten := a.extractLsb' 48 5
  if !(a.getLsbD 63) then some Handle.reset
  else
    match buf with
    | some b =>
      if 1 ≤ size.toNat && size.toNat ≤ 16384 && ten.toNat ≤ 16 && 64 * (off.toNat + size.toNat) ≤ bufSize b then
        some { Handle.reset with buf := some b, offb := off, sizeb := size, ten := ten }
      else none
    | none => none

/-- WRITE_HANDLE_ENTRY for the context that the command word names (R379). -/
def writeHandleEntryBy (core : BitVec 6) (cx : Cx) (arg0 arg1 : BitVec 64) (s : State) : Host.Outcome State Fault Refusal :=
  command core cx 0x12 [(0, arg0), (1, arg1)] (fun s0 =>
    let h : BitVec 6 := arg0.extractLsb' 0 6
    let st := ((s0.core core).handle h).st
    match handleEntry arg1 with
    | some x =>
      .unless ((st == .free || st == .spent) && !(s0.handleNamed core h)) (s0.onCore core (fun k => k.setHandle h x))
    | none => .refused) s

/-- WRITE_HANDLE_ENTRY: its row of the opcode table names no context, and stands for context N. -/
def execWriteHandleEntry (core : BitVec 6) (arg0 arg1 : BitVec 64) (s : State) : Host.Outcome State Fault Refusal :=
  writeHandleEntryBy core .n arg0 arg1 s

/-- WRITE_RESIDENT_ENTRY (R355). -/
def execWriteResidentEntry (core : BitVec 6) (cx : Cx) (arg0 arg1 : BitVec 64) (s : State) :
    Host.Outcome State Fault Refusal :=
  command core cx 0x13 [(0, arg0), (1, arg1)] (fun s0 =>
    let e := arg1 &&& 0xFFFFFFFFFC000000#64
    .unless (decide (arg0.toNat < 8192) && arg1.extractLsb' 52 8 == 0) (s0.onCtx ⟨core, cx⟩ (fun c =>
      { c with vrt := if e == 0 then Tbl.drop c.vrt arg0.toNat else Tbl.put c.vrt arg0.toNat e }))) s

/-- SET_PIPQ_QUOTA (R304). -/
def execSetPipqQuota (core : BitVec 6) (cx : Cx) (arg0 : BitVec 64) (s : State) : Host.Outcome State Fault Refusal :=
  command core cx 0x14 [(0, arg0)] (fun s0 =>
    .done (s0.onCtx ⟨core, cx⟩ (fun c => { c with quota := arg0.extractLsb' 0 16 }))) s

/-- SET_OCCL_LIMITS (R294). -/
def execSetOcclLimits (core : BitVec 6) (cx : Cx) (arg0 : BitVec 64) (s : State) : Host.Outcome State Fault Refusal :=
  command core cx 0x1B [(0, arg0)] (fun s0 =>
    .done (s0.onCtx ⟨core, cx⟩ (fun c => { c with lim2 := arg0.extractLsb' 48 16, lim1 := arg0.extractLsb' 24 8 }))) s

/-- READ_DIRECTORY_ENTRY for the context that the command word names (R292): a slice holds no entry of a line homed elsewhere. -/
def readDirectoryEntryBy (core : BitVec 6) (cx : Cx) (arg0 : BitVec 64) (s : State) : Host.Outcome State Fault Refusal :=
  command core cx 0x16 [(0, arg0)] (fun s0 =>
    let w := if homeCore arg0.toNat == core then (s0.dirOf (lineOf arg0.toNat)).word else 0
    .done (s0.onCore core (fun k => { k with args := k.args.set 1 w }))) s

/-- READ_DIRECTORY_ENTRY: its row of the opcode table names no context, and stands for context N. -/
def execReadDirectoryEntry (core : BitVec 6) (arg0 : BitVec 64) (s : State) : Host.Outcome State Fault Refusal :=
  readDirectoryEntryBy core .n arg0 s

/-! ### Notices (R352) -/

/-- Writes the notices that wait, while the ring has room and the access to its next entry need not wait. -/
def State.flushNotices (s : State) (core : BitVec 6) : List (List Byte) → State
  | [] => s.onCore core (fun k => { k with notices := [] })
  | b :: bs =>
    if (s.core core).ringFull || ((s.gate none (s.core core).noticeAt 64 true).held).isSome then
      s.onCore core (fun k => { k with notices := b :: bs })
    else (s.writeNotice core b).flushNotices core bs

/-- ADVANCE_NOTICE_HEAD for the context that the command word names (R352, R378). -/
def advanceNoticeHeadBy (core : BitVec 6) (cx : Cx) (arg0 : BitVec 64) (s : State) : Host.Outcome State Fault Refusal :=
  command core cx 0x17 [(0, arg0)] (fun s0 =>
    let k := s0.core core
    let h : BitVec 32 := arg0.extractLsb' 0 32
    if (h - k.head).toNat ≤ (k.tail - k.head).toNat then
      .done ((s0.onCore core (fun k => { k with head := h })).flushNotices core k.notices)
    else .refused) s

/-- ADVANCE_NOTICE_HEAD: its row of the opcode table names no context, and stands for context N. -/
def execAdvanceNoticeHead (core : BitVec 6) (arg0 : BitVec 64) (s : State) : Host.Outcome State Fault Refusal :=
  advanceNoticeHeadBy core .n arg0 s

/-- SET_TVEC for the context that the command word names (R352). -/
def setTvecBy (core : BitVec 6) (cx : Cx) (arg0 : BitVec 64) (s : State) : Host.Outcome State Fault Refusal :=
  command core cx 0x1A [(0, arg0)] (fun s0 =>
    if arg0.toNat % 0x10000 != 0 || !(populated arg0.toNat && populated (arg0.toNat + 0xFFFF)) then .refused
    else
      .done (((s0.onCore core (fun k => { k with tvec := arg0, tail := 0, head := 0 })).flushNotices core
        (s0.core core).notices).isSet core.toNat)) s

/-- SET_TVEC: its row of the opcode table names no context, and stands for context N. -/
def execSetTvec (core : BitVec 6) (arg0 : BitVec 64) (s : State) : Host.Outcome State Fault Refusal :=
  setTvecBy core .n arg0 s

/-! ### Device-wide settings -/

/-- CLEAR_ORPHAN_MARKS for the context that the command word names (R375). -/
def clearOrphanMarksBy (core : BitVec 6) (cx : Cx) (arg0 : BitVec 64) (s : State) : Host.Outcome State Fault Refusal :=
  command core cx 0x18 [(0, arg0)] (fun s0 =>
    .unless (decide (arg0.toNat ≤ 1)) { s0 with host := { s0.host with
      orphans := s0.host.orphans.filter (fun l => hostPortOf (l * 128) != some (arg0.extractLsb' 0 1)) } }) s

/-- CLEAR_ORPHAN_MARKS: its row of the opcode table names no context, and stands for context N. -/
def execClearOrphanMarks (core : BitVec 6) (arg0 : BitVec 64) (s : State) : Host.Outcome State Fault Refusal :=
  clearOrphanMarksBy core .n arg0 s

/-- SET_PAGE_TABLE_ROOT for the context that the command word names (R356). -/
def setPageTableRootBy (core : BitVec 6) (cx : Cx) (arg0 arg2 : BitVec 64) (s : State) : Host.Outcome State Fault Refusal :=
  command core cx 0x19 [(0, arg0), (2, arg2)] (fun s0 =>
    .unless (decide (arg2.toNat ≤ 16))
      { s0 with roots := s0.roots.set (arg2.toNat % 17) arg0 (Nat.mod_lt _ (by decide)) }) s

/-- SET_PAGE_TABLE_ROOT: its row of the opcode table names no context, and stands for context N. -/
def execSetPageTableRoot (core : BitVec 6) (arg0 arg2 : BitVec 64) (s : State) : Host.Outcome State Fault Refusal :=
  setPageTableRootBy core .n arg0 arg2 s

/-- The bits of pages written into a bias table, on the SV path at the home slices; none while one of them must wait. -/
def State.writeBias (s : State) (base : Nat) : List (Nat × BitVec 2) → State × Bool
  | [] => (s, true)
  | (page, b) :: ps =>
    match s.putBias base page b with
    | (s1, true) => s1.writeBias base ps
    | r => r

/-- SET_BIAS_TABLE_BASE for the context that the command word names (R371): the bits of every page that are not zero are written at the new base. -/
def setBiasTableBaseBy (core : BitVec 6) (cx : Cx) (arg0 : BitVec 64) (s : State) : Host.Outcome State Fault Refusal :=
  command core cx 0x1C [(0, arg0)] (fun s0 =>
    let h := s0.host
    let ok := arg0.toNat % 4096 == 0 && populated arg0.toNat && h.flips.isEmpty && !(h.bias.any (fun p => p.2.getLsbD 0))
    if !ok then .refused
    else
      match ({ s0 with host := { h with biasBase := arg0 } } : State).writeBias arg0.toNat h.bias with
      | (s1, true) => .done (s1.isSet 192)
      | (s1, false) => .retry (s0.holdFrom s1)) s

/-- SET_BIAS_TABLE_BASE: its row of the opcode table names no context, and stands for context N. -/
def execSetBiasTableBase (core : BitVec 6) (arg0 : BitVec 64) (s : State) : Host.Outcome State Fault Refusal :=
  setBiasTableBaseBy core .n arg0 s

/-- SET_ORPHAN_AREA for the context that the command word names (R375): the area starts with an empty header. -/
def setOrphanAreaBy (core : BitVec 6) (cx : Cx) (arg0 arg1 : BitVec 64) (s : State) : Host.Outcome State Fault Refusal :=
  command core cx 0x1D [(0, arg0), (1, arg1)] (fun s0 =>
    if !(arg0.toNat % 4096 == 0 && populated arg0.toNat && populated (arg0.toNat + 0x100 + 256 * arg1.toNat - 1)) then .refused
    else
      match s0.agentWrite arg0.toNat (padTo 256 (leBytes 8 0 ++ leBytes 8 arg1.toNat)) with
      | (s1, true) => .done ({ s1 with host := { s1.host with orphanBase := arg0, orphanCap := arg1.toNat } }.isSet 193)
      | (s1, false) => .retry (s0.holdFrom s1)) s

/-- SET_ORPHAN_AREA: its row of the opcode table names no context, and stands for context N. -/
def execSetOrphanArea (core : BitVec 6) (arg0 arg1 : BitVec 64) (s : State) : Host.Outcome State Fault Refusal :=
  setOrphanAreaBy core .n arg0 arg1 s

/-- ASSIGN_JOB for the context that the command word names (R17): the level objects of the job are done with. -/
def assignJobBy (core : BitVec 6) (cx : Cx) (arg0 arg2 : BitVec 64) (s : State) : Host.Outcome State Fault Refusal :=
  command core cx 0x1E [(0, arg0), (2, arg2)] (fun s0 =>
    let j := arg0.toNat
    let busy := s0.slots.any (fun p =>
      match p.2.launch with
      | some l => l.job.toNat == j && !l.state.isFinal
      | none => false)
    .unless (decide (j < 256) && decide (arg2.toNat ≤ 16) && !busy)
      { s0 with
        jobs := Tbl.put s0.jobs j ⟨arg2.extractLsb' 0 5, 0⟩
        graphs := s0.graphs.filter (fun p => p.1 / 2 ^ 32 != j)
        phases := s0.phases.filter (fun p => p.1 / 2 ^ 16 != j)
        jobObjs := Tbl.drop s0.jobObjs j }) s

/-- ASSIGN_JOB: its row of the opcode table names no context, and stands for context N. -/
def execAssignJob (core : BitVec 6) (arg0 arg2 : BitVec 64) (s : State) : Host.Outcome State Fault Refusal :=
  assignJobBy core .n arg0 arg2 s

/-- RESUME_QUEUE for the context that the command word names (R30): the queue is OPEN, and the launch's queues settle again.
A queue that was closed before its fault, or by `qclose` or a store of 1 while FAULTED, is OPEN after the resume: the close is
forgotten, unless its feeding stages are all complete and close it again (DESIGN CHOICE, log 62: R30 and R37 do not say). -/
def resumeQueueBy (core : BitVec 6) (cx : Cx) (arg0 arg1 : BitVec 64) (s : State) : Host.Outcome State Fault Refusal :=
  command core cx 0x1F [(0, arg0), (1, arg1)] (fun s0 =>
    match s0.named arg0 with
    | some (n, l) =>
      match l.queue arg1.toNat with
      | some q => .unless q.faulted
          ((s0.onLaunch n (fun l => l.setQueue arg1.toNat { q with faulted := false, closed := false }.refill)).settleLaunch n)
      | none => .refused
    | none => .refused) s

/-- RESUME_QUEUE: its row of the opcode table names no context, and stands for context N. -/
def execResumeQueue (core : BitVec 6) (arg0 arg1 : BitVec 64) (s : State) : Host.Outcome State Fault Refusal :=
  resumeQueueBy core .n arg0 arg1 s

/-! ### COMPL (R377) -/

/-- A vector instruction or `mmab` of the context is part-way: the lanes or the array have work of it still to do. -/
def Ctx.partWay (c : Ctx) : Bool :=
  c.run == .running &&
    match c.resumed with
    | some (.vector p ..) | some (.matrix p ..) => p != .given
    | _ => false

/-- COMPL: the read waits until the last command is complete and the core's lanes, array, transfer unit and board hold no work
of its context. -/
def execCompl (core : BitVec 6) (s : State) : Host.Outcome State Fault Refusal :=
  let c := s.ctx ⟨core, (s.core core).cmdCx⟩
  if s.portBusy core || c.partWay || !c.mxJobs.isEmpty || !c.xfers.isEmpty || c.invRunning then .next s
  else .next { s with host := { s.host with data := leBytes 8 (s.core core).stat.toNat } }

end Sys2Proof.Machine
end

