-- ==== Sys2Proof/Machine/Scheduler.lean ====
section
/-! DEFINITION. Steps of the stage schedulers and of the queues (R14, R15, R21 to R30), and the time limits of a cancelled
instance (R40) and of a `wfi` (R125). -/

namespace Sys2Proof.Machine

/-! ### HELD to RUNNING (R14, R15) -/

/-- A HELD launch whose predecessors have finished and whose phase is current (R15): only queue SRAM may hold it. -/
def State.launchReady (s : State) (l : Launch) : Bool :=
  l.state == .held && l.waitcnt == 0 && l.phase == (s.job l.job).phase

/-- The on-chip entries that a launch's queues occupy (R14). -/
def Launch.sram (l : Launch) : Nat := (l.queues.map Queue.onchip).sum

/-- The launches of the device. -/
def State.launches (s : State) : List Launch := s.slots.filterMap (fun p => p.2.launch)

/-- The queue SRAM in use on a die (R14). -/
def State.sramUsed (s : State) (die : BitVec 2) : Nat :=
  ((s.launches.filter (fun l => l.die == die && l.state == .running)).map Launch.sram).sum

/-- A launch enters RUNNING now: it is ready, no launch of its die accepted before it waits for queue SRAM, and its queues
fit (R14, R15). -/
def State.mayRun (s : State) (l : Launch) : Bool :=
  s.launchReady l
    && !(s.launches.any (fun k => k.die == l.die && decide (k.order < l.order) && s.launchReady k))
    && decide (s.sramUsed l.die + l.sram ≤ 32768)

/-- LAUNCH_RUN (R14, R15). -/
def execLaunchRun (slot : BitVec 10) (s : State) : Host.Outcome State Fault Refusal :=
  match s.launchAt slot.toNat with
  | some l =>
    .next (if s.mayRun l then
      (s.onLaunch slot.toNat (fun l => { l with state := .running })).settleLaunch slot.toNat else s)
  | none => .next s

/-! ### Eligibility and grants (R22 to R27) -/

/-- A stage is eligible (R22): its input queue holds an entry that no instance has reserved. -/
def Launch.eligible (l : Launch) (st : Stage) : Bool :=
  l.state == .running && !l.cancelling
    && (match l.queue st.inq with | some q => q.unreserved != 0 | none => false)
    && (l.queues.mapIdx (fun i q => !(st.outmask.getLsbD i) || decide (q.held < q.hwm))).all id
    && decide (st.running < st.maxctx)

/-- The stage's effective priority (R24). -/
def Stage.effective (st : Stage) : Nat := Nat.min 3 (st.prio.toNat + st.aged)

/-- A placement range holds an address (R25, R26). -/
def PmapEntry.holds (e : PmapEntry) (a : Word) : Bool :=
  decide (e.base.toNat ≤ a.toNat) && decide (a.toNat < e.base.toNat + 4096 * e.pages)

/-- The address of a place of the spill area: the area is used as a ring of 16-byte places from its start, which R29 leaves
open (DESIGN CHOICE, log 62). -/
def Queue.spillAt (q : Queue) (i : Nat) : Word := q.spill + BitVec.ofNat 64 (16 * (i % q.spillcap))

/-- The first unreserved entry of a queue as the scheduler sees it, in the die's SRAM or in the spill area (R25); none where
the spill area cannot be read, or cannot be read yet. -/
def State.firstEntry (s : State) (ten : BitVec 5) (q : Queue) : Option (BitVec 128) :=
  match q.head with
  | some e => some e
  | none =>
    match s.unitReads ten (q.spillAt q.spillPos) 16 true with
    | .done (_, bs, _) => some (BitVec.ofNat 128 (leNat bs))
    | .fault _ _ | .wait _ => none

/-- The die in whose range of the placement map an entry's address falls, if any (R25). -/
def Launch.dieFor (l : Launch) (e : BitVec 128) : Option (BitVec 2) :=
  (l.pmap.find? (fun p => p.holds (e.extractLsb' 0 64))).map PmapEntry.die

/-- The die that the placement map gives the stage's first unreserved entry, if any (R25). -/
def State.placed (s : State) (l : Launch) (st : Stage) : Option (BitVec 2) :=
  ((l.queue st.inq).bind (s.firstEntry l.tenant)).bind l.dieFor

/-- The stage is offered to a die (R25): where its map asks for an entry that is not read, to none yet. -/
def State.offeredTo (s : State) (l : Launch) (st : Stage) (die : BitVec 2) : Bool :=
  st.offered || l.pmap.isEmpty ||
    match (l.queue st.inq).bind (s.firstEntry l.tenant) with
    | some e => (l.dieFor e).all (· == die)
    | none => false

/-- The first unreserved entry of the stage can be had now: a FAULTED queue gives no spilled one (R30). -/
def Launch.reachable (l : Launch) (st : Stage) : Bool :=
  match l.queue st.inq with
  | some q => q.head.isSome || !q.faulted
  | none => false

/-- The lowest-numbered free context of a kind on a die (R23). -/
def State.freeCtx (s : State) (die : BitVec 2) (x : Cx) : Option Tid :=
  ((allCores.filter (fun c => dieOf c == die)).find? (fun c => ((s.core c).ctx x).run == .free)).map (⟨·, x⟩)

/-- The kind of context that a stage's instances run in (R11). -/
def Stage.cx (st : Stage) : Cx := if st.urgent then .u else .n

/-- A stage that may be granted: its combined index (R23), its launch and itself. -/
structure Candidate where
  index : Nat
  slot  : Nat
  num   : Nat
  launch : Launch
  stage : Stage
deriving DecidableEq, Repr

/-- The stages that a die may grant now: eligible, offered to it, and with a free context of their kind (R22, R23, R25,
R30). -/
def State.candidates (s : State) (die : BitVec 2) : List Candidate :=
  s.slots.flatMap (fun p =>
    match p.2.launch with
    | some l =>
      (l.stages.zipIdx.filter (fun e => l.eligible e.1 && l.reachable e.1 && s.offeredTo l e.1 die && (s.freeCtx die e.1.cx).isSome)).map
        (fun e => ⟨p.1 * 16 + e.2, p.1, e.2, l, e.1⟩)
    | none => [])

/-- The stage is in class A (R22). -/
def Candidate.classA (c : Candidate) : Bool := decide (c.stage.running < c.stage.minctx)

/-- The rank of a candidate on a die, the lowest granted (R23): class A first, then the highest effective priority, then
the first index at or after that priority's pointer. -/
def Candidate.rank (c : Candidate) (s : State) (die : BitVec 2) : Nat :=
  let e := c.stage.effective
  let ptr := (s.rr[(die.toNat * 4 + e) % 16]'(Nat.mod_lt _ (by decide))).toNat
  (if c.classA then 0 else 65536) + (3 - e) * 16384 + (c.index + 16384 - ptr) % 16384

/-- The candidate with the least rank. -/
def leastRank (s : State) (die : BitVec 2) : List Candidate → Option Candidate
  | [] => none
  | c :: cs =>
    match leastRank s die cs with
    | some d => if d.rank s die < c.rank s die then some d else some c
    | none => some c

/-- The context of an instance that a grant starts (R27): entry is what it reserves. `pipq` QUOTA stays as it is until the
executive sets it under R304, which does not say what it holds until then (DESIGN CHOICE, log 62). -/
def Ctx.granted (c : Ctx) (k : Candidate) (gen : BitVec 22) (entry : BitVec 128) : Ctx :=
  let l := k.launch
  let d := c.dropHeld
  let g0 : Vector Word 32 := Vector.replicate 32 0
  let args := ((((g0.set 1 ((launchId gen k.slot).zeroExtend 64)).set 2 (BitVec.ofNat 64 k.num)).set 3 l.arg).set 4
    l.record)
  let slots := k.stage.binds.foldl (fun v b => v.set b.slot.toNat (some (Binding.mk b.image b.entry)) b.slot.isLt)
    (Vector.replicate 16 (none : Option Binding))
  { d with
    g := args, v := Vector.replicate 32 0, fill := Vector.replicate 32 0, m := Vector.replicate 8 0
    pc := k.stage.entry, vl := 0, vtype := 0, vstart := 0, fcsr := 0, status := 0
    tstat := 0, tcause := 0, tpc := 0, tval := 0, yreq := false, cancel := false
    tenant := l.tenant, slots := slots
    board := if d.tenant == l.tenant then d.board else none
    run := .running, waiting := false, wfi := none, wake := false
    inst := some ⟨BitVec.ofNat 10 k.slot, gen, k.num, some entry, false, none⟩
    pendTrap := none, fabStop := none, declined := [], preempt := none, mxWait := none, pushWait := false, resumed := none,
    issuedAt := [], cvtSrc := none, leftRows := [], stepFx := none }

/-- The stage after a grant (R24, R25). -/
def Stage.grantedOne (st : Stage) : Stage := { st with running := st.running + 1, aged := 0, offered := false }

/-- A grant of a candidate to a context (R23, R27): e is the entry that it reserves, q the queue without it. -/
def State.grant (s : State) (die : BitVec 2) (k : Candidate) (t : Tid) (e : BitVec 128) (q : Queue) : State :=
  let gen := (s.slot k.slot).gen
  let s1 := s.onLaunch k.slot (fun l =>
    { l.setQueue k.stage.inq { q with reserved := q.reserved + 1 } with
      stages := l.stages.mapIdx (fun i st => if i == k.num then st.grantedOne else st) })
  let i := (die.toNat * 4 + k.stage.effective) % 16
  let s2 := { s1 with rr := s1.rr.set i (BitVec.ofNat 14 (k.index + 1)) (Nat.mod_lt _ (by decide)) }
  s2.onCtx t (fun c => c.granted k gen e)

/-- A spill transfer faults (R30): the queue is FAULTED and a QFAULT notice is sent; the transfer waits while its notice
must (R352). -/
def State.queueFault (s : State) (slot q : Nat) (l : Launch) (x : Queue) (va : Word) : State :=
  match s.noticeWaits (l.die ++ 0#4) with
  | some s1 => s.holdFrom s1
  | none =>
    (s.onLaunch slot (fun l => l.setQueue q { x with faulted := true })).dieNotify l.die l.tenant 7
      ((launchId (s.slot slot).gen slot).zeroExtend 64) (BitVec.ofNat 64 q) va []

/-- The scheduler of a die must read a stage's first unreserved entry in the spill area to place the stage (R25). -/
def State.mustLook (s : State) (die : BitVec 2) (l : Launch) (st : Stage) : Bool :=
  l.eligible st && l.reachable st && !l.pmap.isEmpty && !st.offered && (s.freeCtx die st.cx).isSome
    && (match l.queue st.inq with | some q => q.head.isNone | none => false)

/-- The scheduler of a die reads that entry of stage num of slot n: the read waits, or its fault leaves the queue FAULTED, as those of
any spill read (R30, R371, R372, R375). -/
def State.lookAt (s : State) (die : BitVec 2) (n num : Nat) : State :=
  match s.launchAt n with
  | none => s
  | some l =>
    match l.stages[num]? with
    | none => s
    | some st =>
      match s.mustLook die l st, l.queue st.inq with
      | true, some q =>
        match s.unitReads l.tenant (q.spillAt q.spillPos) 16 true with
        | .fault _ a => s.queueFault n st.inq l q a
        | .wait s1 => s.holdFrom s1
        | .done (s1, _, _) => s1
      | _, _ => s

/-- The state once the scheduler of a die has read what it needs to place stages, as far as it can be read now. -/
def State.lookAll (s : State) (die : BitVec 2) : State :=
  s.slots.foldl (fun s p =>
    match p.2.launch with
    | some l => (List.range l.stages.length).foldl (fun s num => s.lookAt die p.1 num) s
    | none => s) s

/-- What a grant reserves (R27, R29): the head unreserved entry, read from the spill area where it stands there; the state
of a read that faults or must wait. -/
def State.takeEntry (s : State) (k : Candidate) (q : Queue) : Except State (State × BitVec 128 × Queue) :=
  match q.head with
  | some e => .ok (s, e, q.behead)
  | none =>
    match s.unitReads k.launch.tenant (q.spillAt q.spillPos) 16 true with
    | .fault _ a => .error (s.queueFault k.slot k.stage.inq k.launch q a)
    | .wait s1 => .error (s.holdFrom s1)
    | .done (s1, bs, _) =>
      .ok (s1, BitVec.ofNat 128 (leNat bs), { q with spilled := q.spilled - 1, spillPos := (q.spillPos + 1) % q.spillcap })

/-- The context is ready for a tenant's instance (R27): a position of another tenant leaves it, once its CACHE tiles can be
emptied (R216). -/
def State.vacate (s : State) (t : Tid) (ten : BitVec 5) : Option State :=
  if (s.ctx t).tenant == ten then some s else s.emptyWays t

/-- A grant of the best stage that the scheduler of a die finds (R23, R27). -/
def State.grantBest (s : State) (die : BitVec 2) : Host.Outcome State Fault Refusal :=
  match leastRank s die (s.candidates die) with
  | some k =>
    match s.freeCtx die k.stage.cx, k.launch.queue k.stage.inq with
    | some t, some q =>
      match s.takeEntry k q with
      | .ok (s1, e, q1) =>
        match s1.vacate t k.launch.tenant with
        | some s2 => .next (s2.grant die k t e q1)
        | none => .next s
      | .error s1 => .next s1
    | _, _ => .next s
  | none => .next s

/-- STAGE_GRANT (R23, R25, R27). -/
def execStageGrant (die : BitVec 2) (s : State) : Host.Outcome State Fault Refusal := (s.lookAll die).grantBest die

/-- The outcome of a step of a stage that is eligible; otherwise nothing happens. -/
def onEligible (slot : BitVec 10) (stage : BitVec 4) (s : State) (f : Launch → Stage → Stage) :
    Host.Outcome State Fault Refusal :=
  match s.launchAt slot.toNat with
  | some l =>
    match l.stages[stage.toNat]? with
    | some st =>
      .next (if l.eligible st then s.onLaunch slot.toNat (fun l => { l with stages := l.stages.set stage.toNat (f l st) })
        else s)
    | none => .next s
  | none => .next s

/-- PRIORITY_AGING (R24). -/
def execPriorityAging (slot : BitVec 10) (stage : BitVec 4) (s : State) : Host.Outcome State Fault Refusal :=
  onEligible slot stage s (fun _ st => { st with aged := Nat.min 3 (st.aged + 1) })

/-- PLACEMENT_TIMEOUT (R25). -/
def execPlacementTimeout (slot : BitVec 10) (stage : BitVec 4) (s : State) : Host.Outcome State Fault Refusal :=
  onEligible slot stage s (fun l st => if (s.placed l st).isSome then { st with offered := true } else st)

/-! ### Spill (R29, R30) -/

/-- The outcome of a step of a queue of a launch that has started and is not final; otherwise nothing happens. -/
def onQueue (slot : BitVec 10) (q : BitVec 5) (s : State) (f : Launch → Queue → State) :
    Host.Outcome State Fault Refusal :=
  match s.launchAt slot.toNat with
  | some l =>
    match l.queue q.toNat with
    | some x => .next (f l x)
    | none => .next s
  | none => .next s

/-- SPILL_WRITE (R29): the oldest entry that waits is written to the spill area. -/
def execSpillWrite (slot : BitVec 10) (q : BitVec 5) (s : State) : Host.Outcome State Fault Refusal :=
  onQueue slot q s (fun l x =>
    match x.waiting with
    | e :: es =>
      if x.faulted || decide (x.spillcap ≤ x.spilled) then s
      else
        let va := x.spillAt (x.spillPos + x.spilled)
        match s.unitWrite l.tenant va (leBytes 16 e.toNat) with
        | .fault _ a => s.queueFault slot.toNat q.toNat l x a
        | .wait s1 => s.holdFrom s1
        | .done s1 =>
          s1.onLaunch slot.toNat (fun l => l.setQueue q.toNat { x with waiting := es, spilled := x.spilled + 1 })
    | [] => s)

/-- SPILL_READ (R29): the oldest spilled entry comes on chip. -/
def execSpillRead (slot : BitVec 10) (q : BitVec 5) (s : State) : Host.Outcome State Fault Refusal :=
  onQueue slot q s (fun l x =>
    if x.faulted || x.spilled == 0 || !x.chipRoom then s
    else
      match s.unitReads l.tenant (x.spillAt x.spillPos) 16 true with
      | .fault _ a => s.queueFault slot.toNat q.toNat l x a
      | .wait s1 => s.holdFrom s1
      | .done (s1, bs, _) =>
        let y := { x with chip := x.chip ++ [BitVec.ofNat 128 (leNat bs)], spilled := x.spilled - 1,
                          spillPos := (x.spillPos + 1) % x.spillcap }
        s1.onLaunch slot.toNat (fun l => l.setQueue q.toNat y.refill))

/-! ### Held queue-port stores (R21) -/

/-- QUEUE_PORT_PUSH (R20, R21): the oldest held store is pushed when the queue has room, and discarded and counted once the
queue is closed; it is then held no more (R334). -/
def execQueuePortPush (slot : BitVec 10) (q : BitVec 5) (s : State) : Host.Outcome State Fault Refusal :=
  onQueue slot q s (fun l x =>
    match x.heldStores with
    | (e, _, who) :: es =>
      let y := { x with heldStores := es }
      if x.closed && !x.faulted then (s.onLaunch slot.toNat (fun l => l.setQueue q.toNat y.drop)).storeDone who
      else if x.blocked || l.state.isFinal || l.cancelling || (s.qfullWaits slot.toNat q.toNat).isSome then s
      else ((s.onLaunch slot.toNat (fun l => l.setQueue q.toNat y)).pushEntry slot.toNat q.toNat e).storeDone who
    | [] => s)

/-- QUEUE_PORT_TIMEOUT (R21); the QFULL notice may wait (R352). -/
def execQueuePortTimeout (slot : BitVec 10) (q : BitVec 5) (s : State) : Host.Outcome State Fault Refusal :=
  onQueue slot q s (fun l x =>
    match x.heldStores with
    | (_, dl, who) :: es =>
      if dl ≤ s.clock.toNat && (s.noticeWaits (l.die ++ 0#4)).isNone then
        ((s.onLaunch slot.toNat (fun l => l.setQueue q.toNat { x with heldStores := es }.drop)).qfull slot.toNat q.toNat
          l).storeDone who
      else s
    | [] => s)

/-! ### Time limits of threads -/

/-- CANCEL_TIMEOUT (R40): a PREEMPT with reason 2 is requested of a running thread; a suspended one satisfies it (R347). After
the executive has resumed such a thread the device may request it again, any number of times (DESIGN CHOICE, log 62). -/
def execCancelTimeout (core : BitVec 6) (cx : Cx) (s : State) : Host.Outcome State Fault Refusal :=
  let t : Tid := ⟨core, cx⟩
  .next (s.onCtx t (fun c =>
    match c.inst.bind Instance.cancelAt with
    | some a => if c.run == .running && c.preempt.isNone && decide (a + 100000 ≤ s.clock.toNat)
        then { c with preempt := some 2 } else c
    | none => c))

/-- WFI_TIMEOUT (R125). -/
def execWfiTimeout (core : BitVec 6) (cx : Cx) (s : State) : Host.Outcome State Fault Refusal :=
  .next (s.onCtx ⟨core, cx⟩ (fun c =>
    match c.wfi with
    | some (some dl) => if c.run == .running && decide (dl ≤ s.clock.toNat) then c.wfiExpired else c
    | _ => c))

end Sys2Proof.Machine
end

