-- ==== Sys2Proof/Machine/HostSteps.lean ====
section
/-! DEFINITION. What hosts and peers do to the module (R366 to R376): launch and management registers, the queue-port
window, inbound accesses, caching under host bias, bias flips, and links going down. -/

namespace Sys2Proof.Machine

/-! ### Functions, ports and the management semaphore (R366, R368, R370) -/

/-- The value that a read returns to a host. -/
def State.answer (s : State) (bs : List Byte) : State := { s with host := { s.host with data := bs } }

/-- The state with the hosts' part changed. -/
def State.onHost (s : State) (f : HostPorts → HostPorts) : State := { s with host := f s.host }

/-- The device admits hosts and launches (R381, step 6): a firmware slot has verified, and the executive has set what it sets
before. -/
def Platform.admits (p : Platform) : Bool := !p.stuck && p.toSet.isEmpty

/-- A host's register access through a port reaches a function: the device admits hosts (R381), and the function is the
physical one or is enabled on the port (R366). A port that has been retrained carries it though it is still down (R375). -/
def State.reaches (s : State) (fn : BitVec 5) (port : BitVec 1) : Bool :=
  s.plat.admits && (fn == 0 || (decide (fn.toNat ≤ 16)
    && s.host.vfPort[fn.toNat % 17]'(Nat.mod_lt _ (by decide)) == some port))

/-- A posted write of a port to a function takes effect: it reaches the function, and no earlier write of the port is held by
back-pressure; until then it waits, as the posted writes of one port take effect in arrival order (R368). -/
def State.posts (s : State) (fn : BitVec 5) (port : BitVec 1) : Bool := s.reaches fn port && !(s.holdsStore (.port port))

/-- A discarded write is counted in the function's error log (R368). -/
def State.logError (s : State) (fn : BitVec 5) : State :=
  s.onHost (fun h => { h with errlog := Tbl.put h.errlog fn.toNat (Tbl.getD h.errlog fn.toNat 0 + 1) })

/-- The port holds the management semaphore (R370). -/
def State.holds (s : State) (port : BitVec 1) : Bool := s.host.semOwn == port.zeroExtend 2 + 1

/-- A management write of a port (R370): without ownership it is discarded and sets ERR. -/
def manage (port : BitVec 1) (s : State) (f : State → State) : Host.Outcome State Fault Refusal :=
  .next (
    if !(s.posts 0 port) then s
    else if s.holds port then f s else s.onHost (fun h => { h with semErr := true }))

/-- SEM (R370). -/
def execSem (port : BitVec 1) (val : BitVec 64) (s : State) : Host.Outcome State Fault Refusal :=
  .next (
    if !(s.posts 0 port) then s
    else
      s.onHost (fun h =>
        { h with
          semErr := h.semErr && !(val.getLsbD 7)
          semOwn :=
            if val.extractLsb' 0 2 == 1 && h.semOwn == 0 then port.zeroExtend 2 + 1
            else if val.extractLsb' 0 2 == 0 && s.holds port then 0 else h.semOwn }))

/-- VF_ENABLE (R366, R370): a write through a port that holds SEM enables a virtual function on one port. -/
def execVfEnable (port : BitVec 1) (vf : PortFn) (s : State) : Host.Outcome State Fault Refusal :=
  manage port s (fun s =>
    if vf.fn == 0 || decide (16 < vf.fn.toNat) then s
    else s.onHost (fun h => { h with vfPort := h.vfPort.set (vf.fn.toNat % 17) (some vf.port) (Nat.mod_lt _ (by decide)) }))

/-! ### Launching (R369) -/

/-- The key of a result queue. -/
def lresKey (fn : BitVec 5) (port : BitVec 1) (die : BitVec 2) : Nat := (fn ++ port ++ die).toNat

/-- A result put at the end of a result queue. -/
def State.pushResult (s : State) (k : Nat) (w : Word) : State :=
  s.onHost (fun h => { h with lres := Tbl.put h.lres k (Tbl.getD h.lres k [] ++ [w]) })

/-- A launch FAULTED at acceptance takes slot n, once its LAUNCH notice can be sent (R13, R352); then f. -/
def State.faultRegister (s : State) (n : Nat) (l : Launch) (reason : Nat) (va : Word) (f : State → State) : State :=
  match s.noticeWaits (l.die ++ 0#4) with
  | some s1 => s.holdFrom s1
  | none => f (s.faultLaunch n l reason va)

/-- LAUNCH_REGISTER (R13, R369): a read of the record that must wait holds the launch, and with it the result. Of a record at a
misaligned address nothing is read: neither AUTOFREE nor the successors of its header count (DESIGN CHOICE, log 62). -/
def execLaunchRegister (fn : BitVec 5) (port : BitVec 1) (die : BitVec 2) (addr : BitVec 64) (s : State) :
    Host.Outcome State Fault Refusal :=
  let k := lresKey fn port die
  if !(s.posts fn port) then .next s
  else if 16 ≤ (Tbl.getD s.host.lres k []).length then .next (s.logError fn)
  else
    match s.freeLaunchSlot with
    | none => .next (s.pushResult k (BitVec.allOnes 64))
    | some n =>
      let id : Word := 0x100000000#64 + (launchId (s.slot n).gen n).zeroExtend 64
      let result (s : State) : State := s.pushResult k id
      if addr.toNat % 128 != 0 then
        .next (s.faultRegister n (Launch.bare addr fn die s.accepts) 1 addr result)
      else
        match s.tryLaunch none n addr fn die with
        | .done s1 => .next (result s1)
        | .wait s1 => .next (s.holdFrom s1)
        | .fault _ va =>
          match s.unreadLaunch addr fn die with
          | .done l => .next (s.faultRegister n l 2 va result)
          | .wait s1 => .next (s.holdFrom s1)
          | .fault _ _ => .next s

/-- LRES (R369). -/
def execLres (fn : BitVec 5) (port : BitVec 1) (die : BitVec 2) (s : State) : Host.Outcome State Fault Refusal :=
  let k := lresKey fn port die
  if !(s.reaches fn port) then .next s
  else
    match Tbl.getD s.host.lres k [] with
    | w :: ws => .next ((s.onHost (fun h => { h with lres := Tbl.put h.lres k ws })).answer (leBytes 8 w.toNat))
    | [] => .next (s.answer (leBytes 8 0))

/-! ### The queue-port window (R368) -/

/-- The shape of a host write to a queue window at offset w: 8 bytes at 0x7F0 or 0x7F8, or whole aligned units. -/
def hostUnits (w n : Nat) : Bool :=
  (n == 8 && (w == 0x7F0 || w == 0x7F8)) || (w % 16 == 0 && n % 16 == 0 && decide (0 < n) && decide (w + n ≤ 0x7F0))

/-- HOST_QUEUE_PORT_WRITE (R368): a write to the window of a function through a port. -/
def execHostQueuePortWrite (fn : PortFn) (off : BitVec 26) (data : List (BitVec 8)) (s : State) :
    Host.Outcome State Fault Refusal :=
  let slot := off.toNat / 0x10000
  let q := off.toNat / 0x800 % 32
  let w := off.toNat % 0x800
  if !(s.posts fn.fn fn.port) then .next s
  else
    match s.launchAt slot with
    | some l =>
      if hostUnits w data.length && l.tenant == fn.fn && !l.state.isFinal && (l.queue q).isSome then
        if w == 0x7F0 then .next (if leNat data = 1 then s.closeQueue slot q else s)
        else if w == 0x7F8 then .next s
        else
          .next ((cut 16 data (data.length / 16)).foldl (fun s e => s.portEntry (.port fn.port) slot q (BitVec.ofNat 128 (leNat e))) s)
      else .next (s.logError fn.fn)
    | none => .next (s.logError fn.fn)

/-! ### Inbound accesses (R336, R371, R374) -/

/-- The link of an agent is up. -/
def State.linkUp (s : State) : HxAgent → Bool
  | .host p => !(s.host.down.getLsbD p.toNat)
  | .peer k => !(s.host.peerDown.getLsbD k.toNat)

/-- n bytes of device memory, within one die's window. -/
def deviceBytes (pa n : Nat) : Bool :=
  decide (0 < n) && populated pa && populated (pa + n - 1) && decide (pa / 0x2000000000 = (pa + n - 1) / 0x2000000000)

/-- The earlier posted writes of an agent's port have taken effect (R368). -/
def State.postsDone (s : State) : HxAgent → Bool
  | .host p => !(s.holdsStore (.port p))
  | .peer _ => true

/-- HX_WRITE (R368, R374, R375). -/
def execHxWrite (agent : HxAgent) (pa : BitVec 52) (data : List (BitVec 8)) (s : State) :
    Host.Outcome State Fault Refusal :=
  if s.linkUp agent && s.plat.admits && s.postsDone agent && deviceBytes pa.toNat data.length then
    match s.agentWrite pa.toNat data with
    | (s1, true) => .next s1
    | (s1, false) => .next (s.holdFrom s1)
  else .next s

/-- HX_READ (R371). -/
def execHxRead (agent : HxAgent) (pa : BitVec 52) (n : BitVec 8) (s : State) : Host.Outcome State Fault Refusal :=
  if s.linkUp agent && s.plat.admits && deviceBytes pa.toNat n.toNat then
    match s.agentRead pa.toNat n.toNat with
    | (s1, some bs) => .next (s1.answer bs)
    | (s1, none) => .next (s.holdFrom s1)
  else .next s

/-! ### Bias (R371 to R373) -/

/-- The bias bits of a page set, in the table that the device keeps and in its bytes in device memory (R371); false while
the write of the bytes must wait. -/
def State.setBias (s : State) (page : Nat) (b : BitVec 2) : State × Bool :=
  match s.putBias s.host.biasBase.toNat page b with
  | (s1, true) =>
    (s1.onHost (fun h => { h with bias := if b == 0 then Tbl.drop h.bias page else Tbl.put h.bias page b }), true)
  | r => r

/-- FLIP (R373). -/
def execFlip (port : BitVec 1) (val : BitVec 64) (s : State) : Host.Outcome State Fault Refusal :=
  manage port s (fun s =>
    let pa := (val.extractLsb' 12 52).toNat * 4096
    if populated pa then
      s.onHost (fun h => { h with flips := h.flips ++ [⟨pa / 4096, val.getLsbD 0, val.getLsbD 1, false, true⟩] })
    else s.onHost (fun h => { h with semErr := true }))

/-- The first queued flip of a page. -/
def State.flipOf (s : State) (page : Nat) : Option FlipCmd := s.host.flips.find? (fun f => f.page == page)

/-- The first queued flip of a page begins (R372). -/
def State.beginFlip (s : State) (page : Nat) : State :=
  s.onHost (fun h => { h with flips := go h.flips })
where
  /-- Marks the first flip of the page. -/
  go : List FlipCmd → List FlipCmd
    | [] => []
    | f :: fs => if f.page == page then { f with begun := true } :: fs else f :: go fs

/-- The first queued flip of a page is done: its bias is the page's, and it is counted (R373), once the write of its bias bits
need not wait (R343, R371). -/
def State.endFlip (s : State) (f : FlipCmd) : State :=
  let b : BitVec 2 := BitVec.ofNat 2 ((if f.auto then 2 else 0) + (if f.bias then 1 else 0))
  let s1 := s.onHost (fun h => { h with
    flips := h.flips.eraseP (fun g => g.page == f.page)
    flipped := h.flipped + 1 })
  match s1.setBias f.page b with
  | (s2, true) => s2
  | (s2, false) => s.holdFrom s2

/-- The lines of a page. -/
def pageLines (page : Nat) : List Nat := (List.range 32).map (· + 32 * page)

/-- A line closed by a flip (R303, R305): its group counts it in its next residue. -/
def State.flipClose (s : State) (line : Nat) : State :=
  let e := s.dirOf line
  if e.st == .pipped then
    (s.closePipped line).onCtx ⟨e.core, e.cx⟩ (fun c =>
      let g := c.groups[e.group.toNat]'(e.group.isLt)
      { c with groups := c.groups.set e.group.toNat { g with flipped := g.flipped + 1 } e.group.isLt })
  else s

/-- A line that an L1 holds modified is written back (R372). -/
def State.flipWriteBack (s : State) (line : Nat) : State :=
  if allCores.any (fun c => (s.core c).l1.any (fun l => l.line == line && l.modified)) then s.uncacheLine line else s

/-- The transactions that hold a line of the page abort (R372). -/
def State.flipAbort (s : State) (page : Nat) : State :=
  (s.txs.filter (fun p => (pageLines page).any (fun l => p.2.rset.contains l || p.2.wset.contains l))).foldl
    (fun s p => s.abortTx p.1 1 0) s

/-- FLIP_DEVICE_TO_HOST (R372): the writes that have reached the page's slices are performed, and the fills of its pending
lines arrive, first. A flip to the bias that the page already has runs the same steps and counts (DESIGN CHOICE, log 49: R373 does not
say). -/
def execFlipDeviceToHost (page : BitVec 40) (s : State) : Host.Outcome State Fault Refusal :=
  match s.flipOf page.toNat with
  | some f =>
    if !f.bias then .next s
    else
      let ls := pageLines page.toNat
      let s0 := s.beginFlip page.toNat
      if ls.any (fun l => s.owningLine l || ((s.dirOf l).st == .pipped && (s.dirOf l).pending)) then .next s0
      else
        let s1 := (ls.foldl State.flipClose s0).flipAbort page.toNat
        .next ((ls.foldl State.flipWriteBack s1).endFlip f)
  | none => .next s

/-- FLIP_HOST_TO_DEVICE (R372): every line that the host may hold is snooped first. -/
def execFlipHostToDevice (page : BitVec 40) (s : State) : Host.Outcome State Fault Refusal :=
  match s.flipOf page.toNat with
  | some f =>
    if f.bias then .next s
    else
      let ls := (pageLines page.toNat).filter (fun l => s.owningLine l || (Tbl.find s.host.lines l).isSome)
      let s0 := s.beginFlip page.toNat
      if ls.isEmpty then .next (s0.endFlip f)
      else .next (ls.foldl (fun s l => if (Tbl.find s.host.lines l).isSome then s.snoop l true else s) s0)
  | none => .next s

/-- A line as a host's read sees it. -/
def State.lineBytes (s : State) (line : Nat) : List Byte := s.bytes (line * 128) 128

/-- Every L1's copy made ready for a host to cache the line: gone for an owned copy; written back for a shared one. -/
def State.shareLine (s : State) (line : Nat) (own : Bool) : State := if own then s.uncacheLine line else s.flipWriteBack line

/-- HOST_CACHE_REQUEST (R371): under host bias it waits for a write at the slice, for the transactions it conflicts with,
and for the answer to a snoop of the line; the other port's copy is snooped first. -/
def execHostCacheRequest (port : BitVec 1) (pa : BitVec 52) (own : Bool) (s : State) :
    Host.Outcome State Fault Refusal :=
  let line := lineOf pa.toNat
  let page := pa.toNat / 4096
  let b := s.biasOf page
  if s.host.down.getLsbD port.toNat || !s.plat.admits || !(populated pa.toNat) || s.flipping page then .next s
  else if !(b.getLsbD 0) then
    if b.getLsbD 1 then
      .next (if (s.flipOf page).isSome then s
        else s.onHost (fun h => { h with flips := h.flips ++ [⟨page, true, true, false, false⟩] }))
    else
      match s.agentRead (line * 128) 128 with
      | (s1, some bs) => .next (s1.answer bs)
      | (s1, none) => .next (s.holdFrom s1)
  else if s.owningLine line || s.host.snoops.contains line then .next s
  else if !(s.rivals none line own).isEmpty then .next (s.markBlocks (s.rivals none line own))
  else
    let serve (owned : Bool) : State := ((s.shareLine line own).onHost (fun k =>
      { k with lines := Tbl.put k.lines line ⟨port, owned, false, false⟩ })).answer (s.lineBytes line)
    match Tbl.find s.host.lines line with
    | some h =>
      if h.granted then .next (serve own)
      else if h.port == port then .next (serve (h.owned || own))
      else .next (s.snoop line true)
    | none => .next (serve own)

/-- BACK_INVALIDATION_RESPONSE (R371, R372): the host's modified data is written in first. It keeps a shared copy unless the
snoop invalidates; under a flip to device bias the line is then no host's. -/
def execBackInvalidationResponse (pa : BitVec 52) (data : List (BitVec 8)) (s : State) :
    Host.Outcome State Fault Refusal :=
  let line := lineOf pa.toNat
  match Tbl.find s.host.lines line with
  | some h =>
    if !(s.host.snoops.contains line) then .next s
    else
      let s1 := if h.owned then s.put (line * 128) (data.take 128) else s
      let h1 : HostLine := if s.host.snoopInv.contains line then { h with owned := false, granted := true }
        else { h with owned := false, shared := true }
      .next (s1.onHost (fun k => { k with
        snoops := NatSet.del k.snoops line
        snoopInv := NatSet.del k.snoopInv line
        lines := if s.flipping (line / 32) then Tbl.drop k.lines line else Tbl.put k.lines line h1 }))
  | none => .next (s.onHost (fun k => { k with snoops := NatSet.del k.snoops line, snoopInv := NatSet.del k.snoopInv line }))

/-! ### Links (R370, R375) -/

/-- The record of a modified line in the orphan area (R375). -/
def orphanRecord (s : State) (port : BitVec 1) (line : Nat) : List Byte :=
  padTo 128 (leBytes 8 (line * 128) ++ padTo 8 (leBytes 1 port.toNat) ++ leBytes 8 s.clock.toNat) ++ s.lineBytes line

/-- Writes at the home slices; false while one of them must wait. -/
def State.agentWrites (s : State) : List (Nat × List Byte) → State × Bool
  | [] => (s, true)
  | (pa, bs) :: ws =>
    match s.agentWrite pa bs with
    | (s1, true) => s1.agentWrites ws
    | r => r

/-- A modified line of a port that went down: written to the orphan area, which the executive has set (R381), and marked, or
dropped and counted when the area is full (R375). What its host holds is then open (DESIGN CHOICE, log 3). While the write must
wait, the line is marked and stays modified, for a later LINK_DOWN to go on with (DESIGN CHOICE, log 50). -/
def State.orphan (s : State) (port : BitVec 1) (line : Nat) : State :=
  let base := s.host.orphanBase.toNat
  let n := s.num base 8
  let room := decide (n < s.host.orphanCap)
  let mark (s : State) : State := s.onHost (fun h =>
    { h with orphans := if room then NatSet.add h.orphans line else NatSet.del h.orphans line })
  let ws := if room then [(base + 0x100 + 256 * n, orphanRecord s port line), (base, leBytes 8 (n + 1))]
    else [(base + 0x10, leBytes 8 (s.num (base + 0x10) 8 + 1))]
  match s.agentWrites ws with
  | (s1, true) =>
    let s2 := (mark s1).onHost (fun h => { h with modified := NatSet.del h.modified line })
    { s2 with mem := Memory.clear memDefault s2.mem (line * 128) 128 }
  | (s1, false) => mark (s.holdFrom s1)

/-- A host- or peer-homed line is behind the agent's link. -/
def behind (agent : HxAgent) (line : Nat) : Bool :=
  match agent with
  | .host p => hostPortOf (line * 128) == some p
  | .peer k => peerPortOf (line * 128) == some k

/-- LINK_DOWN (R370, R375). Where a peer's link fails, its lines that the device held modified are dropped with what was written to
them and leave no record, and read as `Config.hostByte` again (DESIGN CHOICE, log 3: R375 speaks of host-homed lines). -/
def execLinkDown (agent : HxAgent) (s : State) : Host.Outcome State Fault Refusal :=
  let lines := s.host.modified.filter (behind agent)
  let s1 : State := match agent with
    | .host p => lines.foldl (fun s l => s.orphan p l) s
    | .peer _ => lines.foldl (fun s l => { s with mem := Memory.clear memDefault s.mem (l * 128) 128 }) s
  let cached := (s1.dir.map (·.1)).filter (behind agent)
  let s2 := cached.foldl State.uncacheLine s1
  let mine (h : HostPorts) (l : Nat) : Bool :=
    match agent with
    | .host p => (Tbl.find h.lines l).map HostLine.port == some p
    | .peer _ => false
  .next ({ s2 with owning := s2.owning.filter (fun r => !(behind agent (lineOf r.pa))) }.onHost (fun h => { h with
    modified := match agent with | .host _ => h.modified | .peer _ => h.modified.filter (fun l => !(behind agent l))
    down := match agent with | .host p => h.down ||| (1#2 <<< p.toNat) | .peer _ => h.down
    peerDown := match agent with | .peer k => h.peerDown ||| (1#4 <<< k.toNat) | .host _ => h.peerDown
    semOwn := match agent with | .host p => if h.semOwn == p.zeroExtend 2 + 1 then 0 else h.semOwn | .peer _ => h.semOwn
    lines := match agent with | .host p => h.lines.filter (fun e => e.2.port != p) | .peer _ => h.lines
    snoops := h.snoops.filter (fun l => !(mine h l))
    snoopInv := h.snoopInv.filter (fun l => !(mine h l)) }))

/-- PORT_ENABLE (R375): it waits while a line that the device held modified has still to be written to the orphan area. -/
def execPortEnable (port : BitVec 1) (agent : HxAgent) (s : State) : Host.Outcome State Fault Refusal :=
  manage port s (fun s => if !(s.linkUp agent) && s.host.modified.any (behind agent) then s else s.onHost (fun h => { h with
    down := match agent with | .host p => h.down &&& ~~~(1#2 <<< p.toNat) | .peer _ => h.down
    peerDown := match agent with | .peer k => h.peerDown &&& ~~~(1#4 <<< k.toNat) | .host _ => h.peerDown
    orphans := h.orphans.filter (fun l => !(behind agent l)) }))

end Sys2Proof.Machine
end

