-- ==== Sys2Proof/Machine/MlDsa.lean ====
section
/-! DEFINITION. The verification of an ML-DSA-87 signature (R383), which the spec names and whose text is FIPS 204 (PRESUMED,
log 5), with an empty context string. -/

namespace Sys2Proof.Machine

/-- The modulus. -/
def dsaQ : Nat := 8380417

/-- A polynomial: 256 coefficients below the modulus. -/
abbrev Poly := Array Nat

/-- A polynomial by its coefficients. -/
def polyOf (f : Nat → Nat) : Poly := ((List.range 256).map f).toArray

/-- The sum of two polynomials. -/
def polyAdd (a b : Poly) : Poly := polyOf (fun i => (a.getD i 0 + b.getD i 0) % dsaQ)

/-- The difference of two polynomials. -/
def polySub (a b : Poly) : Poly := polyOf (fun i => (a.getD i 0 + dsaQ - b.getD i 0) % dsaQ)

/-- The product of two transformed polynomials. -/
def polyMul (a b : Poly) : Poly := polyOf (fun i => a.getD i 0 * b.getD i 0 % dsaQ)

/-! ### The transform -/

/-- An eight-bit number with its bits reversed. -/
def reverse8 (k : Nat) : Nat := ((List.range 8).map (fun i => k / 2 ^ i % 2 * 2 ^ (7 - i))).sum

/-- x to the power k modulo the modulus. -/
def powQ (x : Nat) : Nat → Nat
  | 0 => 1
  | k + 1 => powQ x k * x % dsaQ

/-- The roots of unity, by place. -/
def dsaRoots : Array Nat := ((List.range 256).map (fun k => powQ 1753 (reverse8 k))).toArray

/-- A layer of the transform with blocks of 2n coefficients. -/
def nttLayer (roots : Array Nat) (a : Poly) (n : Nat) : Poly :=
  polyOf (fun i =>
    let m := 128 / n + i / (2 * n)
    let lo := i / (2 * n) * (2 * n) + i % n
    let t := roots.getD m 0 * a.getD (lo + n) 0 % dsaQ
    if i / n % 2 = 0 then (a.getD lo 0 + t) % dsaQ else (a.getD lo 0 + dsaQ - t) % dsaQ)

/-- The transform of a polynomial. -/
def ntt (roots : Array Nat) (a : Poly) : Poly := [128, 64, 32, 16, 8, 4, 2, 1].foldl (nttLayer roots) a

/-- A layer of the inverse transform with blocks of 2n coefficients. -/
def unnttLayer (roots : Array Nat) (a : Poly) (n : Nat) : Poly :=
  polyOf (fun i =>
    let m := 256 / n - 1 - i / (2 * n)
    let lo := i / (2 * n) * (2 * n) + i % n
    let x := a.getD lo 0
    let y := a.getD (lo + n) 0
    if i / n % 2 = 0 then (x + y) % dsaQ else (dsaQ - roots.getD m 0) * ((x + dsaQ - y) % dsaQ) % dsaQ)

/-- The inverse transform. -/
def unntt (roots : Array Nat) (a : Poly) : Poly :=
  let b := [1, 2, 4, 8, 16, 32, 64, 128].foldl (unnttLayer roots) a
  polyOf (fun i => b.getD i 0 * 8347681 % dsaQ)

/-! ### Sampling -/

/-- Coefficients drawn from triples of bytes: 23 bits of each, kept when below the modulus. -/
def drawTriples : List Byte → List Nat
  | a :: b :: c :: l =>
    let z := a.toNat + b.toNat * 2 ^ 8 + c.toNat % 128 * 2 ^ 16
    if z < dsaQ then z :: drawTriples l else drawTriples l
  | _ => []

/-- A polynomial drawn from a state of SHAKE128, block by block, until it has 256 coefficients; fuel bounds the blocks. -/
def drawPoly (a : Lanes) (have_ : List Nat) : Nat → Poly
  | 0 => (have_.take 256).toArray
  | fuel + 1 =>
    let l := have_ ++ drawTriples (squeeze 168 a)
    if 256 ≤ l.length then (l.take 256).toArray else drawPoly (keccak a) l fuel

/-- Entry (r, s) of the public matrix. -/
def dsaMatrix (rho : List Byte) (r s : Nat) : Poly :=
  drawPoly (absorbAll 168 0x1F (rho ++ [BitVec.ofNat 8 s, BitVec.ofNat 8 r])) [] 64

/-- A place at most i drawn from bytes, and the bytes after it. -/
def drawPlace (i : Nat) : List Byte → Nat × List Byte
  | [] => (0, [])
  | b :: l => if b.toNat ≤ i then (b.toNat, l) else drawPlace i l

/-- The challenge polynomial: 60 coefficients of 1 or -1, at places drawn from SHAKE256. -/
def challenge (c : List Byte) : Poly :=
  let bs := squeezeAll 136 (absorbAll 136 0x1F c) 32
  let signs := leNat (bs.take 8)
  ((List.range 60).foldl (fun (st : Poly × List Byte) k =>
    let i := 196 + k
    let (j, l) := drawPlace i st.2
    let p := st.1.setIfInBounds i (st.1.getD j 0)
    (p.setIfInBounds j (if signs / 2 ^ k % 2 = 0 then 1 else dsaQ - 1), l)) (polyOf (fun _ => 0), bs.drop 8)).1

/-! ### Encodings -/

/-- The coefficients of w bits each that bytes hold. -/
def unpackBits (w : Nat) (bs : List Byte) : List Nat :=
  let x := leNat bs
  (List.range 256).map (fun i => x / 2 ^ (w * i) % 2 ^ w)

/-- The hints of a signature: the places of each polynomial, or none where they are not encoded as they must be. -/
def unpackHints (y : List Byte) : Option (List (List Nat)) :=
  let ends := (y.drop 75).map BitVec.toNat
  let places := (y.take 75).map BitVec.toNat
  let starts := 0 :: ends
  let cuts := (List.range 8).map (fun i => (starts.getD i 0, ends.getD i 0))
  let rows := cuts.map (fun c => (places.drop c.1).take (c.2 - c.1))
  let ok := cuts.all (fun c => decide (c.1 ≤ c.2) && decide (c.2 ≤ 75))
    && rows.all (fun r => (r.zip r.tail).all (fun p => decide (p.1 < p.2)))
    && (places.drop (ends.getD 7 0)).all (· == 0)
  if ok then some rows else none

/-- The high part of a coefficient, corrected by its hint; the low part spans 523,776 values. -/
def useHint (hint : Bool) (r : Nat) : Nat :=
  let g := 261888
  let low : Int := if r % (2 * g) ≤ g then (r % (2 * g) : Nat) else ((r % (2 * g) : Nat) : Int) - (2 * g : Nat)
  let top := (r : Int) - low = (dsaQ - 1 : Nat)
  let high : Nat := if top then 0 else (((r : Int) - low) / (2 * g : Nat)).toNat
  let low' : Int := if top then low - 1 else low
  if hint then (if 0 < low' then (high + 1) % 16 else (high + 15) % 16) else high

/-- The bytes of a polynomial of four-bit coefficients. -/
def packNibbles (a : List Nat) : List Byte :=
  (parts 2 a 128).map (fun p => BitVec.ofNat 8 (p.getD 0 0 + 16 * p.getD 1 0))

/-! ### Verification -/

/-- The coefficient of z that 20 bits encode. -/
def zCoeff (x : Nat) : Int := 524288 - (x : Int)

/-- An ML-DSA-87 signature of a message verifies under a public key. -/
def mlDsaVerify (pk m sig : List Byte) : Bool :=
  if pk.length != 2592 || sig.length != 4627 then false
  else
    let roots := dsaRoots
    let rho := pk.take 32
    let t1 := (parts 320 (pk.drop 32) 8).map (unpackBits 10)
    let c := sig.take 64
    let z := (parts 640 (sig.drop 64) 7).map (fun b => (unpackBits 20 b).map zCoeff)
    match unpackHints (sig.drop 4544) with
    | none => false
    | some hints =>
      let mu := shake256 (shake256 pk 64 ++ [0, 0] ++ m) 64
      let zh := z.map (fun p => ntt roots ((p.map (fun x => (x % (dsaQ : Int)).toNat)).toArray))
      let ch := ntt roots (challenge c)
      let row (i : Nat) : List Nat :=
        let az := (zh.zipIdx).foldl (fun acc p => polyAdd acc (polyMul (dsaMatrix rho i p.2) p.1)) (polyOf (fun _ => 0))
        let t := ntt roots (((t1.getD i []).map (fun x => x * 8192 % dsaQ)).toArray)
        let w := unntt roots (polySub az (polyMul ch t))
        (List.range 256).map (fun k => useHint ((hints.getD i []).contains k) (w.getD k 0))
      let w1 := (List.range 8).flatMap (fun i => packNibbles (row i))
      z.all (fun p => p.all (fun x => decide (x.natAbs < 524288 - 120))) && shake256 (mu ++ w1) 64 == c

end Sys2Proof.Machine
end

