-- ==== Sys2Proof/Machine/PlatformSteps.lean ====
section
/-! DEFINITION. Reset, firmware, identity, power (R381 to R385), registers without behaviour of their own (R4), and the
ticks of the clock (R54). -/

namespace Sys2Proof.Machine

/-! ### Firmware and identity (R383, R384) -/

/-- The state with the platform's part changed. -/
def State.onPlat (s : State) (f : Platform → Platform) : State := { s with plat := f s.plat }

/-- What a firmware image fails: 0 nothing, 1 its key, 2 its signature, 3 its version (R383). -/
def FwSlot.check (x : FwSlot) (rollback : Nat) : Nat :=
  if sha3 x.key != Config.fuseKeyDigest then 1
  else if !(mlDsaVerify x.key (leBytes 64 (sha3 x.body).toNat) x.sig) then 2
  else if x.version < rollback then 3 else 0

/-- A firmware slot by number (1: B). -/
def Platform.fw (p : Platform) (b : Bool) : FwSlot := if b then p.slotB else p.slotA

/-- A firmware management write (R370, R383); until the device admits hosts only firmware control is exposed, with no
semaphore (R381). -/
def fwManage (port : BitVec 1) (s : State) (f : State → State) : Host.Outcome State Fault Refusal :=
  if !s.plat.admits then .next (f s) else manage port s f

/-- FW_OPEN_SLOT (R383). -/
def execFwOpenSlot (port : BitVec 1) (slot : BitVec 1) (s : State) : Host.Outcome State Fault Refusal :=
  fwManage port s (fun s => s.onPlat (fun p => { p with opened := some (slot == 1), fwst := 2 ^ 63 }))

/-- FW_COMMIT (R383): an image that passes is in the slot and is what the next reset starts. -/
def execFwCommit (port : BitVec 1) (slot : BitVec 1) (key body sig : List (BitVec 8)) (version : Nat) (s : State) :
    Host.Outcome State Fault Refusal :=
  fwManage port s (fun s =>
    if s.plat.opened == some (slot == 1) then
      let x : FwSlot := ⟨key, body, sig, version⟩
      let r := x.check s.plat.rollback
      s.onPlat (fun p =>
        let q := { p with opened := none, fwst := BitVec.ofNat 64 r }
        if r != 0 then q
        else if slot == 1 then { q with slotB := x, nextB := true } else { q with slotA := x, nextB := false })
    else s)

/-- FW_ABORT (R383). -/
def execFwAbort (port : BitVec 1) (slot : BitVec 1) (s : State) : Host.Outcome State Fault Refusal :=
  fwManage port s (fun s =>
    if s.plat.opened == some (slot == 1) then s.onPlat (fun p => { p with opened := none, fwst := 0 }) else s)

/-- NONCE (R384): a write during a quote waits until the quote completes. -/
def execNonce (port : BitVec 1) (val : BitVec 512) (s : State) : Host.Outcome State Fault Refusal :=
  manage port s (fun s => s.onPlat (fun p => if p.qbusy then { p with nonceNext := some val } else { p with nonce := val }))

/-- QUOTE (R370, R384): a write of the holder during a quote does nothing (DEDUCED, log 51). -/
def execQuote (port : BitVec 1) (s : State) : Host.Outcome State Fault Refusal :=
  manage port s (fun s => if s.plat.qbusy then s else s.onPlat (fun p => { p with qbusy := true, qdone := false }))

/-- The ID register (R383). -/
def idWord : Word := 0x4B4C030800000001#64

/-- The message that a quote signs (R384). -/
def Platform.quoteText (p : Platform) : List Byte :=
  leBytes 64 p.nonce.toNat ++ p.meas.toList.flatMap (fun m => leBytes 64 m.toNat) ++ leBytes 8 idWord.toNat

/-- QUOTE_COMPLETE (R384): a NONCE write that waits takes effect. -/
def execQuoteComplete (s : State) : Host.Outcome State Fault Refusal :=
  .next (if s.plat.qbusy then
    s.onPlat (fun p => { p with qbusy := false, qdone := true, nonce := p.nonceNext.getD p.nonce, nonceNext := none
                                qbuf := leBytes 4 4627 ++ padTo 4627 (Config.mldsaSign p.quoteText) })
    else s)

/-- The executive extends a measurement with a digest (R384). -/
def State.extendMeas (s : State) (i : Fin 8) (d : BitVec 512) : State :=
  if s.plat.stuck then s
  else s.onPlat (fun p =>
    { p with meas := p.meas.set i.val (sha3 (leBytes 64 (p.meas[i.val]'(i.isLt)).toNat ++ leBytes 64 d.toNat)) i.isLt })

/-! ### Registers without behaviour of their own (R4, R385) -/

/-- REGISTER_WRITE (R4, R385): PCAP is the only such register of BAR0 with a writable field; a value outside its range
leaves a free value (DESIGN CHOICE, log 4). Other offsets name read-only or no registers. -/
def execRegisterWrite (port : BitVec 1) (off : BitVec 16) (val : BitVec 64) (s : State) :
    Host.Outcome State Fault Refusal :=
  if off == 0x218 then
    manage port s (fun s =>
      if 800 ≤ val.toNat && val.toNat ≤ 2800 then s.onPlat (fun p => { p with pcap := val.extractLsb' 0 16 })
      else s.fresh.2.onPlat (fun p => { p with pcap := s.fresh.1.extractLsb' 0 16 }))
  else .next s

/-! ### Power (R385) -/

/-- POWER_WINDOW (R385): issue cycles are withheld while the load would draw more than the cap, or at 105 °C. -/
def execPowerWindow (watts : Nat) (s : State) : Host.Outcome State Fault Refusal :=
  .next (s.onPlat (fun p => { p with withheld := decide (p.pcap.toNat < watts) || decide (105 ≤ p.celsius.toNat) }))

/-- THERMAL_THROTTLE (R385): a junction temperature below 115 °C; from 105 °C on the device throttles. -/
def execThermalThrottle (celsius : BitVec 8) (s : State) : Host.Outcome State Fault Refusal :=
  .next (if celsius.toNat < 115 then
    s.onPlat (fun p => { p with celsius := celsius, withheld := p.withheld || decide (105 ≤ celsius.toNat) })
    else s)

/-- CLOCK_TICK (R54). -/
def execClockTick (s : State) : Host.Outcome State Fault Refusal := .next { s with clock := s.clock + 1 }

/-! ### Module reset (R381) -/

/-- The platform after a module reset: the firmware slots and the fuses keep their contents, and the boot ROM starts the
slot that verifies, the active one first. -/
def Platform.rebooted (p : Platform) (trip : Bool) : Platform :=
  let ok (b : Bool) : Bool := (p.fw b).check p.rollback == 0
  let b := if ok p.nextB then p.nextB else !p.nextB
  { Platform.reset with
    slotA := p.slotA, slotB := p.slotB, rollback := p.rollback, activeB := b, nextB := b, stuck := !(ok b)
    meas := (Vector.replicate 8 0).set 0 (bootMeas (p.fw b).body), tripped := trip }

/-- The memory of hosts and peers after a module reset: what the device had written there stays, but for lines that it
held modified, whose content is open (DESIGN CHOICE, log 3). -/
def State.outsideMem (s : State) : Memory :=
  s.mem.filter (fun e => foreign e.1 && !(s.host.modified.contains (lineOf e.1)))

/-- A module reset; the model's own fields go on (DESIGN CHOICE, logs 1 and 4). -/
def State.moduleReset (s : State) (trip : Bool) : State :=
  { State.reset with
    mem := s.outsideMem, plat := s.plat.rebooted trip, agenda := s.agenda, cur := s.cur, freeCtr := s.freeCtr }

/-- POWER_ON_RESET (R381). -/
def execPowerOnReset (s : State) : Host.Outcome State Fault Refusal := .next (s.moduleReset false)

/-- THERMAL_TRIP (R385): at 115 °C, a module reset that THERM bit 0 survives; at that temperature the device throttles. -/
def execThermalTrip (celsius : BitVec 8) (s : State) : Host.Outcome State Fault Refusal :=
  .next (if 115 ≤ celsius.toNat then (s.moduleReset true).onPlat (fun p => { p with celsius := celsius, withheld := true })
    else s)

/-! ### Function-level reset (R382) -/

/-- The context holds an instance of the tenant. -/
def Ctx.runs (c : Ctx) (ten : BitVec 5) : Bool := c.tenant == ten && c.run != .free

/-- The threads that run an instance of a tenant. -/
def State.tenantThreads (s : State) (ten : BitVec 5) : List Tid :=
  allTids.filter (fun t => (s.ctx t).runs ten)

/-- Every launch of the jobs of a tenant that is not final is cancelled (R40). -/
def State.cancelTenant (s : State) (ten : BitVec 5) : State :=
  (((s.slots.filter (fun p =>
    match p.2.launch with
    | some l => (s.job l.job).tenant == ten && !l.state.isFinal
    | none => false)).map (·.1)).foldl State.cancelLaunch s)

/-- Closes the pip groups of a context that a tenant opened (R303). -/
def State.closeGroupsOf (s : State) (t : Tid) (ten : BitVec 5) : State :=
  (List.range 16).foldl (fun s n =>
    let g : BitVec 4 := BitVec.ofNat 4 n
    if ((s.ctx t).groups[g.toNat]'(g.isLt)).tenant == ten then (s.closeGroup t g).1 else s) s

/-- A tenant's saved instances end as END ends them (R363): their pip groups, which stay with the context, are closed, and each
counts as retired. -/
def State.dropParked (s : State) (ten : BitVec 5) : State :=
  allTids.foldl (fun s t =>
    let ps := (s.ctx t).parked
    let s1 := s.onCtx t (fun c => { c with parked := ps.filter (fun p => p.tenant != ten) })
    let s2 := if (s1.ctx t).runs ten then s1 else s1.closeGroupsOf t ten
    (ps.filter (fun p => p.tenant == ten)).foldl (fun s p => match p.inst with | some i => s.retireInst i | none => s) s2)
    s

/-- A core with the handles of a tenant FREE and naming no region, and planes of its own empty (R382). -/
def Core.clean (k : Core) (ten : BitVec 5) : Core :=
  { k with
    handles := k.handles.map (fun h => if h.buf.isSome && h.ten == ten then Handle.reset else h)
    front := if k.owner == some ten then ⟨none, none⟩ else k.front
    shadow := if k.owner == some ten then ⟨none, none⟩ else k.shadow
    owner := if k.owner == some ten then none else k.owner
    ring := k.ring.filter (fun r => r.1.tenant != ten)
    ringOut := k.ringOut.filter (fun r => r.tenant != ten) }

/-- A free context with the position of a tenant unloaded. -/
def Ctx.clean (c : Ctx) (ten : BitVec 5) : Ctx := if c.tenant == ten then { c.dropHeld with board := none } else c

/-- A context with the position of a tenant unloaded, its CACHE tiles emptied (R216). -/
def State.unloadOf (s : State) (ten : BitVec 5) (t : Tid) : State :=
  (if (s.ctx t).tenant == ten then (s.emptyWays t).getD s else s).onCtx t (fun c => c.clean ten)

/-- The end of a function-level reset (R382): handles, planes and positions of the tenant are returned. -/
def State.finishFlr (s : State) (fn : BitVec 5) : State :=
  let s1 := allCores.foldl (fun s c => s.onCore c (fun k => k.clean fn)) s
  (allTids.foldl (fun s t => s.unloadOf fn t) s1).onPlat
    (fun p => { p with flr := Tbl.drop p.flr fn.toNat })

/-- Nothing of a tenant remains: no instance, running or saved, no open pip group, no launch that is not final, and no write under
way to a line in a way that a CACHE tile of it lends. -/
def State.goneTenant (s : State) (ten : BitVec 5) : Bool :=
  (s.tenantThreads ten).isEmpty && !(allTids.any (fun t => (s.ctx t).parked.any (fun p => p.tenant == ten)))
    && !(allTids.any (fun t => (s.ctx t).groups.toList.any (fun g => g.isOpen && g.tenant == ten)))
    && !(s.slots.any (fun p => match p.2.launch with | some l => l.tenant == ten && !l.state.isFinal | none => false))
    && !(allTids.any (fun t => (s.ctx t).tenant == ten && (s.emptyWays t).isNone))

/-- A function-level reset that is under way goes on (R382): launches made meanwhile are cancelled too, and it is complete
once nothing of the tenant remains. -/
def State.flrStep (s : State) (fn : BitVec 5) : State :=
  if (Tbl.find s.plat.flr fn.toNat).isSome then
    let s1 := s.cancelTenant fn
    if s1.goneTenant fn then s1.finishFlr fn else s1
  else s

/-- FUNCTION_LEVEL_RESET (R382): a module reset for the physical function; for a virtual one, the cancel of its jobs, and
its end once nothing of the tenant remains. -/
def execFunctionLevelReset (fn : BitVec 5) (s : State) : Host.Outcome State Fault Refusal :=
  if fn == 0 then .next (s.moduleReset false)
  else if 16 < fn.toNat then .next s
  else
    .next ((s.onPlat (fun p => { p with flr := Tbl.put p.flr fn.toNat (Tbl.getD p.flr fn.toNat s.clock.toNat) })).flrStep fn)

/-- An instance of a tenant under reset ends as END ends it (R363, R382): once its array work is done and its invocation is
cut. -/
def State.endForced (s : State) (t : Tid) : State :=
  let s1 := s.abortTx t 5 0
  match s1.unquiet t false with
  | some s2 => s2
  | none => s1.endThread t

/-- FUNCTION_LEVEL_RESET_TIMEOUT (R382): instances still running 100,000 ticks into the reset end as by END. -/
def execFunctionLevelResetTimeout (fn : BitVec 5) (s : State) : Host.Outcome State Fault Refusal :=
  match Tbl.find s.plat.flr fn.toNat with
  | some a =>
    if a + 100000 ≤ s.clock.toNat then
      .next ((((s.tenantThreads fn).foldl State.endForced s).dropParked fn).flrStep fn)
    else .next s
  | none => .next s

end Sys2Proof.Machine
end

