-- ==== Sys2Proof/Machine/Agents.lean ====
section
/-! DEFINITION. What hosts, service cores and the device do beside the rows of the opcode table (DESIGN CHOICE, log 1): reads
of host registers and of the queue-port window (R4, R368 to R370, R373, R383 to R385), the service cores' accesses on the SV
path, to their local memories and to the command ports (R377 to R380), measurements (R384), function-level resets (R382),
waiting notices (R352) and the ways of the L2 slices (R216, R291). -/

namespace Sys2Proof.Machine

/-! ### Reads of host registers (R4, R368) -/

/-- SEM as it reads (R370). -/
def HostPorts.semWord (h : HostPorts) : Word := BitVec.ofNat 64 ((if h.semErr then 2 ^ 7 else 0) + h.semOwn.toNat)

/-- FLIPST as it reads (R373). -/
def HostPorts.flipWord (h : HostPorts) : Word :=
  BitVec.ofNat 64 ((if h.flips.any FlipCmd.commanded then 2 ^ 63 else 0) + h.flipped.toNat)

/-- THERM as it reads (R385). -/
def Platform.thermWord (p : Platform) : Word :=
  BitVec.ofNat 64 (p.celsius.toNat * 2 ^ 8 + (if p.withheld then 2 else 0) + (if p.tripped then 1 else 0))

/-- QUOTE as it reads (R384). -/
def Platform.quoteWord (p : Platform) : Word := BitVec.ofNat 64 ((if p.qbusy then 2 ^ 63 else 0) + (if p.qdone then 1 else 0))

/-- The doubleword at an offset of BAR0 of a function. Management registers are the physical function's alone; what a function has
not, what is written only (R4), and offsets that name no register read as zero, LRES in another size than its 8 bytes too
(DESIGN CHOICE, log 46). -/
def State.bar0Word (s : State) (fn : BitVec 5) (off : Nat) : Word :=
  if fn != 0 then 0
  else if off = 0x100 then s.host.semWord
  else if off = 0x110 then s.host.flipWord
  else if off = 0x200 then idWord
  else if off = 0x210 then s.plat.fwst
  else if off = 0x218 then s.plat.pcap.zeroExtend 64
  else if off = 0x220 then s.plat.thermWord
  else if off = 0x640 then s.plat.quoteWord
  else 0

/-- The byte at an offset of BAR0: until the device admits hosts only ID and firmware control are there (R381). -/
def State.bar0Byte (s : State) (fn : BitVec 5) (off : Nat) : Byte :=
  if fn != 0 || (!s.plat.admits && !(0x200 ≤ off && off < 0x218)) then 0
  else if 0x400 ≤ off && off < 0x600 then
    BitVec.ofNat 8 ((s.plat.meas.toList.getD ((off - 0x400) / 64) 0).toNat / 256 ^ (off % 64))
  else if 0x2000 ≤ off && off < 0x4000 then s.plat.qbuf.getD (off - 0x2000) 0
  else BitVec.ofNat 8 ((s.bar0Word fn (off / 8 * 8)).toNat / 256 ^ (off % 8))

/-- A read of BAR0 by a host through a port: a whole LRES register pops its result (R369); any other read changes nothing. -/
def State.readBar0 (s : State) (fn : BitVec 5) (port : BitVec 1) (off n : Nat) : State :=
  if !(s.reaches fn port || (!s.plat.admits && fn == 0)) then s
  else if s.plat.admits && n = 8 && off % 0x20 = 8 && off < 0x80 then
    match execLres fn port (BitVec.ofNat 2 (off / 0x20)) s with
    | .next s1 => s1
    | _ => s
  else s.answer ((List.range n).map (fun i => s.bar0Byte fn (off + i)))

/-- A read of the BAR2 window by a host through a port (R368): what a thread of the tenant would load, and zero wherever its
load would trap. -/
def State.readBar2 (s : State) (fn : BitVec 5) (port : BitVec 1) (off n : Nat) : State :=
  if !(s.reaches fn port) then s
  else
    let whole := (n = 1 || n = 2 || n = 4 || n = 8) && off % n = 0
    let mine := match s.launchAt (off / 0x10000) with
      | some l => l.tenant == fn && (l.queue (off / 0x800 % 32)).isSome
      | none => false
    let w := off % 0x800
    if !whole || !mine || 0x4000000 ≤ off then s.answer (List.replicate n 0)
    else if 0x7F0 ≤ w && w < 0x7F8 && n != 8 then s.fresh.2.answer (leBytes n s.fresh.1.toNat)
    else s.answer (leBytes n (s.portLoad off n).toNat)

/-- A configuration request of a host for a function through a port (R381): Retry Status until the device admits hosts, then the
function accepts it. What a configuration space holds is PCI Express's and not the spec's (log 51). -/
def State.configRequest (s : State) (_fn : BitVec 5) (_port : BitVec 1) : State :=
  s.onHost (fun h => { h with config := some (if s.plat.admits then .accepted else .retry) })

/-! ### The SV path (R377 to R380) -/

/-- The outcome of an operation with the port's arguments (R378): that of its row of the opcode table; an unlisted one is
refused (R377). -/
def runCommand (core : BitVec 6) (cx : Cx) (op : Nat) (a : Fin 4 → Word) (s : State) : Host.Outcome State Fault Refusal :=
  match op with
  | 0x01 => execResume core cx s
  | 0x02 => execRedirect core cx (a 0) s
  | 0x03 => execSave core cx (a 0) (a 1) s
  | 0x04 => execRestore core cx (a 0) s
  | 0x05 => execEndInstance core cx s
  | 0x06 => execWake core cx s
  | 0x07 => execAgenResume core cx (a 0) s
  | 0x08 => execAgenDecline core cx (a 0) s
  | 0x09 => execCopyResume core cx (a 0) s
  | 0x0A => execCopyDecline core cx (a 0) s
  | 0x0B => execStop core cx (a 0) s
  | 0x10 => invalidateBy core cx (a 0) (a 1) (a 2) (a 3) s
  | 0x11 => execSetTframe core cx (a 0) s
  | 0x12 => writeHandleEntryBy core cx (a 0) (a 1) s
  | 0x13 => execWriteResidentEntry core cx (a 0) (a 1) s
  | 0x14 => execSetPipqQuota core cx (a 0) s
  | 0x15 => execReply core cx (a 0) s
  | 0x16 => readDirectoryEntryBy core cx (a 0) s
  | 0x17 => advanceNoticeHeadBy core cx (a 0) s
  | 0x18 => clearOrphanMarksBy core cx (a 0) s
  | 0x19 => setPageTableRootBy core cx (a 0) (a 2) s
  | 0x1A => setTvecBy core cx (a 0) s
  | 0x1B => execSetOcclLimits core cx (a 0) s
  | 0x1C => setBiasTableBaseBy core cx (a 0) s
  | 0x1D => setOrphanAreaBy core cx (a 0) (a 1) s
  | 0x1E => assignJobBy core cx (a 0) (a 2) s
  | 0x1F => resumeQueueBy core cx (a 0) (a 1) s
  | _ => command core cx op [] (fun _ => .refused) s

/-- The next state of a meaning that always has one. -/
def nextOr (s : State) : Host.Outcome State Fault Refusal → State
  | .next s1 => s1
  | _ => s

/-- A write of the CMD word of a core's command port (R377). -/
def State.writeCmd (s : State) (core : BitVec 6) (w : Word) : State :=
  nextOr s (runCommand core (if w.getLsbD 8 then .u else .n) (w.toNat % 256) (fun i => (s.core core).args[i]) s)

/-- STAT as it reads (R377). -/
def State.statWord (s : State) (core : BitVec 6) : Word :=
  (s.core core).stat ||| (if s.portBusy core then 0x8000000000000000#64 else 0)

/-- A doubleword read of a core's command-port page: CMD, and offsets that name no register, read as zero. -/
def State.readPort (s : State) (core : BitVec 6) (o : Nat) : State :=
  let word (w : Word) : State := s.answer (leBytes 8 w.toNat)
  let k := s.core core
  match o with
  | 0x08 => word k.args[0]
  | 0x10 => word k.args[1]
  | 0x18 => word k.args[2]
  | 0x20 => word k.args[3]
  | 0x28 => word (s.statWord core)
  | 0x30 => nextOr s (execCompl core s)
  | _ => word 0

/-- A doubleword write of a core's command-port page. A write of an argument waits while the port is busy (DESIGN CHOICE,
log 46). -/
def State.writePort (s : State) (core : BitVec 6) (o : Nat) (w : Word) : State :=
  let arg (i : Fin 4) : State :=
    if s.portBusy core then s else s.onCore core (fun k => { k with args := k.args.set i.val w i.isLt })
  match o with
  | 0x00 => s.writeCmd core w
  | 0x08 => arg 0
  | 0x10 => arg 1
  | 0x18 => arg 2
  | 0x20 => arg 3
  | _ => s

/-- The command-port page that a doubleword access names: its core and the offset. -/
def portPage (pa n : Nat) : Option (BitVec 6 × Nat) :=
  if n = 8 && pa % 8 = 0 && 0x0F0000000000 ≤ pa && pa < 0x0F0000040000 then
    some (BitVec.ofNat 6 ((pa - 0x0F0000000000) / 0x1000), pa % 0x1000)
  else none

/-- A service core reads n bytes by physical address (R377): device memory, or a register of a command port; a read of a port's
page that is not one aligned doubleword gives no answer (DESIGN CHOICE, log 46). -/
def State.svRead (s : State) (pa n : Nat) : State :=
  match portPage pa n with
  | some (c, o) => s.readPort c o
  | none =>
    if deviceBytes pa n then
      match s.agentRead pa n with
      | (s1, some bs) => s1.answer bs
      | (s1, none) => s.holdFrom s1
    else s

/-- A service core writes bytes by physical address (R377, R380). -/
def State.svWrite (s : State) (pa : Nat) (bs : List Byte) : State :=
  match portPage pa bs.length with
  | some (c, o) => s.writePort c o (BitVec.ofNat 64 (leNat bs))
  | none =>
    if deviceBytes pa bs.length then
      match s.agentWrite pa bs with
      | (s1, true) => s1
      | (s1, false) => s.holdFrom s1
    else s

/-- n bytes lie in a service core's local memory of 128 KiB (R377). -/
def inLocal (off n : Nat) : Bool := decide (off + n ≤ 131072)

/-- A service core reads its local memory. -/
def State.localRead (s : State) (sc : BitVec 4) (off n : Nat) : State :=
  if inLocal off n then s.answer (Memory.readBytes zeroByte (s.sv[sc.toNat]'(sc.isLt)) off n) else s

/-- A service core writes its local memory. -/
def State.localWrite (s : State) (sc : BitVec 4) (off : Nat) (bs : List Byte) : State :=
  if inLocal off bs.length then
    { s with sv := s.sv.set sc.toNat (Memory.writeBytes zeroByte (s.sv[sc.toNat]'(sc.isLt)) off bs) sc.isLt }
  else s

/-- An access or a move without a row of its own in the opcode table. The service cores run nothing while no firmware slot was
verified (R381). -/
def State.side (s : State) (a : Side) : State :=
  let sv (f : State) : State := if s.plat.stuck then s else f
  match a with
  | .readBar0 fn port off n => s.readBar0 fn port off n
  | .readBar2 fn port off n => s.readBar2 fn port off n
  | .configRequest fn port => s.configRequest fn port
  | .svRead _ pa n => sv (s.svRead pa n)
  | .svWrite _ pa bs => sv (s.svWrite pa bs)
  | .localRead sc off n => sv (s.localRead sc off n)
  | .localWrite sc off bs => sv (s.localWrite sc off bs)
  | .extend i d => s.extendMeas i d
  | .flr fn => s.flrStep fn
  | .flush core => s.flushNotices core (s.core core).notices
  | .l2Evict line => s.l2Evict line
  | .l2Lend line x n => s.l2Lend line (x, n)

end Sys2Proof.Machine
end

