-- ==== Sys2Proof/Machine/Cycle.lean ====
section
/-! DEFINITION. What a step adds around exec: fetching and decoding the instruction at a thread's PC (R42, R43, R64),
the STEP trap of element-step mode (R364), a clock tick (R54), and placing an instruction for the host. -/

namespace Sys2Proof.Machine

/-- What a fetch at a thread's PC gives: an instruction, or a trap (R64, steps 1 to 3). -/
inductive Fetched where
  | instr (i : Instr)
  | trap (q : Trap)
deriving DecidableEq, Repr

/-- Fetches and decodes the instruction at the PC of thread t: a fetch fault on the first word, then on the second
(tval holds the faulting word's address), then ILLOP with the words in tval (R62, R64). -/
def State.fetch (s : State) (t : Tid) : Fetched :=
  let pc := (s.ctx t).pc
  match s.fetchWords t pc with
  | .error (c, va, r) => .trap ⟨c.num, va, pc, pc, r, false, 0, [], []⟩
  | .ok (w, w2) =>
    match decode w w2 with
    | .ok i => .instr i
    | .error _ => .trap ⟨Cause.illop.num, w2 ++ w, pc, pc, false, false, 0, [], []⟩

/-- One tick of the device clock (R54). -/
def State.tick (s : State) : State := { s with clock := s.clock + 1 }

/-- `tret` takes no STEP of its own (R364). -/
def noStep : Instr → Bool
  | .tret => true
  | _ => false

/-- The instruction of thread t no longer waits: what the model holds of its wait for its queue or the planes is dropped. -/
def State.endWait (s : State) (t : Tid) : State :=
  let c := s.ctx t
  if c.waiting || (c.mxWait.isNone && !c.pushWait) then s else s.onCtx t (fun c => { c with mxWait := none, pushWait := false })

/-- A record given back to an instruction is used up once an instruction other than `tret` no longer waits (R351). -/
def State.dropRecord (s : State) (t : Tid) (i : Instr) : State :=
  if noStep i || (s.ctx t).waiting || (s.ctx t).resumed.isNone then s
  else s.onCtx t (fun c => { c with resumed := none, cvtSrc := none })

/-- The instruction issues rows to the array, and is complete when they are performed (R273 to R276), or sends a ring tile, and
is complete when the tile is back (R269). -/
def issuesRows : Instr → Bool
  | .mmavL6 .. | .mmavI8 .. | .mmavBf16 .. | .mzero .. | .mmab .. | .ldsl .. => true
  | _ => false

/-- What element-step mode adds after thread t has executed instruction i at PC tpc, in the state that exec answered:
a STEP trap, unless the thread trapped, waits, has ended, or is inside a transaction (R364). The step of a fabric
opcode ends with its invocation, that of a matrix instruction with its rows; that of a transaction that has aborted, at the
thread's next boundary. -/
def State.stepAfter (s : State) (t : Tid) (i : Instr) (tpc : Word) : State :=
  let c := s.ctx t
  if c.run == .running && !c.waiting && c.estep && !c.txa && !(noStep i) && c.stepFx.isNone && c.pendTrap.isNone then
    if issuesRows i && c.mx != 0 then s.onCtx t (fun c => { c with stepFx := some tpc })
    else
    match c.inv with
    | some v =>
      if v.tpc == tpc && !v.held && c.fx > 0 then s.onCtx t (fun c => { c with stepFx := some tpc })
      else s.takeTrap t (stepTrap tpc c.pc)
    | none => s.takeTrap t (stepTrap tpc c.pc)
  else s

/-- What a step adds after thread t has executed instruction i at PC tpc. -/
def State.afterInstr (s : State) (t : Tid) (i : Instr) (tpc : Word) : State := ((s.endWait t).dropRecord t i).stepAfter t i tpc

/-! ### Placing an instruction (DESIGN CHOICE, log 10) -/

/-- The PC that the model's loader uses: the PC itself where an instruction of eight bytes can be mapped by one leaf,
else zero. -/
def loadPc (pc : Word) : Word :=
  if canonical pc && (regionOf pc).isNone && pc.toNat % 4 == 0 && decide (pc.toNat % 2 ^ 30 ≤ 2 ^ 30 - 8) then pc else 0

/-- The physical page of the leaf that the loader installs: the second gigabyte of die 0. -/
def loadBase : Nat := 0x40000000

/-- The state with a page table, at 0x1000 and 0x2000, that maps the gigabyte around an address for a tenant with
every permission (R356). -/
def State.mapCode (s : State) (ten : BitVec 5) (va : Word) : State :=
  let s1 := (s.put (0x1000 + 8 * (va.toNat / 2 ^ 39 % 512)) (leBytes 8 0x2001)).put
    (0x2000 + 8 * (va.toNat / 2 ^ 30 % 512)) (leBytes 8 (loadBase + 0xF))
  { s1 with
    roots := s1.roots.set (ten.toNat % 17) 0x1000 (Nat.mod_lt _ (by decide))
    poison := s1.poison.filter (fun g => decide (0x180 ≤ g) || decide (g < 0x80)) }

/-- The state with bytes at a physical address and no poison there. -/
def State.load (s : State) (pa : Nat) (bs : List Byte) : State :=
  let s1 := s.put pa bs
  { s1 with poison := s1.poison.filter (fun g =>
      !(decide (g * 32 < pa + bs.length) && decide (pa < (g + 1) * 32))) }

/-- The thread s.cur stands at the instruction at pc, about to execute it: it runs, waits for nothing, and has nothing
pending that would come first. -/
def Ctx.ready (c : Ctx) (pc : Word) : Ctx :=
  { c with pc := pc, run := .running, waiting := false, wfi := none, resumed := none, fabStop := none, declined := [],
           preempt := none, stepFx := none, pendTrap := none, mxWait := none, pushWait := false }

/-- The state with the eight bytes of an instruction where the thread s.cur fetches next. -/
def State.placeBytes (s : State) (bs : List Byte) : State :=
  let s1 := { s with agenda := [] }
  let ten := s.me.tenant
  match s.fetchPlace ten s.pc, s.fetchPlace ten (s.pc + 4) with
  | .ok pa, .ok pb => ((s1.load pa (bs.take 4)).load pb (bs.drop 4)).onMe (fun c => c.ready c.pc)
  | _, _ =>
    let pc := loadPc s.pc
    ((s1.mapCode ten pc).load (loadBase + pc.toNat % 2 ^ 30) bs).onMe (fun c => c.ready pc)

end Sys2Proof.Machine
end

