-- ==== Sys2Proof/Machine/Factor.lean ====
section
/-! DEFINITION. Factor tiles (R279 to R288): upper-triangular Cholesky factors in FP32 that single instructions set,
scale, update, downdate and solve against. -/

namespace Sys2Proof.Machine

/-! ### Arithmetic (R280) -/

/-- round32 of a product. -/
def rdMul (x y : Nat) : Nat := (fp32.mul 0 x y).1

/-- round32 of x × y + z. -/
def rdFma (x y z : Nat) : Nat := (fp32.fma 0 x y z).1

/-- round32 of a quotient. -/
def rdDiv (x y : Nat) : Nat := (fp32.div 0 x y).1

/-- round32 of a square root. -/
def rdSqrt (x : Nat) : Nat := (fp32.sqrt 0 x).1

/-- An FP32 encoding with its sign changed. -/
def neg32 (x : Nat) : Nat := if x < 2 ^ 31 then x + 2 ^ 31 else x - 2 ^ 31

/-- Infinite or NaN. -/
def bad32 (x : Nat) : Bool := decide (fp32.inf ≤ x % 2 ^ 31)

/-- +0 or −0. -/
def zero32 (x : Nat) : Bool := x % 2 ^ 31 == 0

/-- Positive: not a NaN, and above zero. -/
def pos32 (x : Nat) : Bool := decide (0 < x) && decide (x ≤ fp32.inf)

/-- Positive and finite. -/
def posFin32 (x : Nat) : Bool := decide (0 < x) && decide (x < fp32.inf)

/-- Why a factor instruction fails (R288): FINDEF or FNUM, the step, and the value. -/
structure FtlFail where
  findef : Bool
  step   : Nat
  val    : Nat
deriving DecidableEq, Repr

/-- The values in order, of which the first infinite or NaN one fails with FNUM at step k. -/
def checkNum (k : Nat) (xs : List Nat) : Except FtlFail Unit :=
  match xs.find? bad32 with
  | some x => .error ⟨false, k, x⟩
  | none => .ok ()

/-! ### Rotations (R284, R285) -/

/-- The entries of row k right of the diagonal and the rest of w, rotated by c and s. -/
def rotateRow (down : Bool) (k c s : Nat) : List Nat → List Nat → Except FtlFail (List Nat × List Nat)
  | f :: fs, y :: ys => do
    let sy := rdMul s y
    let f' := rdFma c f (if down then neg32 sy else sy)
    let y' := rdFma c y (neg32 (rdMul s f))
    checkNum k [f', y']
    let (fs', ys') ← rotateRow down k c s fs ys
    .ok (f' :: fs', y' :: ys')
  | fs, ys => .ok (fs, ys)

/-- The steps of `fupd`, or of `fdnd` when down, from row k; rows are the upper triangle's, w the rest of the copy of
x. -/
def rotate (down : Bool) : Nat → List (List Nat) → List Nat → Except FtlFail (List (List Nat))
  | k, (r :: fs) :: rows, wk :: ws =>
    if zero32 wk then do
      let rest ← rotate down (k + 1) rows ws
      .ok ((r :: fs) :: rest)
    else do
      if !(posFin32 r) then .error ⟨true, k, r⟩
      let ww := rdMul wk wk
      let t := rdFma r r (if down then neg32 ww else ww)
      if down && !(pos32 t) then .error ⟨true, k, t⟩
      checkNum k [t]
      let rho := rdSqrt t
      if bad32 rho || zero32 rho then .error ⟨false, k, rho⟩
      let c := rdDiv r rho
      let s := rdDiv wk rho
      checkNum k [c, s]
      let (fs', ws') ← rotateRow down k c s fs ws
      let rest ← rotate down (k + 1) rows ws'
      .ok ((rho :: fs') :: rest)
  | _, rows, _ => .ok rows

/-- The check on x before any step (R284): the first infinite or NaN element, with its index. -/
def checkX (x : List Nat) : Except FtlFail Unit :=
  match x.zipIdx.find? (fun p => bad32 p.1) with
  | some (v, i) => .error ⟨false, i, v⟩
  | none => .ok ()

/-- The tile after x is absorbed, or removed when down. -/
def absorb (down : Bool) (f : List (List Nat)) (x : List Nat) : Except FtlFail (List (List Nat)) := do
  checkX x
  rotate down 0 f x

/-! ### Solves (R286) -/

/-- Entry (i, j), j at or above i. -/
def triAt (f : List (List Nat)) (i j : Nat) : Nat := (f.getD i []).getD (j - i) 0

/-- The lowest diagonal entry that is ±0 fails with FINDEF. -/
def checkDiag (f : List (List Nat)) : Except FtlFail Unit :=
  match f.zipIdx.find? (fun p => zero32 (p.1.headD 0)) with
  | some (r, i) => .error ⟨true, i, r.headD 0⟩
  | none => .ok ()

/-- y(i) from its numerator. -/
def solved (f : List (List Nat)) (i a : Nat) : Except FtlFail Nat := do
  let y := rdDiv a (triAt f i i)
  checkNum i [y]
  .ok y

/-- Fᵀ y = z. -/
def solveT (f : List (List Nat)) (z : List Nat) : Except FtlFail (List Nat) := do
  checkDiag f
  (List.range z.length).foldlM (fun ys i => do
    let a := (List.range i).foldl (fun a m => rdFma (neg32 (triAt f m i)) (ys.getD m 0) a) (z.getD i 0)
    let y ← solved f i a
    .ok (ys ++ [y])) []

/-- F y = z. -/
def solveN (f : List (List Nat)) (z : List Nat) : Except FtlFail (List Nat) := do
  checkDiag f
  (List.range z.length).reverse.foldlM (fun ys i => do
    let a := (((f.getD i []).drop 1).zip ys).reverse.foldl (fun a p => rdFma (neg32 p.1) p.2 a) (z.getD i 0)
    let y ← solved f i a
    .ok (y :: ys)) []

/-! ### Setting and scaling (R282, R283) -/

/-- v × I, the upper triangle of order n. -/
def identityTile (n v : Nat) : List (List Nat) := (List.range n).map (fun i => v :: List.replicate (n - i - 1) 0)

/-- A value that must be positive and finite, with step 0. -/
def checkScale (v : Nat) : Except FtlFail Unit := if posFin32 v then .ok () else .error ⟨false, 0, v⟩

/-- One entry scaled: an infinite result, or a zero on the diagonal, fails with its row. -/
def scaleEntry (s i : Nat) (diag : Bool) (x : Nat) : Except FtlFail Nat :=
  let r := rdMul x s
  if r % 2 ^ 31 == fp32.inf || (diag && zero32 r) then .error ⟨false, i, r⟩ else .ok r

/-- Every entry scaled, row by row. -/
def scaleTile (s : Nat) (f : List (List Nat)) : Except FtlFail (List (List Nat)) := do
  checkScale s
  f.zipIdx.mapM (fun p => p.1.zipIdx.mapM (fun q => scaleEntry s p.2 (q.2 == 0) q.1))

/-! ### The tile in the C buffer (R279) -/

/-- The order of a tile word. -/
def tileOrder (x : Word) : Nat := (x.extractLsb' 32 9).toNat

/-- The byte offset of a tile word. -/
def tileOff (x : Word) : Nat := (x.extractLsb' 0 19).toNat

/-- The checks of a tile word, those on a vector operand's length, and the waits (R279, R280). -/
def factorTile (s : State) (ga : Word) (h : BitVec 6) (vec : Bool) : Run Handle := do
  if tileOff ga % 4 != 0 then trapNow s .misalign ga
  let n := tileOrder ga
  let hd := s.handle s.cur h
  if !(ga.extractLsb' 19 13 == 0 && ga.extractLsb' 41 23 == 0 && decide (1 ≤ n) && decide (n ≤ 256)
      && hd.names s.me.tenant && hd.buf == some .c && decide (tileOff ga + 4 * n * n ≤ hd.size)
      && (!vec || decide (n ≤ s.me.vlmax))) then
    trapNow s .handle (h.zeroExtend 64)
  rowWait s h
  if !s.me.mxJobs.isEmpty then waitNow s
  .ok hd

/-- The upper triangle of a tile, row by row. -/
def State.tile (s : State) (hd : Handle) (ga : Word) : List (List Nat) :=
  let n := tileOrder ga
  (List.range n).map (fun i =>
    let bs := s.myCore.regionBytes hd (tileOff ga + 4 * (n * i + i)) (4 * (n - i))
    (cut 4 bs (n - i)).map leNat)

/-- The state with a tile's upper triangle written. -/
def State.putTile (s : State) (hd : Handle) (ga : Word) (f : List (List Nat)) : State :=
  let n := tileOrder ga
  s.onCore s.cur.core (fun k =>
    f.zipIdx.foldl (fun k p => k.putRegion hd (tileOff ga + 4 * (n * p.2 + p.2)) (p.1.flatMap (leBytes 4))) k)

/-- The trap of a failure (R288): kind 5 with the step, resuming at the next instruction. -/
def factorTrap {α : Type} (s : State) (e : FtlFail) : Run α :=
  .error (.trap s { trapN s (if e.findef then .findef else .fnum) (BitVec.ofNat 64 e.val) 4 with
    kind := 5, prog := padTo 64 (leBytes 4 e.step) })

/-- The result of a tile computation written, or its failure taken. -/
def putOrTrap (s : State) (hd : Handle) (ga : Word) (r : Except FtlFail (List (List Nat))) : Run State :=
  match r with
  | .ok f => .ok ((s.putTile hd ga f).advance 4)
  | .error e => factorTrap s e

/-- A vector operand of a factor instruction is legal (R280). -/
def Ctx.factorVec (c : Ctx) (r : BitVec 5) : Bool := c.ew == 32 && c.group r

/-- Elements 0 to n − 1 of a group. -/
def Ctx.elems (c : Ctx) (r : BitVec 5) (n : Nat) : List Nat := (List.range n).map (c.el 32 r.toNat)

/-- Elements 0 to n − 1 of a group written, with the group's fill (R286, R287). -/
def Ctx.setElems (c : Ctx) (r : BitVec 5) (xs : List Nat) : Ctx :=
  (xs.zipIdx.foldl (fun c p => c.setEl 32 r.toNat p.2 p.1) c).fillGroup r xs.length

/-! ### The instructions (R282 to R287) -/

/-- FINIT (R282). -/
def execFinit (a b : BitVec 5) (h : BitVec 6) (s : State) : Host.Outcome State Fault Refusal := finish do
  notInTx s
  let ga := s.G a
  let hd ← factorTile s ga h false
  let v := ((s.G b).extractLsb' 0 32).toNat
  putOrTrap s hd ga ((checkScale v).map (fun _ => identityTile (tileOrder ga) v))

/-- FSCALE (R283). -/
def execFscale (a b : BitVec 5) (h : BitVec 6) (s : State) : Host.Outcome State Fault Refusal := finish do
  notInTx s
  let ga := s.G a
  let hd ← factorTile s ga h false
  putOrTrap s hd ga (scaleTile ((s.G b).extractLsb' 0 32).toNat (s.tile hd ga))

/-- FUPD (R284). -/
def execFupd (a b : BitVec 5) (h : BitVec 6) (s : State) : Host.Outcome State Fault Refusal := finish do
  notInTx s
  legal s (.fupd a b h) (s.me.factorVec b)
  let ga := s.G a
  let hd ← factorTile s ga h true
  putOrTrap s hd ga (absorb false (s.tile hd ga) (s.me.elems b (tileOrder ga)))

/-- FDND (R285). -/
def execFdnd (a b : BitVec 5) (h : BitVec 6) (s : State) : Host.Outcome State Fault Refusal := finish do
  notInTx s
  legal s (.fdnd a b h) (s.me.factorVec b)
  let ga := s.G a
  let hd ← factorTile s ga h true
  putOrTrap s hd ga (absorb true (s.tile hd ga) (s.me.elems b (tileOrder ga)))

/-- The status of a failed `fdnd.s` (R285). -/
def failStatus (e : FtlFail) : Word := BitVec.ofNat 64 ((if e.findef then 1 else 2) * 2 ^ 32 + e.step)

/-- FDND_S (R285). -/
def execFdndS (d a b : BitVec 5) (h : BitVec 6) (s : State) : Host.Outcome State Fault Refusal := finish do
  notInTx s
  legal s (.fdndS d a b h) (s.me.factorVec b)
  let ga := s.G a
  let hd ← factorTile s ga h true
  match absorb true (s.tile hd ga) (s.me.elems b (tileOrder ga)) with
  | .ok f => .ok (((s.putTile hd ga f).setG d 0).advance 4)
  | .error e => .ok ((s.setG d (failStatus e)).advance 4)

/-- A result vector written into group d, or its failure taken. -/
def vecOrTrap (s : State) (d : BitVec 5) (r : Except FtlFail (List Nat)) : Run State :=
  match r with
  | .ok y => .ok ((s.onMe (fun c => c.setElems d y)).advance 4)
  | .error e => factorTrap s e

/-- FSOLT (R286). -/
def execFsolt (d a : BitVec 5) (h : BitVec 6) (s : State) : Host.Outcome State Fault Refusal := finish do
  notInTx s
  legal s (.fsolt d a h) (s.me.factorVec d)
  let ga := s.G a
  let hd ← factorTile s ga h true
  vecOrTrap s d (solveT (s.tile hd ga) (s.me.elems d (tileOrder ga)))

/-- FSOLN (R286). -/
def execFsoln (d a : BitVec 5) (h : BitVec 6) (s : State) : Host.Outcome State Fault Refusal := finish do
  notInTx s
  legal s (.fsoln d a h) (s.me.factorVec d)
  let ga := s.G a
  let hd ← factorTile s ga h true
  vecOrTrap s d (solveN (s.tile hd ga) (s.me.elems d (tileOrder ga)))

/-- FDIAG (R287). -/
def execFdiag (d a : BitVec 5) (h : BitVec 6) (s : State) : Host.Outcome State Fault Refusal := finish do
  notInTx s
  legal s (.fdiag d a h) (s.me.factorVec d)
  let ga := s.G a
  let hd ← factorTile s ga h true
  vecOrTrap s d (.ok ((s.tile hd ga).map (fun r => r.headD 0)))

end Sys2Proof.Machine
end

