-- ==== Sys2Proof/Machine/Scalar.lean ====
section
/-! DEFINITION. Integer register operations, immediate forms, multiply and divide, branches and jumps (R94 to R101,
R107 to R109). Hints, the words with d = 0, write nothing (R63). -/

namespace Sys2Proof.Machine

/-- An integer result: G(d) := x, and the thread continues at the next instruction. -/
def State.result (s : State) (d : BitVec 5) (x : Word) : State := (s.setG d x).advance 4

/-- The outcome of an integer instruction. -/
def writeInt (d : BitVec 5) (x : Word) (s : State) : Host.Outcome State Fault Refusal := finish (.ok (s.result d x))

/-- ADD (R96). -/
def execAdd (d a b : BitVec 5) (s : State) : Host.Outcome State Fault Refusal :=
  writeInt d (s.G a + s.G b) s

/-- SUB (R96). -/
def execSub (d a b : BitVec 5) (s : State) : Host.Outcome State Fault Refusal :=
  writeInt d (s.G a - s.G b) s

/-- AND (R96). -/
def execAnd (d a b : BitVec 5) (s : State) : Host.Outcome State Fault Refusal :=
  writeInt d (s.G a &&& s.G b) s

/-- OR (R96). -/
def execOr (d a b : BitVec 5) (s : State) : Host.Outcome State Fault Refusal :=
  writeInt d (s.G a ||| s.G b) s

/-- XOR (R96). -/
def execXor (d a b : BitVec 5) (s : State) : Host.Outcome State Fault Refusal :=
  writeInt d (s.G a ^^^ s.G b) s

/-- ANDN (R96). -/
def execAndn (d a b : BitVec 5) (s : State) : Host.Outcome State Fault Refusal :=
  writeInt d (s.G a &&& ~~~(s.G b)) s

/-- SLL (R96). -/
def execSll (d a b : BitVec 5) (s : State) : Host.Outcome State Fault Refusal :=
  writeInt d (s.G a <<< ((s.G b).extractLsb' 0 6).toNat) s

/-- SRL (R96). -/
def execSrl (d a b : BitVec 5) (s : State) : Host.Outcome State Fault Refusal :=
  writeInt d (s.G a >>> ((s.G b).extractLsb' 0 6).toNat) s

/-- SRA (R96). -/
def execSra (d a b : BitVec 5) (s : State) : Host.Outcome State Fault Refusal :=
  writeInt d ((s.G a).sshiftRight ((s.G b).extractLsb' 0 6).toNat) s

/-- SLT (R96). -/
def execSlt (d a b : BitVec 5) (s : State) : Host.Outcome State Fault Refusal :=
  writeInt d (boolWord ((s.G a).slt (s.G b))) s

/-- SLTU (R96). -/
def execSltu (d a b : BitVec 5) (s : State) : Host.Outcome State Fault Refusal :=
  writeInt d (boolWord ((s.G a).ult (s.G b))) s

/-- MIN (R96). -/
def execMin (d a b : BitVec 5) (s : State) : Host.Outcome State Fault Refusal :=
  writeInt d (if (s.G a).slt (s.G b) then s.G a else s.G b) s

/-- MAX (R96). -/
def execMax (d a b : BitVec 5) (s : State) : Host.Outcome State Fault Refusal :=
  writeInt d (if (s.G a).slt (s.G b) then s.G b else s.G a) s

/-- MINU (R96). -/
def execMinu (d a b : BitVec 5) (s : State) : Host.Outcome State Fault Refusal :=
  writeInt d (if (s.G a).ult (s.G b) then s.G a else s.G b) s

/-- MAXU (R96). -/
def execMaxu (d a b : BitVec 5) (s : State) : Host.Outcome State Fault Refusal :=
  writeInt d (if (s.G a).ult (s.G b) then s.G b else s.G a) s

/-- CLZ (R96). -/
def execClz (d a : BitVec 5) (s : State) : Host.Outcome State Fault Refusal :=
  writeInt d (clzWord (s.G a)) s

/-- CTZ (R96). -/
def execCtz (d a : BitVec 5) (s : State) : Host.Outcome State Fault Refusal :=
  writeInt d (ctzWord (s.G a)) s

/-- POP (R96). -/
def execPop (d a : BitVec 5) (s : State) : Host.Outcome State Fault Refusal :=
  writeInt d (popWord (s.G a)) s

/-- SEXT_B (R96). -/
def execSextB (d a : BitVec 5) (s : State) : Host.Outcome State Fault Refusal :=
  writeInt d (sextW ((s.G a).extractLsb' 0 8)) s

/-- SEXT_H (R96). -/
def execSextH (d a : BitVec 5) (s : State) : Host.Outcome State Fault Refusal :=
  writeInt d (sextW ((s.G a).extractLsb' 0 16)) s

/-- SEXT_W (R96). -/
def execSextW (d a : BitVec 5) (s : State) : Host.Outcome State Fault Refusal :=
  writeInt d (sextW ((s.G a).extractLsb' 0 32)) s

/-- ZEXT_W (R96). -/
def execZextW (d a : BitVec 5) (s : State) : Host.Outcome State Fault Refusal :=
  writeInt d (((s.G a).extractLsb' 0 32).zeroExtend 64) s

/-- ADDI (R97); `addi g0, g0, 0` is the canonical nop (R127). -/
def execAddi (d a : BitVec 5) (i : BitVec 16) (s : State) : Host.Outcome State Fault Refusal :=
  writeInt d (s.G a + sextW i) s

/-- ANDI (R97). -/
def execAndi (d a : BitVec 5) (i : BitVec 16) (s : State) : Host.Outcome State Fault Refusal :=
  writeInt d (s.G a &&& sextW i) s

/-- ORI (R97). -/
def execOri (d a : BitVec 5) (i : BitVec 16) (s : State) : Host.Outcome State Fault Refusal :=
  writeInt d (s.G a ||| sextW i) s

/-- XORI (R97). -/
def execXori (d a : BitVec 5) (i : BitVec 16) (s : State) : Host.Outcome State Fault Refusal :=
  writeInt d (s.G a ^^^ sextW i) s

/-- SLTI (R97). -/
def execSlti (d a : BitVec 5) (i : BitVec 16) (s : State) : Host.Outcome State Fault Refusal :=
  writeInt d (boolWord ((s.G a).slt (sextW i))) s

/-- SLTIU (R97). -/
def execSltiu (d a : BitVec 5) (i : BitVec 16) (s : State) : Host.Outcome State Fault Refusal :=
  writeInt d (boolWord ((s.G a).ult (sextW i))) s

/-- SLLI (R98). -/
def execSlli (d a : BitVec 5) (n : BitVec 6) (s : State) : Host.Outcome State Fault Refusal :=
  writeInt d (s.G a <<< n.toNat) s

/-- SRLI (R98). -/
def execSrli (d a : BitVec 5) (n : BitVec 6) (s : State) : Host.Outcome State Fault Refusal :=
  writeInt d (s.G a >>> n.toNat) s

/-- SRAI (R98). -/
def execSrai (d a : BitVec 5) (n : BitVec 6) (s : State) : Host.Outcome State Fault Refusal :=
  writeInt d ((s.G a).sshiftRight n.toNat) s

/-- LUI (R99). -/
def execLui (d : BitVec 5) (i : BitVec 16) (s : State) : Host.Outcome State Fault Refusal :=
  writeInt d (upper i) s

/-- PCHI (R99): PC is the address of the instruction itself. -/
def execPchi (d : BitVec 5) (i : BitVec 16) (s : State) : Host.Outcome State Fault Refusal :=
  writeInt d (s.pc + upper i) s

/-- MUL (R100). -/
def execMul (d a b : BitVec 5) (s : State) : Host.Outcome State Fault Refusal :=
  writeInt d (s.G a * s.G b) s

/-- MULH (R100). -/
def execMulh (d a b : BitVec 5) (s : State) : Host.Outcome State Fault Refusal :=
  writeInt d (highOf ((s.G a).toInt * (s.G b).toInt)) s

/-- MULHU (R100). -/
def execMulhu (d a b : BitVec 5) (s : State) : Host.Outcome State Fault Refusal :=
  writeInt d (highOf ((s.G a).toNat * (s.G b).toNat : Nat)) s

/-- MULHSU (R100): a signed, b unsigned. -/
def execMulhsu (d a b : BitVec 5) (s : State) : Host.Outcome State Fault Refusal :=
  writeInt d (highOf ((s.G a).toInt * ((s.G b).toNat : Int))) s

/-- DIV (R100, R101). -/
def execDiv (d a b : BitVec 5) (s : State) : Host.Outcome State Fault Refusal :=
  writeInt d (divWord (s.G a) (s.G b)) s

/-- DIVU (R100, R101). -/
def execDivu (d a b : BitVec 5) (s : State) : Host.Outcome State Fault Refusal :=
  writeInt d (divuWord (s.G a) (s.G b)) s

/-- REM (R100, R101). -/
def execRem (d a b : BitVec 5) (s : State) : Host.Outcome State Fault Refusal :=
  writeInt d (remWord (s.G a) (s.G b)) s

/-- REMU (R100, R101). -/
def execRemu (d a b : BitVec 5) (s : State) : Host.Outcome State Fault Refusal :=
  writeInt d (remuWord (s.G a) (s.G b)) s

/-! ### Branches and jumps (R107 to R109) -/

/-- The state after a branch: at the target when the comparison holds, else at the next instruction (R107). -/
def State.branch (s : State) (taken : Bool) (i : BitVec 16) : State :=
  if taken then s.onMe (fun c => { c with pc := target c.pc i, waiting := false }) else s.advance 4


/-- BEQ (R107). -/
def execBeq (a b : BitVec 5) (i : BitVec 16) (s : State) : Host.Outcome State Fault Refusal :=
  finish (.ok (s.branch (s.G a == s.G b) i))

/-- BNE (R107). -/
def execBne (a b : BitVec 5) (i : BitVec 16) (s : State) : Host.Outcome State Fault Refusal :=
  finish (.ok (s.branch (s.G a != s.G b) i))

/-- BLT (R107). -/
def execBlt (a b : BitVec 5) (i : BitVec 16) (s : State) : Host.Outcome State Fault Refusal :=
  finish (.ok (s.branch ((s.G a).slt (s.G b)) i))

/-- BGE (R107). -/
def execBge (a b : BitVec 5) (i : BitVec 16) (s : State) : Host.Outcome State Fault Refusal :=
  finish (.ok (s.branch (!(s.G a).slt (s.G b)) i))

/-- BLTU (R107). -/
def execBltu (a b : BitVec 5) (i : BitVec 16) (s : State) : Host.Outcome State Fault Refusal :=
  finish (.ok (s.branch ((s.G a).ult (s.G b)) i))

/-- BGEU (R107). -/
def execBgeu (a b : BitVec 5) (i : BitVec 16) (s : State) : Host.Outcome State Fault Refusal :=
  finish (.ok (s.branch (!(s.G a).ult (s.G b)) i))

/-- The state after a jump that links PC + 4 into G(d) (R108, R109). -/
def State.jump (s : State) (d : BitVec 5) (t : Word) : State :=
  (s.setG d (s.pc + 4)).onMe (fun c => { c with pc := t, waiting := false })

/-- JAL (R108). -/
def execJal (d : BitVec 5) (i : BitVec 21) (s : State) : Host.Outcome State Fault Refusal :=
  finish (.ok (s.jump d (target s.pc i)))

/-- JALR (R109): a target that is not 4-byte aligned traps MISALIGN with tval the target and G(d) unchanged. -/
def execJalr (d a : BitVec 5) (i : BitVec 16) (s : State) : Host.Outcome State Fault Refusal :=
  let t := s.G a + sextW i
  finish (if t.extractLsb' 0 2 != 0 then trapNow s .misalign t else .ok (s.jump d t))

end Sys2Proof.Machine
end

