-- ==== Sys2Proof/Machine/ScalarFp.lean ====
section
/-! DEFINITION. Scalar floating point (R102 to R106): operands are the low bits of general registers, results are
written zero-extended, and flags are raised in fcsr. No floating-point condition traps. -/

namespace Sys2Proof.Machine

/-- The format of an FP type code 0 to 2 (R103). -/
def typeFmt (t : BitVec 3) : Fmt :=
  match t.toNat with
  | 0 => bf16
  | 1 => fp32
  | _ => fp64

/-- The type-T value in a general register: its low bits (R102). -/
def State.fpOp (s : State) (t : BitVec 3) (r : BitVec 5) : Nat := (s.G r).toNat % 2 ^ (typeFmt t).width

/-- An FP result written zero-extended, with its flags; writing g0 still sets flags (R105). -/
def writeFp (d : BitVec 5) (r : Nat × FpFlags) (s : State) : Host.Outcome State Fault Refusal :=
  finish (.ok (((s.raiseFlags r.2).setG d (BitVec.ofNat 64 r.1)).advance 4))

/-- A comparison's result as 1 or 0 (R104). -/
def cmpResult (r : Bool × FpFlags) : Nat × FpFlags := (if r.1 then 1 else 0, r.2)

/-- FADD (R104). -/
def execFadd (d a b : BitVec 5) (t : BitVec 3) (s : State) : Host.Outcome State Fault Refusal :=
  writeFp d ((typeFmt t).add s.me.rm (s.fpOp t a) (s.fpOp t b)) s

/-- FSUB (R104). -/
def execFsub (d a b : BitVec 5) (t : BitVec 3) (s : State) : Host.Outcome State Fault Refusal :=
  writeFp d ((typeFmt t).sub s.me.rm (s.fpOp t a) (s.fpOp t b)) s

/-- FMUL (R104). -/
def execFmul (d a b : BitVec 5) (t : BitVec 3) (s : State) : Host.Outcome State Fault Refusal :=
  writeFp d ((typeFmt t).mul s.me.rm (s.fpOp t a) (s.fpOp t b)) s

/-- FDIV (R104). -/
def execFdiv (d a b : BitVec 5) (t : BitVec 3) (s : State) : Host.Outcome State Fault Refusal :=
  writeFp d ((typeFmt t).div s.me.rm (s.fpOp t a) (s.fpOp t b)) s

/-- FMA (R104): x × y + z with z in G(d). -/
def execFma (d a b : BitVec 5) (t : BitVec 3) (s : State) : Host.Outcome State Fault Refusal :=
  writeFp d ((typeFmt t).fma s.me.rm (s.fpOp t a) (s.fpOp t b) (s.fpOp t d)) s

/-- FSQRT (R104). -/
def execFsqrt (d a : BitVec 5) (t : BitVec 3) (s : State) : Host.Outcome State Fault Refusal :=
  writeFp d ((typeFmt t).sqrt s.me.rm (s.fpOp t a)) s

/-- FMIN (R104, R105). -/
def execFmin (d a b : BitVec 5) (t : BitVec 3) (s : State) : Host.Outcome State Fault Refusal :=
  writeFp d ((typeFmt t).min (s.fpOp t a) (s.fpOp t b)) s

/-- FMAX (R104, R105). -/
def execFmax (d a b : BitVec 5) (t : BitVec 3) (s : State) : Host.Outcome State Fault Refusal :=
  writeFp d ((typeFmt t).max (s.fpOp t a) (s.fpOp t b)) s

/-- FCMPEQ (R104). -/
def execFcmpEq (d a b : BitVec 5) (t : BitVec 3) (s : State) : Host.Outcome State Fault Refusal :=
  writeFp d (cmpResult ((typeFmt t).cmpEq (s.fpOp t a) (s.fpOp t b))) s

/-- FCMPLT (R104). -/
def execFcmpLt (d a b : BitVec 5) (t : BitVec 3) (s : State) : Host.Outcome State Fault Refusal :=
  writeFp d (cmpResult ((typeFmt t).cmpLt (s.fpOp t a) (s.fpOp t b))) s

/-- FCMPLE (R104). -/
def execFcmpLe (d a b : BitVec 5) (t : BitVec 3) (s : State) : Host.Outcome State Fault Refusal :=
  writeFp d (cmpResult ((typeFmt t).cmpLe (s.fpOp t a) (s.fpOp t b))) s

/-- The format code of R129 of an FP type code (R103). -/
def typeCode (t : BitVec 3) : Nat := if t.toNat < 3 then 0xA + t.toNat else t.toNat

/-- A conversion's result in a general register: `.w` sign-extended, every other type zero-extended (R106). -/
def typeWord (t : BitVec 3) (x : Nat) : Word := if t = 4 then (BitVec.ofNat 32 x).signExtend 64 else BitVec.ofNat 64 x

/-- FCVT (R106): the source is read from the low bits of G(a) of its width. -/
def execFcvt (d a : BitVec 5) (t sc : BitVec 3) (s : State) : Host.Outcome State Fault Refusal :=
  let x := (s.G a).toNat % 2 ^ codeWidth (typeCode sc)
  let r := convert (typeCode t) (typeCode sc) s.me.rm 0 x
  finish (.ok (((s.raiseFlags r.2).setG d (typeWord t r.1)).advance 4))

end Sys2Proof.Machine
end

