-- ==== Sys2Proof/Machine/Dispatch.lean ====
section
/-! DEFINITION. The one match over Instr: each arm is one direct call of its meaning, or rejects by name. -/

namespace Sys2Proof.Machine

/-- Instruction i executed by the thread s.cur, or the step of another agent that i names. -/
def exec (i : Instr) (s : State) : Host.Outcome State Fault Refusal :=
  match i with
  | .add d a b => Sys2Proof.Machine.execAdd d a b s
  | .sub d a b => Sys2Proof.Machine.execSub d a b s
  | .and d a b => Sys2Proof.Machine.execAnd d a b s
  | .or d a b => Sys2Proof.Machine.execOr d a b s
  | .xor d a b => Sys2Proof.Machine.execXor d a b s
  | .andn d a b => Sys2Proof.Machine.execAndn d a b s
  | .sll d a b => Sys2Proof.Machine.execSll d a b s
  | .srl d a b => Sys2Proof.Machine.execSrl d a b s
  | .sra d a b => Sys2Proof.Machine.execSra d a b s
  | .slt d a b => Sys2Proof.Machine.execSlt d a b s
  | .sltu d a b => Sys2Proof.Machine.execSltu d a b s
  | .min d a b => Sys2Proof.Machine.execMin d a b s
  | .max d a b => Sys2Proof.Machine.execMax d a b s
  | .minu d a b => Sys2Proof.Machine.execMinu d a b s
  | .maxu d a b => Sys2Proof.Machine.execMaxu d a b s
  | .clz d a => Sys2Proof.Machine.execClz d a s
  | .ctz d a => Sys2Proof.Machine.execCtz d a s
  | .pop d a => Sys2Proof.Machine.execPop d a s
  | .sextB d a => Sys2Proof.Machine.execSextB d a s
  | .sextH d a => Sys2Proof.Machine.execSextH d a s
  | .sextW d a => Sys2Proof.Machine.execSextW d a s
  | .zextW d a => Sys2Proof.Machine.execZextW d a s
  | .addi d a imm => Sys2Proof.Machine.execAddi d a imm s
  | .andi d a imm => Sys2Proof.Machine.execAndi d a imm s
  | .ori d a imm => Sys2Proof.Machine.execOri d a imm s
  | .xori d a imm => Sys2Proof.Machine.execXori d a imm s
  | .slti d a imm => Sys2Proof.Machine.execSlti d a imm s
  | .sltiu d a imm => Sys2Proof.Machine.execSltiu d a imm s
  | .slli d a n => Sys2Proof.Machine.execSlli d a n s
  | .srli d a n => Sys2Proof.Machine.execSrli d a n s
  | .srai d a n => Sys2Proof.Machine.execSrai d a n s
  | .lui d imm => Sys2Proof.Machine.execLui d imm s
  | .pchi d imm => Sys2Proof.Machine.execPchi d imm s
  | .mul d a b => Sys2Proof.Machine.execMul d a b s
  | .mulh d a b => Sys2Proof.Machine.execMulh d a b s
  | .mulhu d a b => Sys2Proof.Machine.execMulhu d a b s
  | .mulhsu d a b => Sys2Proof.Machine.execMulhsu d a b s
  | .div d a b => Sys2Proof.Machine.execDiv d a b s
  | .divu d a b => Sys2Proof.Machine.execDivu d a b s
  | .rem d a b => Sys2Proof.Machine.execRem d a b s
  | .remu d a b => Sys2Proof.Machine.execRemu d a b s
  | .fadd d a b t => Sys2Proof.Machine.execFadd d a b t s
  | .fsub d a b t => Sys2Proof.Machine.execFsub d a b t s
  | .fmul d a b t => Sys2Proof.Machine.execFmul d a b t s
  | .fma d a b t => Sys2Proof.Machine.execFma d a b t s
  | .fdiv d a b t => Sys2Proof.Machine.execFdiv d a b t s
  | .fsqrt d a t => Sys2Proof.Machine.execFsqrt d a t s
  | .fmin d a b t => Sys2Proof.Machine.execFmin d a b t s
  | .fmax d a b t => Sys2Proof.Machine.execFmax d a b t s
  | .fcmpEq d a b t => Sys2Proof.Machine.execFcmpEq d a b t s
  | .fcmpLt d a b t => Sys2Proof.Machine.execFcmpLt d a b t s
  | .fcmpLe d a b t => Sys2Proof.Machine.execFcmpLe d a b t s
  | .fcvt d a t src => Sys2Proof.Machine.execFcvt d a t src s
  | .beq a b imm => Sys2Proof.Machine.execBeq a b imm s
  | .bne a b imm => Sys2Proof.Machine.execBne a b imm s
  | .blt a b imm => Sys2Proof.Machine.execBlt a b imm s
  | .bge a b imm => Sys2Proof.Machine.execBge a b imm s
  | .bltu a b imm => Sys2Proof.Machine.execBltu a b imm s
  | .bgeu a b imm => Sys2Proof.Machine.execBgeu a b imm s
  | .jal d imm => Sys2Proof.Machine.execJal d imm s
  | .jalr d a imm => Sys2Proof.Machine.execJalr d a imm s
  | .ld d a w imm => Sys2Proof.Machine.execLd d a w imm s
  | .st src a w imm => Sys2Proof.Machine.execSt src a w imm s
  | .lda d a w c imm => Sys2Proof.Machine.execLda d a w c imm s
  | .stl src a w c imm => Sys2Proof.Machine.execStl src a w c imm s
  | .ldc d a w imm => Sys2Proof.Machine.execLdc d a w imm s
  | .amoAdd d a b z c q l => Sys2Proof.Machine.execAmoAdd d a b z c q l s
  | .amoSwap d a b z c q l => Sys2Proof.Machine.execAmoSwap d a b z c q l s
  | .amoAnd d a b z c q l => Sys2Proof.Machine.execAmoAnd d a b z c q l s
  | .amoOr d a b z c q l => Sys2Proof.Machine.execAmoOr d a b z c q l s
  | .amoXor d a b z c q l => Sys2Proof.Machine.execAmoXor d a b z c q l s
  | .amoMin d a b z c q l => Sys2Proof.Machine.execAmoMin d a b z c q l s
  | .amoMax d a b z c q l => Sys2Proof.Machine.execAmoMax d a b z c q l s
  | .amoMinu d a b z c q l => Sys2Proof.Machine.execAmoMinu d a b z c q l s
  | .amoMaxu d a b z c q l => Sys2Proof.Machine.execAmoMaxu d a b z c q l s
  | .amoCas d a b z c q l => Sys2Proof.Machine.execAmoCas d a b z c q l s
  | .ecall c => Sys2Proof.Machine.execEcall c s
  | .brk c => Sys2Proof.Machine.execBrk c s
  | .tret => Sys2Proof.Machine.execTret s
  | .srd d r => Sys2Proof.Machine.execSrd d r s
  | .swr a r => Sys2Proof.Machine.execSwr a r s
  | .sset a r => Sys2Proof.Machine.execSset a r s
  | .sclr a r => Sys2Proof.Machine.execSclr a r s
  | .wfi n => Sys2Proof.Machine.execWfi n s
  | .isync => Sys2Proof.Machine.execIsync s
  | .fence c k => Sys2Proof.Machine.execFence c k s
  | .fencex e l c => Sys2Proof.Machine.execFencex e l c s
  | .waitc l src c m f => Sys2Proof.Machine.execWaitc l src c m f s
  | .pause => Sys2Proof.Machine.execPause s
  | .vset d a b => Sys2Proof.Machine.execVset d a b s
  | .vseti d a g e => Sys2Proof.Machine.execVseti d a g e s
  | .vfill d a => Sys2Proof.Machine.execVfill d a s
  | .vfillR d a => Sys2Proof.Machine.execVfillR d a s
  | .vld d a m p => Sys2Proof.Machine.execVld d a m p s
  | .vlds d a b m => Sys2Proof.Machine.execVlds d a b m s
  | .vldx d a b m imm => Sys2Proof.Machine.execVldx d a b m imm s
  | .vldff d a m p => Sys2Proof.Machine.execVldff d a m p s
  | .vldc d a m => Sys2Proof.Machine.execVldc d a m s
  | .vldb d a h m p j => Sys2Proof.Machine.execVldb d a h m p j s
  | .vldbC d a h m p j => Sys2Proof.Machine.execVldbC d a h m p j s
  | .vldm d a => Sys2Proof.Machine.execVldm d a s
  | .vst src a m p => Sys2Proof.Machine.execVst src a m p s
  | .vsts src a b m => Sys2Proof.Machine.execVsts src a b m s
  | .vstx src a b m imm => Sys2Proof.Machine.execVstx src a b m imm s
  | .vstb src a h m p j => Sys2Proof.Machine.execVstb src a h m p j s
  | .vstm src a => Sys2Proof.Machine.execVstm src a s
  | .vldt d a b c e n2 n1 => Sys2Proof.Machine.execVldt d a b c e n2 n1 s
  | .vadd d a b m v => Sys2Proof.Machine.execVadd d a b m v s
  | .vsub d a b m v => Sys2Proof.Machine.execVsub d a b m v s
  | .vmul d a b m v => Sys2Proof.Machine.execVmul d a b m v s
  | .vmulh d a b m v => Sys2Proof.Machine.execVmulh d a b m v s
  | .vdiv d a b m v => Sys2Proof.Machine.execVdiv d a b m v s
  | .vrem d a b m v => Sys2Proof.Machine.execVrem d a b m v s
  | .vmin d a b m v => Sys2Proof.Machine.execVmin d a b m v s
  | .vmax d a b m v => Sys2Proof.Machine.execVmax d a b m v s
  | .vminu d a b m v => Sys2Proof.Machine.execVminu d a b m v s
  | .vmaxu d a b m v => Sys2Proof.Machine.execVmaxu d a b m v s
  | .vand d a b m v => Sys2Proof.Machine.execVand d a b m v s
  | .vor d a b m v => Sys2Proof.Machine.execVor d a b m v s
  | .vxor d a b m v => Sys2Proof.Machine.execVxor d a b m v s
  | .vsll d a b m v => Sys2Proof.Machine.execVsll d a b m v s
  | .vsrl d a b m v => Sys2Proof.Machine.execVsrl d a b m v s
  | .vsra d a b m v => Sys2Proof.Machine.execVsra d a b m v s
  | .vfadd d a b m v => Sys2Proof.Machine.execVfadd d a b m v s
  | .vfsub d a b m v => Sys2Proof.Machine.execVfsub d a b m v s
  | .vfmul d a b m v => Sys2Proof.Machine.execVfmul d a b m v s
  | .vfma d a b m v => Sys2Proof.Machine.execVfma d a b m v s
  | .vfnma d a b m v => Sys2Proof.Machine.execVfnma d a b m v s
  | .vfdiv d a b m v => Sys2Proof.Machine.execVfdiv d a b m v s
  | .vfsqrt d a m => Sys2Proof.Machine.execVfsqrt d a m s
  | .vfmin d a b m v => Sys2Proof.Machine.execVfmin d a b m v s
  | .vfmax d a b m v => Sys2Proof.Machine.execVfmax d a b m v s
  | .vfexp2 d a m => Sys2Proof.Machine.execVfexp2 d a m s
  | .vcmp d a b m v c => Sys2Proof.Machine.execVcmp d a b m v c s
  | .vfcmp d a b m v c => Sys2Proof.Machine.execVfcmp d a b m v c s
  | .mand d a b => Sys2Proof.Machine.execMand d a b s
  | .mor d a b => Sys2Proof.Machine.execMor d a b s
  | .mxor d a b => Sys2Proof.Machine.execMxor d a b s
  | .mandn d a b => Sys2Proof.Machine.execMandn d a b s
  | .mpop d a m => Sys2Proof.Machine.execMpop d a m s
  | .mfirst d a m => Sys2Proof.Machine.execMfirst d a m s
  | .vslideup d a b m => Sys2Proof.Machine.execVslideup d a b m s
  | .vslidedn d a b m => Sys2Proof.Machine.execVslidedn d a b m s
  | .vperm d a b m => Sys2Proof.Machine.execVperm d a b m s
  | .vcompress d a b m => Sys2Proof.Machine.execVcompress d a b m s
  | .vexpand d a m => Sys2Proof.Machine.execVexpand d a m s
  | .viota d a m => Sys2Proof.Machine.execViota d a m s
  | .vmerge d a b m v => Sys2Proof.Machine.execVmerge d a b m v s
  | .vbcast d a m => Sys2Proof.Machine.execVbcast d a m s
  | .vext d a b => Sys2Proof.Machine.execVext d a b s
  | .vins d a b => Sys2Proof.Machine.execVins d a b s
  | .vredsum d a b m => Sys2Proof.Machine.execVredsum d a b m s
  | .vredmin d a b m => Sys2Proof.Machine.execVredmin d a b m s
  | .vredmax d a b m => Sys2Proof.Machine.execVredmax d a b m s
  | .vfredsum d a b m => Sys2Proof.Machine.execVfredsum d a b m s
  | .vfredmin d a b m => Sys2Proof.Machine.execVfredmin d a b m s
  | .vfredmax d a b m => Sys2Proof.Machine.execVfredmax d a b m s
  | .vcvt d a b m t src => Sys2Proof.Machine.execVcvt d a b m t src s
  | .lds f a b h => Sys2Proof.Machine.execLds f a b h s
  | .ldsC f a b h => Sys2Proof.Machine.execLdsC f a b h s
  | .pswap d => Sys2Proof.Machine.execPswap d s
  | .mmavL6 a b h => Sys2Proof.Machine.execMmavL6 a b h s
  | .mmavI8 a b h => Sys2Proof.Machine.execMmavI8 a b h s
  | .mmavBf16 a b h => Sys2Proof.Machine.execMmavBf16 a b h s
  | .mzero a b h => Sys2Proof.Machine.execMzero a b h s
  | .vouter d a b => Sys2Proof.Machine.execVouter d a b s
  | .mmab d a b c e con fs ha hc => Sys2Proof.Machine.execMmab d a b c e con fs ha hc s
  | .ldsl d a b c e f tag con h => Sys2Proof.Machine.execLdsl d a b c e f tag con h s
  | .ldslR d c tag => Sys2Proof.Machine.execLdslR d c tag s
  | .finit a b h => Sys2Proof.Machine.execFinit a b h s
  | .fscale a b h => Sys2Proof.Machine.execFscale a b h s
  | .fupd a b h => Sys2Proof.Machine.execFupd a b h s
  | .fdnd a b h => Sys2Proof.Machine.execFdnd a b h s
  | .fdndS d a b h => Sys2Proof.Machine.execFdndS d a b h s
  | .fsolt d a h => Sys2Proof.Machine.execFsolt d a h s
  | .fsoln d a h => Sys2Proof.Machine.execFsoln d a h s
  | .fdiag d a h => Sys2Proof.Machine.execFdiag d a h s
  | .fx src d a b m => Sys2Proof.Machine.execFx src d a b m s
  | .fxl d a b c e f m slot => Sys2Proof.Machine.execFxl d a b c e f m slot s
  | .fxload d a => Sys2Proof.Machine.execFxload d a s
  | .fxbind a e src => Sys2Proof.Machine.execFxbind a e src s
  | .fxunbind src => Sys2Proof.Machine.execFxunbind src s
  | .fxstat d src => Sys2Proof.Machine.execFxstat d src s
  | .fxdrop => Sys2Proof.Machine.execFxdrop s
  | .fxsave a => Sys2Proof.Machine.execFxsave a s
  | .fxrest a => Sys2Proof.Machine.execFxrest a s
  | .copy d a b h => Sys2Proof.Machine.execCopy d a b h s
  | .drain d a b h => Sys2Proof.Machine.execDrain d a b h s
  | .drainR d a b h => Sys2Proof.Machine.execDrainR d a b h s
  | .hwait d h => Sys2Proof.Machine.execHwait d h s
  | .hrel d h => Sys2Proof.Machine.execHrel d h s
  | .hrelP b h => Sys2Proof.Machine.execHrelP b h s
  | .hstat d h => Sys2Proof.Machine.execHstat d h s
  | .sinit d a b => Sys2Proof.Machine.execSinit d a b s
  | .swait d a b => Sys2Proof.Machine.execSwait d a b s
  | .pfill d a b => Sys2Proof.Machine.execPfill d a b s
  | .pclose d g => Sys2Proof.Machine.execPclose d g s
  | .copyl a b c e sc => Sys2Proof.Machine.execCopyl a b c e sc s
  | .alloc d c => Sys2Proof.Machine.execAlloc d c s
  | .free a c => Sys2Proof.Machine.execFree a c s
  | .tbegin d => Sys2Proof.Machine.execTbegin d s
  | .tend => Sys2Proof.Machine.execTend s
  | .tabort c => Sys2Proof.Machine.execTabort c s
  | .tstat d => Sys2Proof.Machine.execTstat d s
  | .launch d a => Sys2Proof.Machine.execLaunch d a s
  | .qpush a b q => Sys2Proof.Machine.execQpush a b q s
  | .qpop d a b => Sys2Proof.Machine.execQpop d a b s
  | .qpopNw d a b => Sys2Proof.Machine.execQpopNw d a b s
  | .qclose q => Sys2Proof.Machine.execQclose q s
  | .retire => Sys2Proof.Machine.execRetire s
  | .yield => Sys2Proof.Machine.execYield s
  | .cancel d a l => Sys2Proof.Machine.execCancel d a l s
  | .cwait d a l => Sys2Proof.Machine.execCwait d a l s
  | .cwaitNw d a l => Sys2Proof.Machine.execCwaitNw d a l s
  | .launchRun slot => Sys2Proof.Machine.execLaunchRun slot s
  | .stageGrant die => Sys2Proof.Machine.execStageGrant die s
  | .priorityAging slot stage => Sys2Proof.Machine.execPriorityAging slot stage s
  | .placementTimeout slot stage => Sys2Proof.Machine.execPlacementTimeout slot stage s
  | .spillWrite slot q => Sys2Proof.Machine.execSpillWrite slot q s
  | .spillRead slot q => Sys2Proof.Machine.execSpillRead slot q s
  | .queuePortPush slot q => Sys2Proof.Machine.execQueuePortPush slot q s
  | .queuePortTimeout slot q => Sys2Proof.Machine.execQueuePortTimeout slot q s
  | .cancelTimeout core cx => Sys2Proof.Machine.execCancelTimeout core cx s
  | .wfiTimeout core cx => Sys2Proof.Machine.execWfiTimeout core cx s
  | .rowStep core cx => Sys2Proof.Machine.execRowStep core cx s
  | .ringTileArrival core => Sys2Proof.Machine.execRingTileArrival core s
  | .ringTimeout core => Sys2Proof.Machine.execRingTimeout core s
  | .configurationPacket core cx => Sys2Proof.Machine.execConfigurationPacket core cx s
  | .fabricCycle core => Sys2Proof.Machine.execFabricCycle core s
  | .agenAccessPerformed core cx agen => Sys2Proof.Machine.execAgenAccessPerformed core cx agen s
  | .fabstall core cx => Sys2Proof.Machine.execFabstall core cx s
  | .markerCutTimeout core cx => Sys2Proof.Machine.execMarkerCutTimeout core cx s
  | .invocationComplete core cx => Sys2Proof.Machine.execInvocationComplete core cx s
  | .relatchToken core cx agen => Sys2Proof.Machine.execRelatchToken core cx agen s
  | .asynchronousTrap core cx => Sys2Proof.Machine.execAsynchronousTrap core cx s
  | .preempt core cx => Sys2Proof.Machine.execPreempt core cx s
  | .readMiss core pa => Sys2Proof.Machine.execReadMiss core pa s
  | .ownershipRequest core pa data => Sys2Proof.Machine.execOwnershipRequest core pa data s
  | .invalidationAck core pa => Sys2Proof.Machine.execInvalidationAck core pa s
  | .evictionNotice core pa => Sys2Proof.Machine.execEvictionNotice core pa s
  | .l1WriteBack core pa => Sys2Proof.Machine.execL1WriteBack core pa s
  | .transactionConflictTimeout core cx => Sys2Proof.Machine.execTransactionConflictTimeout core cx s
  | .eccUncorrectableError pa => Sys2Proof.Machine.execEccUncorrectableError pa s
  | .pipFillArrival core cx id => Sys2Proof.Machine.execPipFillArrival core cx id s
  | .copyFault core cx id => Sys2Proof.Machine.execCopyFault core cx id s
  | .copyComplete core cx id => Sys2Proof.Machine.execCopyComplete core cx id s
  | .syncWordIncrement core cx id => Sys2Proof.Machine.execSyncWordIncrement core cx id s
  | .bankRefill die ten cls => Sys2Proof.Machine.execBankRefill die ten cls s
  | .bankSpill die ten cls => Sys2Proof.Machine.execBankSpill die ten cls s
  | .resume core cx => Sys2Proof.Machine.execResume core cx s
  | .redirect core cx arg0 => Sys2Proof.Machine.execRedirect core cx arg0 s
  | .save core cx arg0 arg1 => Sys2Proof.Machine.execSave core cx arg0 arg1 s
  | .restore core cx arg0 => Sys2Proof.Machine.execRestore core cx arg0 s
  | .endInstance core cx => Sys2Proof.Machine.execEndInstance core cx s
  | .wake core cx => Sys2Proof.Machine.execWake core cx s
  | .agenResume core cx arg0 => Sys2Proof.Machine.execAgenResume core cx arg0 s
  | .agenDecline core cx arg0 => Sys2Proof.Machine.execAgenDecline core cx arg0 s
  | .copyResume core cx arg0 => Sys2Proof.Machine.execCopyResume core cx arg0 s
  | .copyDecline core cx arg0 => Sys2Proof.Machine.execCopyDecline core cx arg0 s
  | .stop core cx arg0 => Sys2Proof.Machine.execStop core cx arg0 s
  | .invalidate core arg0 arg1 arg2 arg3 => Sys2Proof.Machine.execInvalidate core arg0 arg1 arg2 arg3 s
  | .setTframe core cx arg0 => Sys2Proof.Machine.execSetTframe core cx arg0 s
  | .writeHandleEntry core arg0 arg1 => Sys2Proof.Machine.execWriteHandleEntry core arg0 arg1 s
  | .writeResidentEntry core cx arg0 arg1 => Sys2Proof.Machine.execWriteResidentEntry core cx arg0 arg1 s
  | .setPipqQuota core cx arg0 => Sys2Proof.Machine.execSetPipqQuota core cx arg0 s
  | .reply core cx arg0 => Sys2Proof.Machine.execReply core cx arg0 s
  | .readDirectoryEntry core arg0 => Sys2Proof.Machine.execReadDirectoryEntry core arg0 s
  | .advanceNoticeHead core arg0 => Sys2Proof.Machine.execAdvanceNoticeHead core arg0 s
  | .clearOrphanMarks core arg0 => Sys2Proof.Machine.execClearOrphanMarks core arg0 s
  | .setPageTableRoot core arg0 arg2 => Sys2Proof.Machine.execSetPageTableRoot core arg0 arg2 s
  | .setTvec core arg0 => Sys2Proof.Machine.execSetTvec core arg0 s
  | .setOcclLimits core cx arg0 => Sys2Proof.Machine.execSetOcclLimits core cx arg0 s
  | .setBiasTableBase core arg0 => Sys2Proof.Machine.execSetBiasTableBase core arg0 s
  | .setOrphanArea core arg0 arg1 => Sys2Proof.Machine.execSetOrphanArea core arg0 arg1 s
  | .assignJob core arg0 arg2 => Sys2Proof.Machine.execAssignJob core arg0 arg2 s
  | .resumeQueue core arg0 arg1 => Sys2Proof.Machine.execResumeQueue core arg0 arg1 s
  | .compl core => Sys2Proof.Machine.execCompl core s
  | .launchRegister fn port die addr => Sys2Proof.Machine.execLaunchRegister fn port die addr s
  | .lres fn port die => Sys2Proof.Machine.execLres fn port die s
  | .sem port val => Sys2Proof.Machine.execSem port val s
  | .flip port val => Sys2Proof.Machine.execFlip port val s
  | .flipDeviceToHost page => Sys2Proof.Machine.execFlipDeviceToHost page s
  | .flipHostToDevice page => Sys2Proof.Machine.execFlipHostToDevice page s
  | .hostQueuePortWrite fn off data => Sys2Proof.Machine.execHostQueuePortWrite fn off data s
  | .hxWrite agent pa data => Sys2Proof.Machine.execHxWrite agent pa data s
  | .hxRead agent pa n => Sys2Proof.Machine.execHxRead agent pa n s
  | .hostCacheRequest port pa own => Sys2Proof.Machine.execHostCacheRequest port pa own s
  | .backInvalidationResponse pa data => Sys2Proof.Machine.execBackInvalidationResponse pa data s
  | .linkDown agent => Sys2Proof.Machine.execLinkDown agent s
  | .fwOpenSlot port slot => Sys2Proof.Machine.execFwOpenSlot port slot s
  | .fwCommit port slot key body sig version => Sys2Proof.Machine.execFwCommit port slot key body sig version s
  | .fwAbort port slot => Sys2Proof.Machine.execFwAbort port slot s
  | .nonce port val => Sys2Proof.Machine.execNonce port val s
  | .quote port => Sys2Proof.Machine.execQuote port s
  | .quoteComplete => Sys2Proof.Machine.execQuoteComplete s
  | .registerWrite port off val => Sys2Proof.Machine.execRegisterWrite port off val s
  | .powerOnReset => Sys2Proof.Machine.execPowerOnReset s
  | .functionLevelReset fn => Sys2Proof.Machine.execFunctionLevelReset fn s
  | .functionLevelResetTimeout fn => Sys2Proof.Machine.execFunctionLevelResetTimeout fn s
  | .thermalThrottle celsius => Sys2Proof.Machine.execThermalThrottle celsius s
  | .thermalTrip celsius => Sys2Proof.Machine.execThermalTrip celsius s
  | .clockTick => Sys2Proof.Machine.execClockTick s
  | .portEnable port agent => Sys2Proof.Machine.execPortEnable port agent s
  | .powerWindow watts => Sys2Proof.Machine.execPowerWindow watts s
  | .setBankMemoryList die ten cls base cap => Sys2Proof.Machine.execSetBankMemoryList die ten cls base cap s
  | .tenantScopeLimit ten limited => Sys2Proof.Machine.execTenantScopeLimit ten limited s
  | .serviceStreamStop core cx => Sys2Proof.Machine.execServiceStreamStop core cx s
  | .vfEnable port vf => Sys2Proof.Machine.execVfEnable port vf s

end Sys2Proof.Machine
end

