-- ==== Sys2Proof/Machine/Step.lean ====
section
/-! DEFINITION. One step of the machine, and how the host places an instruction. -/

namespace Sys2Proof.Machine

/-- The thread s.cur moves: it takes what it has pending, or waits for its fetch, for the lanes, behind its invocation or behind
a store of its own that back-pressure holds, or executes the instruction at its PC. -/
def runCur (s : State) : Host.Outcome State Fault Refusal :=
  match s.pendingStep s.cur with
  | some s' => .next s'
  | none =>
    match s.wordsWait s.cur s.pc with
    | some s1 => .next ((s.holdFrom s1).onMe (fun c => { c with waiting := true }))
    | none =>
      match s.fetch s.cur with
      | .trap q => .next (s.raise s.cur q)
      | .instr i =>
        if s.lanesTaken i || s.me.fxBlocks i || s.storesBlock i then .next (s.onMe (fun c => { c with waiting := true }))
        else
          match exec i s with
          | .next s' => .next (s'.afterInstr s.cur i s.pc)
          | o => o

/-- The thread s.cur moves if it runs; otherwise the clock ticks. -/
def runOrTick (s : State) : Host.Outcome State Fault Refusal :=
  if s.me.run == .running then runCur s else .next s.tick

/-- A next state in which threads move by whole instructions again. -/
def wholeAgain : Host.Outcome State Fault Refusal → Host.Outcome State Fault Refusal
  | .next s => .next { s with portion := false }
  | o => o

/-- One step: the agent that the agenda names moves; with an empty agenda, the thread s.cur (DESIGN CHOICE, log 1). -/
def step (s : State) : Host.Outcome State Fault Refusal :=
  match s.agenda with
  | [] => runOrTick s
  | .run t :: as => runOrTick { s with agenda := as, cur := t }
  | .chunk t :: as => wholeAgain (runOrTick { s with agenda := as, cur := t, portion := true })
  | .side a :: as => .next (Sys2Proof.Machine.State.side { s with agenda := as } a)
  | .event i :: as =>
    if (encode i).isNone then exec i { s with agenda := as } else .next { s with agenda := as }

/-- The state with an instruction stored where step fetches its next instruction: the low nbits of w, first word
first, and zeros above (DESIGN CHOICE, log 10). -/
def State.withFetchWord (s : State) (nbits w : Nat) : State := s.placeBytes (leBytes 8 (w % 2 ^ nbits))

end Sys2Proof.Machine
end

