-- ==== Sys2Proof/Safety.lean ====
section
/-! DEFINITION. What a safe run is, and the terms that statements use: what a step leaves alone, and when a memory access
of a thread can be performed at once. -/

namespace Sys2Proof

open Sys2Proof.Machine

/-- The vector registers of a context are configured within bounds: `vl` is at most VLMAX (R52). -/
def VlBounded (c : Ctx) : Prop := c.vl.toNat ≤ c.vlmax

/-- The directory is a table: its lines rise strictly. -/
def DirSorted (s : State) : Prop := s.dir.Pairwise (fun p q => p.1 < q.1)

/-- A safe state: memory, the buffers of every core and the directory keep their canonical forms, and every context's `vl`
is within VLMAX. -/
def Safe (s : State) : Prop :=
  Memory.wf memDefault s.mem = true ∧ DirSorted s ∧
  (∀ c : BitVec 6, Memory.wf zeroByte (s.core c).bufW = true ∧ Memory.wf zeroByte (s.core c).bufA = true ∧
    Memory.wf zeroByte (s.core c).bufC = true) ∧
  ∀ t : Tid, VlBounded (s.ctx t)

/-- From s to t only caches have changed: L1 lines, directory entries, the lines of the L2 slices, and which host-homed lines
the device holds modified (R291 to R293, R374). -/
def OnlyCaches (s t : State) : Prop :=
  t = { s with cores := t.cores, dir := t.dir, l2 := t.l2, host := { s.host with modified := t.host.modified } } ∧
  ∀ c : BitVec 6, t.core c = { s.core c with l1 := (t.core c).l1 }

/-- Nothing but the moving thread holds a line: it is not orphaned, its port's link is up (R375), no bias flip of its page
has begun (R372), no write of another agent waits at its slice (R293), and no host holds it (R371). -/
def LineFree (s : State) (line : Nat) : Prop :=
  s.host.orphans.contains line = false ∧
  (match hostPortOf (line * 128), peerPortOf (line * 128) with
    | some p, _ => s.host.down.getLsbD p.toNat = false
    | none, some k => s.host.peerDown.getLsbD k.toNat = false
    | none, none => True) ∧
  s.flipping (line / 32) = false ∧ s.owningLine line = false ∧ Tbl.find s.host.lines line = none

/-- No transaction is open, and every line that n bytes at pa touch is free. -/
def BytesFree (s : State) (pa n : Nat) : Prop := s.txs = [] ∧ ∀ l ∈ linesOf pa n, LineFree s l

/-- The moving thread may access n bytes at va at once: aligned, outside the untranslated regions, with the lines of the page
tables that the walk reads free, translated with the permission k by the leaf l, free, and not poisoned unless it only
writes (R110). -/
def Reachable (s : State) (va : Word) (n : Nat) (k : Need) (l : Leaf) : Prop :=
  va.toNat % n = 0 ∧ regionOf va = none ∧ (∀ m ∈ s.walkLines s.me.tenant va, LineFree s m) ∧
  s.translate s.me.tenant va k = .ok l ∧ BytesFree s l.pa n ∧ (k ≠ .write → s.poisoned l.pa n = false)

/-- The vector form of the same, through the resident table (R161, R355): va reaches pa, uncached or not. -/
def VecReachable (s : State) (va : Word) (n : Nat) (write : Bool) (pa : Nat) (unc : Bool) : Prop :=
  va.toNat % n = 0 ∧ regionOf va = none ∧ s.me.resident va n write = .ok (pa, unc) ∧ BytesFree s pa n ∧
  (write = false → s.poisoned pa n = false)

/-- The moving thread's instruction of n bytes has completed: its context is f of what it was, at the next instruction, and
no other context has changed. -/
def Went (s t : State) (n : Nat) (f : Ctx → Ctx) : Prop :=
  t.me = { f s.me with pc := s.pc + BitVec.ofNat 64 n, waiting := false } ∧ t.cur = s.cur ∧
  ∀ u, u ≠ s.cur → t.ctx u = s.ctx u

/-- What an access of a thread may touch beside its context: L1 lines, directory entries, the lines of the L2 slices, memory,
poison, and which host-homed lines the device holds modified. Everything else is unchanged. -/
def OnlyMemory (s t : State) : Prop :=
  t = { s with cores := t.cores, dir := t.dir, l2 := t.l2, mem := t.mem, poison := t.poison,
               host := { s.host with modified := t.host.modified } } ∧
  ∀ c : BitVec 6, t.core c =
    { s.core c with l1 := (t.core c).l1, ctxN := (t.core c).ctxN, ctxU := (t.core c).ctxU }

/-- Memory holds what it held, byte by byte, but for bytes from pa upward. -/
def Stored (s t : State) (pa : Nat) (bs : List Byte) : Prop :=
  ∀ p, t.byte p = if pa ≤ p ∧ p < pa + bs.length then bs.getD (p - pa) 0 else s.byte p

/-- The answer of an instruction that writes G(d) and nothing else: the thread goes on at the next instruction. -/
def wroteG (s : State) (d : BitVec 5) (x : Word) : Host.Outcome State Fault Refusal :=
  .next (s.onMe (fun c => { c.setG d x with pc := s.pc + 4, waiting := false }))

/-- The answer of an instruction that writes G(d) and raises flags. -/
def wroteFp (s : State) (d : BitVec 5) (r : Nat × FpFlags) : Host.Outcome State Fault Refusal :=
  .next (s.onMe (fun c =>
    { c.setG d (BitVec.ofNat 64 r.1) with fcsr := c.fcsr ||| (r.2 ++ 0#2), pc := s.pc + 4, waiting := false }))

/-- The answer of a branch or a jump: the thread goes on at an address. -/
def wentTo (s : State) (pc : Word) : Host.Outcome State Fault Refusal :=
  .next (s.onMe (fun c => { c with pc := pc, waiting := false }))

/-- The answer of an instruction that changes the moving thread's context by f and goes on at the next one. -/
def wentOn (s : State) (f : Ctx → Ctx) : Host.Outcome State Fault Refusal :=
  .next (s.onMe (fun c => { f c with pc := s.pc + 4, waiting := false }))

/-- The answer of an instruction that waits at its PC. -/
def waits (s : State) : Host.Outcome State Fault Refusal := .next (s.onMe (fun c => { c with waiting := true }))

/-- The trap of the instruction at the PC by number: nothing to resume, taken at it. -/
def trapAt (s : State) (cause : Nat) (tval : Word) (res : Bool) : Trap :=
  ⟨cause, tval, s.pc, s.pc, res, false, 0, [], []⟩

/-- Element k is in the body, from `vstart` to below `vl`, and active under mask m (R151). -/
def inBody (c : Ctx) (m : BitVec 3) (k : Nat) : Bool :=
  decide (c.vstart.toNat ≤ k) && decide (k < c.vl.toNat) && c.active m k

/-- A vector instruction of n bytes has completed (R151 to R154): of the moving thread's context only vector registers, fill
counts, masks, flags, `vstart` and the PC have changed, and nothing elsewhere. -/
def VecWent (s t : State) (n : Nat) : Prop :=
  t = s.setCtx s.cur t.me ∧
  t.me = { s.me with
    v := t.me.v, fill := t.me.fill, m := t.me.m, fcsr := t.me.fcsr, vstart := 0, resumed := none,
    pc := s.pc + BitVec.ofNat 64 n, waiting := false }

/-- Group d has the elements that wr names at their values and every other element as before, and every register outside the
group is as before. -/
def GroupWrote (s t : State) (d : BitVec 5) (wr : Nat → Bool) (val : Nat → Nat) : Prop :=
  (∀ k < s.me.vlmax, t.me.el s.me.ew d.toNat k = if wr k then val k % 2 ^ s.me.ew else s.me.el s.me.ew d.toNat k) ∧
  (∀ r < 32, r < d.toNat ∨ d.toNat + s.me.gf ≤ r → t.me.vreg r = s.me.vreg r)

/-- The fill counts of group d say n elements (R46, R153), and every other fill count is as before. -/
def GroupFilled (s t : State) (d : BitVec 5) (n : Nat) : Prop :=
  (∀ j < s.me.gf, t.me.fillOf (d.toNat + j) = Nat.min (n * s.me.ew / 8 - 512 * j) 512) ∧
  (∀ r < 32, r < d.toNat ∨ d.toNat + s.me.gf ≤ r → t.me.fillOf r = s.me.fillOf r)

/-- Mask register r has, below bit 512, the bits that wr names at their values and every other bit as before; every other
mask register is as before, and m0 discards the write (R47). -/
def MaskWrote (s t : State) (r : BitVec 3) (wr val : Nat → Bool) : Prop :=
  ∀ (q : BitVec 3) (k : Nat), k < 512 →
    (t.me.M q).getLsbD k = if q = r ∧ q ≠ 0 ∧ wr k = true then val k else (s.me.M q).getLsbD k

/-- Memory holds what it held, byte by byte, but for a list of bytes written in order. -/
def Wrote (s t : State) (ws : List (Nat × Byte)) : Prop :=
  ∀ p, t.byte p = ws.foldl (fun b w => if w.1 = p then w.2 else b) (s.byte p)

/-- Bytes laid from pa upward. -/
def laid (pa : Nat) (bs : List Byte) : List (Nat × Byte) := bs.zipIdx.map (fun p => (pa + p.2, p.1))

/-- The elements of the body that are active under mask m, ascending. -/
def bodyOf (c : Ctx) (m : BitVec 3) : List Nat := (List.range c.vl.toNat).filter (inBody c m)

/-- A vector instruction of n bytes has completed as `VecWent` says, and may have changed caches, memory and poison besides. -/
def VecWentMemory (s t : State) (n : Nat) : Prop :=
  OnlyMemory s t ∧ (∀ u, u ≠ s.cur → t.ctx u = s.ctx u) ∧
  t.me = { s.me with
    v := t.me.v, fill := t.me.fill, m := t.me.m, vstart := 0, resumed := none, pc := s.pc + BitVec.ofNat 64 n,
    waiting := false }

/-- The answer of an instruction that may not execute: ILLOP with its words in tval (R62), or the abort of an open
transaction. -/
def illegal (s : State) (i : Instr) : Host.Outcome State Fault Refusal :=
  .next (s.raise s.cur (trapAt s 1 (match encode i with | some w => w.second ++ w.first | none => 0) false))

end Sys2Proof
end

