-- ==== Sys2Proof/Certificates/Slice0/Obligations.lean ====
section
/-! DEFINITION. The statements for the provers, in the order of spec/: encoding and steps, scalar instructions, traps,
vectors, the matrix array and factors, the board, transfers, work, and the steps of the other agents. -/

section Statements

open Sys2Proof Sys2Proof.Machine

/-! ### Encoding (spec/03_encoding.md) -/

/-- R42, R43, R56 to R61: a well-formed instruction of a thread has words, and its bytes decode to it and to nothing else,
whatever follows; no operand bit is lost. -/
def Obligations.WordsDecodeToTheirInstruction : Prop :=
  ∀ i : Instr, i.WellFormed → agentStep i = false →
    ∃ w, encode i = some w ∧ decode w.first w.second = .ok i ∧
      ∀ rest : List Byte, decodeBytes (w.bytes ++ rest) = .ok (i, rest)

/-- R42, R43, R61: a word that decodes is the word of the instruction it decodes to, which is well formed: no two words mean
one instruction, and no bit of a word is ignored. -/
def Obligations.DecodedWordsAreTheirInstructions : Prop :=
  ∀ (w w2 : BitVec 32) (i : Instr), decode w w2 = .ok i →
    i.WellFormed ∧ encode i = some (if isLongWord w then .two w w2 else .one w)

/-- Words written out from the spec's encodings decode to what the spec says. -/
def Obligations.SpecWordsDecode : Prop :=
  decode 0x08641000#32 0 = .ok (.add 3 4 2) ∧
  decode 0x0C64FFFF#32 0 = .ok (.addi 3 4 0xFFFF) ∧
  decode 0x14000001#32 0 = .ok .pause ∧
  decode 0x04000005#32 0 = .ok (.ecall 5) ∧
  decode 0x40220003#32 0 = .ok (.beq 1 2 3) ∧
  decode 0x6061C008#32 0 = .ok (.ld 3 1 6 8) ∧
  decode 0x6461C008#32 0 = .ok (.st 3 1 6 8) ∧
  decode 0x8C220A00#32 0 = .ok (.vadd 1 2 1 2 0) ∧
  decode 0x00000000#32 0 = .error .unassignedMajor ∧
  decode 0x080007FF#32 0 = .error .unassignedFn

/-! ### A step (R64) -/

/-- R9, R61, R62, R64, R347, R364: a running thread with nothing pending, no wait for its fetch, and a decodable instruction at
its PC executes exactly that instruction, or waits while the other context has the lanes, while it stands behind its
invocation, or behind a store of its own that a full queue holds back; element-step mode and a progress record apart, a step adds nothing around it. A word that encodes no instruction
traps ILLOP at it, with the words in tval, not resumable; a word that cannot be fetched traps with the cause and the address of
the fetch. A step of another agent that the agenda names is its meaning alone. Which agent moves next, and that a thread may be
asked for one portion of a vector or `mmab` instruction alone, is the agenda's (DESIGN CHOICE, log 1). -/
def Obligations.StepRunsTheDecodedInstruction : Prop :=
  (∀ (s u : State) (w w2 : BitVec 32) (i : Instr) (portion : Bool),
    (portion = false ∧ s.agenda = [] ∧ u = s ∨
      (∃ t as, portion = false ∧ s.agenda = .run t :: as ∧ u = { s with agenda := as, cur := t }) ∨
      ∃ t as, portion = true ∧ s.agenda = .chunk t :: as ∧ u = { s with agenda := as, cur := t, portion := true }) →
    let whole (t : State) : State := if portion then { t with portion := false } else t
    u.me.run = .running → u.pendingStep u.cur = none → u.wordsWait u.cur u.pc = none →
    u.fetchWords u.cur u.pc = .ok (w, w2) → decode w w2 = .ok i →
    ((u.lanesTaken i || u.me.fxBlocks i || u.storesBlock i) = false → step s = match exec i u with
      | .next t => .next (whole (t.afterInstr u.cur i u.pc))
      | o => o) ∧
    ((u.lanesTaken i || u.me.fxBlocks i || u.storesBlock i) = true → step s = .next (whole (u.onMe (fun c => { c with waiting := true }))))) ∧
  (∀ (s : State) (i : Instr) (as : List Act), s.agenda = .event i :: as → agentStep i = true →
    step s = exec i { s with agenda := as }) ∧
  (∀ (t : State) (u : Tid) (i : Instr) (pc : Word), (t.ctx u).resumed = none → (t.ctx u).estep = false →
    t.afterInstr u i pc = t) ∧
  (∀ (s : State) (w w2 : BitVec 32) (r : Ill), s.agenda = [] → s.me.run = .running → s.pendingStep s.cur = none →
    s.txs = [] → s.wordsWait s.cur s.pc = none → s.fetchWords s.cur s.pc = .ok (w, w2) → decode w w2 = .error r →
    step s = .next (s.takeTrap s.cur ⟨1, w2 ++ w, s.pc, s.pc, false, false, 0, [], []⟩)) ∧
  (∀ (s : State) (c : Cause) (va : Word) (res : Bool), s.agenda = [] → s.me.run = .running →
    s.pendingStep s.cur = none → s.txs = [] → s.wordsWait s.cur s.pc = none → s.fetchWords s.cur s.pc = .error (c, va, res) →
    step s = .next (s.takeTrap s.cur ⟨c.num, va, s.pc, s.pc, res, false, 0, [], []⟩))

/-- R346: no instruction and no step of another agent stops the machine: every state has a next one. -/
def Obligations.EveryStepAnswers : Prop := ∀ s : State, ∃ t, step s = .next t

/-! ### Scalar registers and integers (spec/07_scalar.md) -/

/-- R44, R96: g0 reads as zero and discards writes; a write of another register is read back and leaves every other one.
Each ALU operation writes G(d) with its result, and changes nothing else but the PC. -/
def Obligations.AluResults : Prop :=
  ∀ (s : State) (d a b : BitVec 5),
    let x := s.G a
    let y := s.G b
    (∀ z : Word, s.G 0 = 0 ∧ s.setG 0 z = s ∧ (d ≠ 0 → (s.setG d z).G d = z) ∧ ∀ q : BitVec 5, q ≠ d → (s.setG d z).G q = s.G q) ∧
    exec (.add d a b) s = wroteG s d (x + y) ∧
    exec (.sub d a b) s = wroteG s d (x - y) ∧
    exec (.and d a b) s = wroteG s d (x &&& y) ∧
    exec (.or d a b) s = wroteG s d (x ||| y) ∧
    exec (.xor d a b) s = wroteG s d (x ^^^ y) ∧
    exec (.andn d a b) s = wroteG s d (x &&& ~~~y) ∧
    exec (.sll d a b) s = wroteG s d (BitVec.ofNat 64 (x.toNat * 2 ^ (y.toNat % 64))) ∧
    exec (.srl d a b) s = wroteG s d (BitVec.ofNat 64 (x.toNat / 2 ^ (y.toNat % 64))) ∧
    exec (.sra d a b) s = wroteG s d (BitVec.ofInt 64 (x.toInt / 2 ^ (y.toNat % 64))) ∧
    exec (.slt d a b) s = wroteG s d (if x.toInt < y.toInt then 1 else 0) ∧
    exec (.sltu d a b) s = wroteG s d (if x.toNat < y.toNat then 1 else 0) ∧
    exec (.min d a b) s = wroteG s d (BitVec.ofInt 64 (Min.min x.toInt y.toInt)) ∧
    exec (.max d a b) s = wroteG s d (BitVec.ofInt 64 (Max.max x.toInt y.toInt)) ∧
    exec (.minu d a b) s = wroteG s d (BitVec.ofNat 64 (Min.min x.toNat y.toNat)) ∧
    exec (.maxu d a b) s = wroteG s d (BitVec.ofNat 64 (Max.max x.toNat y.toNat)) ∧
    exec (.sextB d a) s = wroteG s d ((x.truncate 8).signExtend 64) ∧
    exec (.sextH d a) s = wroteG s d ((x.truncate 16).signExtend 64) ∧
    exec (.sextW d a) s = wroteG s d ((x.truncate 32).signExtend 64) ∧
    exec (.zextW d a) s = wroteG s d ((x.truncate 32).zeroExtend 64)

/-- R96 to R99: `clz`, `ctz` and `pop` write the number of leading zero, trailing zero and one bits of G(a), each the one that
its bits force; each immediate form writes G(d) from G(a), or the PC, and its sign-extended immediate. -/
def Obligations.CountsAndImmediateResults : Prop :=
  ∀ (s : State) (d a : BitVec 5) (i : BitVec 16) (n : BitVec 6),
    let x := s.G a
    let k := i.signExtend 64
    (∃ k ≤ 64, exec (.clz d a) s = wroteG s d (BitVec.ofNat 64 k) ∧
      (∀ j, 64 - k ≤ j → x.getLsbD j = false) ∧ (k < 64 → x.getLsbD (63 - k) = true)) ∧
    (∃ k ≤ 64, exec (.ctz d a) s = wroteG s d (BitVec.ofNat 64 k) ∧
      (∀ j < k, x.getLsbD j = false) ∧ (k < 64 → x.getLsbD k = true)) ∧
    exec (.pop d a) s = wroteG s d (BitVec.ofNat 64 (Finset.card ((Finset.range 64).filter (fun j => x.getLsbD j = true)))) ∧
    exec (.addi d a i) s = wroteG s d (x + k) ∧
    exec (.andi d a i) s = wroteG s d (x &&& k) ∧
    exec (.ori d a i) s = wroteG s d (x ||| k) ∧
    exec (.xori d a i) s = wroteG s d (x ^^^ k) ∧
    exec (.slti d a i) s = wroteG s d (if x.toInt < i.toInt then 1 else 0) ∧
    exec (.sltiu d a i) s = wroteG s d (if x.toNat < k.toNat then 1 else 0) ∧
    exec (.slli d a n) s = wroteG s d (BitVec.ofNat 64 (x.toNat * 2 ^ n.toNat)) ∧
    exec (.srli d a n) s = wroteG s d (BitVec.ofNat 64 (x.toNat / 2 ^ n.toNat)) ∧
    exec (.srai d a n) s = wroteG s d (BitVec.ofInt 64 (x.toInt / 2 ^ n.toNat)) ∧
    exec (.lui d i) s = wroteG s d (BitVec.ofInt 64 (i.toInt * 65536)) ∧
    exec (.pchi d i) s = wroteG s d (s.pc + BitVec.ofInt 64 (i.toInt * 65536))

/-- R100, R101: products and quotients, with the fixed results of the edge cases: a zero divisor gives all ones and the
dividend, and the most negative number divided by -1 gives itself and 0. -/
def Obligations.MultiplyDivideResults : Prop :=
  ∀ (s : State) (d a b : BitVec 5),
    let x := s.G a
    let y := s.G b
    exec (.mul d a b) s = wroteG s d (x * y) ∧
    exec (.mulh d a b) s = wroteG s d (BitVec.ofInt 64 (x.toInt * y.toInt / 2 ^ 64)) ∧
    exec (.mulhu d a b) s = wroteG s d (BitVec.ofNat 64 (x.toNat * y.toNat / 2 ^ 64)) ∧
    exec (.mulhsu d a b) s = wroteG s d (BitVec.ofInt 64 (x.toInt * y.toNat / 2 ^ 64)) ∧
    exec (.div d a b) s = wroteG s d
      (if y = 0 then -1 else if x = BitVec.intMin 64 ∧ y = -1 then x else BitVec.ofInt 64 (x.toInt.tdiv y.toInt)) ∧
    exec (.divu d a b) s = wroteG s d (if y = 0 then -1 else BitVec.ofNat 64 (x.toNat / y.toNat)) ∧
    exec (.rem d a b) s = wroteG s d
      (if y = 0 then x else if x = BitVec.intMin 64 ∧ y = -1 then 0 else BitVec.ofInt 64 (x.toInt.tmod y.toInt)) ∧
    exec (.remu d a b) s = wroteG s d (if y = 0 then x else BitVec.ofNat 64 (x.toNat % y.toNat))

/-- R107: a branch goes to PC + sext(disp16) × 4 when its comparison holds, else to PC + 4, and writes nothing. -/
def Obligations.BranchTargets : Prop :=
  ∀ (s : State) (a b : BitVec 5) (i : BitVec 16),
    let x := s.G a
    let y := s.G b
    let at_ (c : Prop) [Decidable c] := wentTo s (if c then s.pc + BitVec.ofInt 64 (i.toInt * 4) else s.pc + 4)
    exec (.beq a b i) s = at_ (x = y) ∧
    exec (.bne a b i) s = at_ (x ≠ y) ∧
    exec (.blt a b i) s = at_ (x.toInt < y.toInt) ∧
    exec (.bge a b i) s = at_ (y.toInt ≤ x.toInt) ∧
    exec (.bltu a b i) s = at_ (x.toNat < y.toNat) ∧
    exec (.bgeu a b i) s = at_ (y.toNat ≤ x.toNat)

/-- R108, R109: `jal` and `jalr` link PC + 4 into G(d) and jump; the target of `jalr` is taken from G(a) before the link is
written, and one that is not 4-byte aligned traps MISALIGN with tval the target and the register unwritten. -/
def Obligations.JumpsLinkAndTrap : Prop :=
  ∀ (s : State) (d a : BitVec 5) (j : BitVec 21) (i : BitVec 16),
    let go (pc : Word) : Host.Outcome State Fault Refusal :=
      .next (s.onMe (fun c => { c.setG d (s.pc + 4) with pc := pc, waiting := false }))
    let t := s.G a + i.signExtend 64
    exec (.jal d j) s = go (s.pc + BitVec.ofInt 64 (j.toInt * 4)) ∧
    (t.toNat % 4 = 0 → exec (.jalr d a i) s = go t) ∧
    (t.toNat % 4 ≠ 0 → exec (.jalr d a i) s = .next (s.raise s.cur ⟨2, t, s.pc, s.pc, false, false, 0, [], []⟩))

/-! ### Scalar floating point (R102 to R106, R132) -/

/-- The exact value of a finite encoding of a format (R131); none for an infinity or a NaN. -/
def Sys2Proof.exactValue (f : Fmt) (x : Nat) : Option ℚ :=
  let ex := x / 2 ^ f.mb % 2 ^ f.eb
  let frac := x % 2 ^ f.mb
  let sign : ℚ := if x / 2 ^ (f.eb + f.mb) % 2 = 1 then -1 else 1
  let low : Int := 2 - 2 ^ (f.eb - 1) - f.mb
  if ex = 2 ^ f.eb - 1 then none
  else some (sign * (if ex = 0 then (frac : ℚ) * (2 : ℚ) ^ low else (2 ^ f.mb + frac : ℚ) * (2 : ℚ) ^ (low + ex - 1)))

/-- The integer n is the real x rounded under a mode of RM (R53): 0 nearest, ties to even, 1 toward zero, 2 downward,
3 upward. -/
def Sys2Proof.Rounded (rm : Nat) (x : ℝ) (n : Int) : Prop :=
  match rm with
  | 0 => |x - n| ≤ 1 / 2 ∧ (|x - n| = 1 / 2 → n % 2 = 0)
  | 1 => n = if 0 ≤ x then ⌊x⌋ else ⌈x⌉
  | 2 => n = ⌊x⌋
  | _ => n = ⌈x⌉

/-- The encoding and the flags r are the exact non-zero real e rounded once into a format (R141, R142): 2^t is the greatest
power of two that |e| reaches; n is e in units of the format there, subnormals kept, and m in the units of an unbounded exponent
range. A magnitude above the largest finite one gives the overflow table's result with OF and NX; otherwise the value is exactly
n units, with the sign of e; NX says that it differs from e, and UF that it does and that the rounded m is tiny. -/
def Sys2Proof.RoundsTo (f : Fmt) (rm : Nat) (e : ℝ) (r : Nat × FpFlags) : Prop :=
  ∃ t n m : Int,
    let low : Int := 2 - 2 ^ (f.eb - 1) - f.mb
    let q : Int := Max.max (t - f.mb) low
    let v : ℝ := n * 2 ^ q
    let top : ℝ := 2 ^ (low + 2 ^ f.eb - 2 + f.mb)
    let inf : Nat := (2 ^ f.eb - 1) * 2 ^ f.mb
    let neg : Nat := if e < 0 then 2 ^ (f.eb + f.mb) else 0
    2 ^ t ≤ |e| ∧ |e| < 2 ^ (t + 1) ∧ Rounded rm (e / 2 ^ q) n ∧ Rounded rm (e / 2 ^ (t - f.mb)) m ∧
    (top ≤ |v| → r = (neg + (if rm = 0 ∨ (rm = 2 ∧ e < 0) ∨ (rm = 3 ∧ 0 < e) then inf else inf - 1), 0b00101#5)) ∧
    (|v| < top → (exactValue f r.1).map (fun w => (w : ℝ)) = some v ∧ r.1 < 2 ^ f.width ∧ (2 ^ (f.eb + f.mb) ≤ r.1 ↔ e < 0) ∧
      r.2 = if v = e then 0 else if |(m : ℝ) * 2 ^ (t - f.mb)| < 2 ^ (low + f.mb) then 0b00011#5 else 0b00001#5)

/-- The value of an encoding that is no NaN, in the order of the numbers: a finite one's exact value, between the infinities. -/
def Sys2Proof.extended (f : Fmt) (x : Nat) : WithBot (WithTop ℚ) :=
  match exactValue f x with
  | some q => ((q : WithTop ℚ) : WithBot (WithTop ℚ))
  | none => if x / 2 ^ (f.eb + f.mb) % 2 = 1 then ⊥ else ((⊤ : WithTop ℚ) : WithBot (WithTop ℚ))

/-- R102 to R105: each operation of type T computes on the low bits of its operands under RM, writes its result
zero-extended, accumulates its flags in fcsr (with d = g0 too), and changes nothing else. R103, R106: `fcvt` converts the low
bits of G(a), read in the source type, with one rounding; an integer `.w` result is written sign-extended, every other type as
its encoding. R132, R141, R142, R144, R147: on finite operands each sum, difference, product, quotient, fused multiply-add, square
root and conversion is its exact real value rounded once, with the flags that this says; an exact zero has the sign that R141
gives it. With an infinite operand that the operation is defined for, the result is the infinity or the zero that IEEE 754-2019
gives, with no flag; ∞ − ∞ in a fused multiply-add is the default NaN with NV, and an infinity converts to the largest or smallest
integer with NV. The comparisons compare the values, −0 equal to +0; the minimum and the maximum are the operand with the lesser or
the greater value, −0 below +0; a comparison with a NaN is false, with NV if it is a signalling comparison or has a signalling NaN. -/
def Obligations.FpResults : Prop :=
  (∀ (s : State) (d a b : BitVec 5) (t : BitVec 3), isFpType t = true →
    let f := typeFmt t
    let x := (s.G a).toNat % 2 ^ f.width
    let y := (s.G b).toNat % 2 ^ f.width
    let z := (s.G d).toNat % 2 ^ f.width
    exec (.fadd d a b t) s = wroteFp s d (f.add s.me.rm x y) ∧
    exec (.fsub d a b t) s = wroteFp s d (f.sub s.me.rm x y) ∧
    exec (.fmul d a b t) s = wroteFp s d (f.mul s.me.rm x y) ∧
    exec (.fdiv d a b t) s = wroteFp s d (f.div s.me.rm x y) ∧
    exec (.fma d a b t) s = wroteFp s d (f.fma s.me.rm x y z) ∧
    exec (.fsqrt d a t) s = wroteFp s d (f.sqrt s.me.rm x) ∧
    exec (.fmin d a b t) s = wroteFp s d (f.min x y) ∧
    exec (.fmax d a b t) s = wroteFp s d (f.max x y) ∧
    exec (.fcmpEq d a b t) s = wroteFp s d (if (f.cmpEq x y).1 then 1 else 0, (f.cmpEq x y).2) ∧
    exec (.fcmpLt d a b t) s = wroteFp s d (if (f.cmpLt x y).1 then 1 else 0, (f.cmpLt x y).2) ∧
    exec (.fcmpLe d a b t) s = wroteFp s d (if (f.cmpLe x y).1 then 1 else 0, (f.cmpLe x y).2)) ∧
  (∀ (s : State) (d a : BitVec 5) (t src : BitVec 3), (Instr.fcvt d a t src).WellFormed →
    let x := (s.G a).toNat % 2 ^ codeWidth (typeCode src)
    let r := convert (typeCode t) (typeCode src) s.me.rm 0 x
    exec (.fcvt d a t src) s = .next (s.onMe (fun c =>
      { c.setG d (if t = 4 then (BitVec.ofNat 32 r.1).signExtend 64 else BitVec.ofNat 64 r.1) with
        fcsr := c.fcsr ||| (r.2 ++ 0#2), pc := s.pc + 4, waiting := false }))) ∧
  (∀ (t : BitVec 3) (rm x y z : Nat) (X Y Z : ℚ), isFpType t = true → rm < 4 →
    let f := typeFmt t
    let minus (v : Nat) : Bool := v / 2 ^ (f.eb + f.mb) % 2 == 1
    let zero (neg : Bool) : Nat × FpFlags := (if neg then 2 ^ (f.eb + f.mb) else 0, 0)
    let is (e : ℚ) (neg : Bool) (r : Nat × FpFlags) : Prop := (e ≠ 0 → RoundsTo f rm e r) ∧ (e = 0 → r = zero neg)
    let sum (p q : Bool) : Bool := if p = q then p else rm == 2
    exactValue f x = some X → exactValue f y = some Y → exactValue f z = some Z →
      is (X + Y) (sum (minus x) (minus y)) (f.add rm x y) ∧
      is (X - Y) (sum (minus x) (!minus y)) (f.sub rm x y) ∧
      is (X * Y) (minus x != minus y) (f.mul rm x y) ∧
      is (X * Y + Z) (sum (minus x != minus y) (minus z)) (f.fma rm x y z) ∧
      is (Z - X * Y) (sum (minus x == minus y) (minus z)) (f.fnma rm x y z) ∧
      (Y ≠ 0 → is (X / Y) (minus x != minus y) (f.div rm x y)) ∧
      (Y = 0 → X ≠ 0 →
        f.div rm x y = ((if minus x != minus y then 2 ^ (f.eb + f.mb) else 0) + (2 ^ f.eb - 1) * 2 ^ f.mb, 0b01000#5)) ∧
      (0 < X → RoundsTo f rm (Real.sqrt X) (f.sqrt rm x)) ∧ (X = 0 → f.sqrt rm x = zero (minus x)) ∧
      (∀ u : BitVec 3, isFpType u = true →
        (X ≠ 0 → RoundsTo (typeFmt u) rm X (convert (typeCode u) (typeCode t) rm 0 x)) ∧
        (X = 0 → convert (typeCode u) (typeCode t) rm 0 x =
          (if minus x then 2 ^ ((typeFmt u).eb + (typeFmt u).mb) else 0, 0)))) ∧
  (∀ (t u : BitVec 3) (rm x : Nat), isFpType t = true → 4 ≤ u.toNat → rm < 4 →
    let w := codeWidth u.toNat
    let signed := u.toNat % 2 = 0
    let least : Int := if signed then -(2 ^ (w - 1)) else 0
    let most : Int := if signed then 2 ^ (w - 1) - 1 else 2 ^ w - 1
    let k : Int := if signed ∧ 2 ^ (w - 1) ≤ x % 2 ^ w then x % 2 ^ w - 2 ^ w else x % 2 ^ w
    (k ≠ 0 → RoundsTo (typeFmt t) rm k (convert (typeCode t) u.toNat rm 0 x)) ∧
    (k = 0 → convert (typeCode t) u.toNat rm 0 x = (0, 0)) ∧
    (∀ X : ℚ, exactValue (typeFmt t) x = some X → ∃ n : Int, Rounded rm X n ∧
      convert u.toNat (typeCode t) rm 0 x = (((if n < least then least else if most < n then most else n) % 2 ^ w).toNat,
        if n < least ∨ most < n then 0b10000#5 else if (n : ℚ) = X then 0 else 0b00001#5))) ∧
  (∀ (t : BitVec 3) (rm x y z : Nat), isFpType t = true →
    let f := typeFmt t
    let minus (v : Nat) : Bool := v / 2 ^ (f.eb + f.mb) % 2 == 1
    let special (v : Nat) : Prop := v / 2 ^ f.mb % 2 ^ f.eb = 2 ^ f.eb - 1
    let isNan (v : Nat) : Prop := special v ∧ v % 2 ^ f.mb ≠ 0
    let isSig (v : Nat) : Prop := isNan v ∧ v % 2 ^ f.mb < 2 ^ (f.mb - 1)
    let isInf (v : Nat) : Prop := special v ∧ v % 2 ^ f.mb = 0
    let isZero (v : Nat) : Prop := v % 2 ^ (f.eb + f.mb) = 0
    let signed (neg : Bool) (v : Nat) : Nat := if neg then 2 ^ (f.eb + f.mb) + v else v
    let inf (neg : Bool) : Nat × FpFlags := (signed neg ((2 ^ f.eb - 1) * 2 ^ f.mb), 0)
    let invalid : Nat × FpFlags := ((2 ^ f.eb - 1) * 2 ^ f.mb + 2 ^ (f.mb - 1), 0b10000#5)
    let p : Bool := minus x != minus y
    let X := extended f x
    let Y := extended f y
    let quiet (o : Bool × FpFlags) (holds : Prop) : Prop := (o.1 = true ↔ holds) ∧ o.2 = 0
    (¬ isNan x → ¬ isNan y →
      quiet (f.cmpEq x y) (X = Y) ∧ quiet (f.cmpLt x y) (X < Y) ∧ quiet (f.cmpLe x y) (X ≤ Y) ∧
      f.min x y = (if Y < X ∨ (X = Y ∧ minus y = true ∧ minus x = false) then y else x, 0) ∧
      f.max x y = (if X < Y ∨ (X = Y ∧ minus x = true ∧ minus y = false) then y else x, 0)) ∧
    (isNan x ∨ isNan y → f.cmpLt x y = (false, 0b10000#5) ∧ f.cmpLe x y = (false, 0b10000#5) ∧
      (isSig x ∨ isSig y → f.cmpEq x y = (false, 0b10000#5)) ∧ (¬(isSig x ∨ isSig y) → f.cmpEq x y = (false, 0))) ∧
    (isInf x → ¬ isNan y →
      ((isInf y → minus x = minus y) → f.add rm x y = inf (minus x) ∧ f.add rm y x = inf (minus x)) ∧
      ((isInf y → minus x ≠ minus y) → f.sub rm x y = inf (minus x) ∧ f.sub rm y x = inf (!minus x)) ∧
      (¬ isZero y → f.mul rm x y = inf p ∧ f.mul rm y x = inf p) ∧
      (¬ isInf y → f.div rm x y = inf p ∧ f.div rm y x = (signed p 0, 0)) ∧
      (minus x = false → f.sqrt rm x = inf false) ∧
      (∀ u : BitVec 3, isFpType u = true → let g := typeFmt u
        convert (typeCode u) (typeCode t) rm 0 x =
          ((if minus x then 2 ^ (g.eb + g.mb) else 0) + (2 ^ g.eb - 1) * 2 ^ g.mb, 0)) ∧
      (∀ u : BitVec 3, 4 ≤ u.toNat → let w := codeWidth u.toNat
        convert u.toNat (typeCode t) rm 0 x =
          (if u.toNat % 2 = 0 then (if minus x then 2 ^ (w - 1) else 2 ^ (w - 1) - 1)
            else if minus x then 0 else 2 ^ w - 1, 0b10000#5))) ∧
    ((isInf x ∧ ¬ isZero y ∨ isInf y ∧ ¬ isZero x) → ¬ isNan x → ¬ isNan y → ¬ isNan z →
      f.fma rm x y z = (if isInf z ∧ minus z ≠ p then invalid else inf p) ∧
      f.fnma rm x y z = (if isInf z ∧ minus z = p then invalid else inf (!p))) ∧
    (¬ special x → ¬ special y → isInf z → f.fma rm x y z = inf (minus z) ∧ f.fnma rm x y z = inf (minus z)))

/-- R132, R142, R144, R147: an arithmetic operation, a square root or a conversion to a binary format with a NaN operand gives
the default NaN of its format (0x7FC0, 0x7FC00000 or 0x7FF8000000000000), and raises NV, and no other flag, exactly when an operand
is a signalling NaN; so do the invalid operations, and a fused multiply-add whose product is 0 × ∞, whatever its addend, with NV.
minimumNumber and maximumNumber give the default NaN only for two NaNs, and otherwise the other operand. A NaN converts to the
largest integer, and to NaR, with NV. -/
def Obligations.NanOperandsGiveTheDefaultNan : Prop :=
  ∀ (t : BitVec 3) (rm x y z : Nat), isFpType t = true →
    let f := typeFmt t
    let nanOf (u : BitVec 3) : Nat := if u.toNat = 0 then 0x7FC0 else if u.toNat = 1 then 0x7FC00000 else 0x7FF8000000000000
    let isNan (v : Nat) : Prop := v / 2 ^ f.mb % 2 ^ f.eb = 2 ^ f.eb - 1 ∧ v % 2 ^ f.mb ≠ 0
    let isSig (v : Nat) : Prop := isNan v ∧ v % 2 ^ f.mb < 2 ^ (f.mb - 1)
    let isInf (v : Nat) : Prop := v / 2 ^ f.mb % 2 ^ f.eb = 2 ^ f.eb - 1 ∧ v % 2 ^ f.mb = 0
    let isZero (v : Nat) : Prop := v % 2 ^ (f.eb + f.mb) = 0
    let minus (v : Nat) : Prop := v / 2 ^ (f.eb + f.mb) % 2 = 1
    let gives (nan : Nat) (invalid : Prop) (r : Nat × FpFlags) : Prop :=
      r.1 = nan ∧ (invalid → r.2 = 0b10000#5) ∧ (¬ invalid → r.2 = 0)
    let is (invalid : Prop) (r : Nat × FpFlags) : Prop := gives (nanOf t) invalid r
    let noProduct : Prop := (isInf x ∧ isZero y) ∨ (isZero x ∧ isInf y)
    ((isNan x ∨ isNan y) → let sig : Prop := isSig x ∨ isSig y
      is sig (f.add rm x y) ∧ is sig (f.sub rm x y) ∧ is sig (f.mul rm x y) ∧ is sig (f.div rm x y)) ∧
    ((isNan x ∨ isNan y ∨ isNan z ∨ noProduct) → let sig : Prop := isSig x ∨ isSig y ∨ isSig z ∨ noProduct
      is sig (f.fma rm x y z) ∧ is sig (f.fnma rm x y z)) ∧
    (noProduct → is True (f.mul rm x y)) ∧
    (isInf x → isInf y → is True (f.div rm x y) ∧ ((minus x ↔ minus y) → is True (f.sub rm x y)) ∧
      (¬(minus x ↔ minus y) → is True (f.add rm x y))) ∧
    (isZero x → isZero y → is True (f.div rm x y)) ∧
    (isNan x → is (isSig x) (f.sqrt rm x)) ∧
    (minus x → ¬ isZero x → ¬ isNan x → is True (f.sqrt rm x)) ∧
    (isNan x → isNan y → is (isSig x ∨ isSig y) (f.min x y) ∧ is (isSig x ∨ isSig y) (f.max x y)) ∧
    (isNan x → ¬ isNan y → gives y (isSig x) (f.min x y) ∧ gives y (isSig x) (f.max x y) ∧
      gives y (isSig x) (f.min y x) ∧ gives y (isSig x) (f.max y x)) ∧
    (isNan x →
      (∀ u : BitVec 3, isFpType u = true → gives (nanOf u) (isSig x) (convert (typeCode u) (typeCode t) rm 0 x)) ∧
      (∀ c < 8, let w := codeWidth c
        convert c (typeCode t) rm 0 x = (if c % 2 = 0 then 2 ^ (w - 1) - 1 else 2 ^ w - 1, 0b10000#5)) ∧
      ∀ sigma : Int, convert 8 (typeCode t) rm sigma x = (0x20, 0b10000#5)) ∧
    (∀ sigma : Int, x % 64 = 0x20 → convert (typeCode t) 8 rm sigma x = (nanOf t, 0) ∧ convert 8 8 rm sigma x = (0x20, 0) ∧
      ∀ c < 8, (convert c 8 rm sigma x).2 = 0b10000#5)

/-! ### Scalar memory (R110 to R119) -/

/-- The word that a scalar load of w gives of n bytes read (R112). -/
def Sys2Proof.loaded (w : BitVec 3) (bs : List Byte) : Word :=
  if w.toNat = 0 ∨ w.toNat = 2 ∨ w.toNat = 4 then BitVec.ofInt 64 (signedOf bs.length (leNat bs)) else BitVec.ofNat 64 (leNat bs)

/-- A context after an ordering at a scope: a `sys` scope of a tenant limited to `dev` sets SDN (R340). -/
def Sys2Proof.ordered (s : State) (c : BitVec 2) (k : Ctx) : Ctx :=
  if c = 3 ∧ s.limited.getLsbD s.me.tenant.toNat = true then { k with status := k.status ||| 1#5 } else k

/-- R110, R112, R113: outside a transaction (`TransactionResults` says what one changes), an aligned, permitted and unpoisoned load writes G(d) with the bytes at the translated address,
extended as w says, and stores nothing; an aligned and permitted store writes the low bytes of its register at the translated
address, lowest byte first, and every other byte of memory and every register is as before. -/
def Obligations.ScalarLoadsAndStores : Prop :=
  (∀ (s : State) (d a : BitVec 5) (w : BitVec 3) (i : BitVec 13) (l : Leaf),
    Reachable s (s.G a + i.signExtend 64) (widthBytes w) .read l →
    ∃ t, exec (.ld d a w i) s = .next t ∧ Went s t 4 (·.setG d (loaded w (s.bytes l.pa (widthBytes w)))) ∧
      OnlyMemory s t ∧ t.mem = s.mem ∧ t.poison = s.poison) ∧
  (∀ (s : State) (d a : BitVec 5) (w : BitVec 3) (c : BitVec 2) (i : BitVec 11) (l : Leaf),
    Reachable s (s.G a + i.signExtend 64) (widthBytes w) .read l →
    ∃ t, exec (.lda d a w c i) s = .next t ∧
      Went s t 4 (fun k => (ordered s c k).setG d (loaded w (s.bytes l.pa (widthBytes w)))) ∧
      OnlyMemory s t ∧ t.mem = s.mem ∧ t.poison = s.poison) ∧
  (∀ (s : State) (r a : BitVec 5) (w : BitVec 3) (i : BitVec 13) (l : Leaf), Memory.wf memDefault s.mem = true →
    Reachable s (s.G a + i.signExtend 64) (widthBytes w) .write l →
    ∃ t, exec (.st r a w i) s = .next t ∧ Went s t 4 id ∧ OnlyMemory s t ∧
      Stored s t l.pa (leBytes (widthBytes w) (s.G r).toNat) ∧ t.poison = s.poison) ∧
  (∀ (s : State) (r a : BitVec 5) (w : BitVec 3) (c : BitVec 2) (i : BitVec 11) (l : Leaf),
    Memory.wf memDefault s.mem = true →
    Reachable s (s.G a + i.signExtend 64) (widthBytes w) .write l →
    ∃ t, exec (.stl r a w c i) s = .next t ∧ Went s t 4 (ordered s c) ∧ OnlyMemory s t ∧
      Stored s t l.pa (leBytes (widthBytes w) (s.G r).toNat) ∧ t.poison = s.poison)

/-- R110: every scalar load, store, consuming load or atomic whose address is no multiple of its size traps MISALIGN with the address in tval,
before any other check of the address and without any effect. R110, R214: an aligned access of a BUF tile of the thread's
position reads or writes the tile's bytes and no memory. -/
def Obligations.MisalignedAndTileAccesses : Prop :=
  (∀ (s : State) (d a b : BitVec 5) (w : BitVec 3) (z : BitVec 1) (c : BitVec 2) (q l : BitVec 1) (i : BitVec 13) (j : BitVec 11),
    let traps (va : Word) (n : Nat) (is : List Instr) : Prop :=
      va.toNat % n ≠ 0 → ∀ x ∈ is, exec x s = .next (s.raise s.cur (trapAt s 2 va false))
    traps (s.G a + i.signExtend 64) (widthBytes w) [.ld d a w i, .st d a w i] ∧
    traps (s.G a + j.signExtend 64) (widthBytes w) [.lda d a w c j, .stl d a w c j] ∧
    (s.me.txa = false → traps (s.G a + i.signExtend 64) (widthBytes w) [.ldc d a w i] ∧
      traps (s.G a) (amoBytes z) [.amoAdd d a b z c q l, .amoSwap d a b z c q l, .amoAnd d a b z c q l, .amoOr d a b z c q l,
        .amoXor d a b z c q l, .amoMin d a b z c q l, .amoMax d a b z c q l, .amoMinu d a b z c q l, .amoMaxu d a b z c q l,
        .amoCas d a b z c q l])) ∧
  (∀ (s : State) (d a : BitVec 5) (w : BitVec 3) (i : BitVec 13) (n : Fin 8) (off : Nat),
    let va := s.G a + i.signExtend 64
    va.toNat % widthBytes w = 0 → regionOf va = some .tile → s.me.txa = false → s.me.tilePlace va = some (n, off) →
    s.me.dataWaits n off (widthBytes w) = false →
      exec (.ld d a w i) s = wroteG s d (loaded w (s.tileBytes s.cur n off (widthBytes w))) ∧
      exec (.st d a w i) s = wentOn s (fun c =>
        { c with board := c.board.map (fun p => p.onTile n (fun k => k.put off (leBytes (widthBytes w) (s.G d).toNat))) }))

/-- The value that an atomic stores, from the old value and the operand, both of n bytes (R117); none: it stores nothing. -/
def Sys2Proof.amoNew (i : Instr) (n old x cmp : Nat) : Option Nat :=
  match i with
  | .amoAdd .. => some ((old + x) % 2 ^ (8 * n))
  | .amoSwap .. => some x
  | .amoAnd .. => some (old &&& x)
  | .amoOr .. => some (old ||| x)
  | .amoXor .. => some (old ^^^ x)
  | .amoMin .. => some (if signedOf n old < signedOf n x then old else x)
  | .amoMax .. => some (if signedOf n old < signedOf n x then x else old)
  | .amoMinu .. => some (Min.min old x)
  | .amoMaxu .. => some (Max.max old x)
  | .amoCas .. => if old = cmp then some x else none
  | _ => none

/-- R116 to R118: an atomic on an aligned, permitted and unpoisoned word or doubleword stores its new value, and writes G(d)
with the old one sign-extended; every other byte of memory is as before. -/
def Obligations.AtomicResults : Prop :=
  ∀ (s : State) (d a b : BitVec 5) (z : BitVec 1) (c : BitVec 2) (q l : BitVec 1) (lf : Leaf) (i : Instr),
    i ∈ [Instr.amoAdd d a b z c q l, .amoSwap d a b z c q l, .amoAnd d a b z c q l, .amoOr d a b z c q l,
      .amoXor d a b z c q l, .amoMin d a b z c q l, .amoMax d a b z c q l, .amoMinu d a b z c q l,
      .amoMaxu d a b z c q l, .amoCas d a b z c q l] →
    s.me.txa = false → Memory.wf memDefault s.mem = true →
    let n := if z = 0 then 4 else 8
    Reachable s (s.G a) n .both lf →
    let old := s.num lf.pa n
    let new := amoNew i n old ((s.G b).toNat % 2 ^ (8 * n)) ((s.G d).toNat % 2 ^ (8 * n))
    ∃ t, exec i s = .next t ∧
      Went s t 4 (fun k => (if q = 1 ∨ l = 1 then ordered s c k else k).setG d (BitVec.ofInt 64 (signedOf n old))) ∧
      OnlyMemory s t ∧ t.poison = s.poison ∧ Stored s t lf.pa (leBytes n (new.getD old))

/-- R114, R301, R302: a consuming load of a live pipped line reads it and takes one pip; the last pip drops the line, and
memory then holds what it held before the reservation, not before the fill (R302, DEDUCED, log 19). A line that is not pipped
traps PIPOVER; a pending one waits. -/
def Obligations.ConsumingLoads : Prop :=
  ∀ (s : State) (d a : BitVec 5) (w : BitVec 3) (i : BitVec 13) (l : Leaf),
    let va := s.G a + i.signExtend 64
    let e := s.dirOf (lineOf l.pa)
    s.me.txa = false → Reachable s va (widthBytes w) .read l →
    (e.st ≠ .pipped → exec (.ldc d a w i) s = .next (s.takeTrap s.cur (trapAt s 8 va false))) ∧
    (e.st = .pipped → e.pending = true → exec (.ldc d a w i) s = waits s) ∧
    (e.st = .pipped → e.pending = false → ∃ t, exec (.ldc d a w i) s = .next t ∧
      Went s t 4 (·.setG d (loaded w (s.bytes l.pa (widthBytes w)))) ∧
      (1 < e.pips.toNat → t.mem = s.mem ∧ t.dirOf (lineOf l.pa) = { e with pips := e.pips - 1 }) ∧
      (e.pips.toNat ≤ 1 → t.dir = Tbl.drop s.dir (lineOf l.pa) ∧ (e.dirty = false → t.mem = s.mem) ∧
        (e.dirty = true → t.mem = Memory.writeBytes memDefault s.mem (lineOf l.pa * 128) e.saved)))

/-! ### Traps (R121, R122, R346 to R351) -/

/-- R121, R346: `ecall` and `brk` trap at themselves with the code in tval, resumable at the next instruction; inside a
transaction they abort it with cause 7 instead (R343). -/
def Obligations.CallsTrap : Prop :=
  ∀ (s : State) (c : BitVec 16),
    (s.txs = [] → s.me.txa = false →
      exec (.ecall c) s = .next (s.takeTrap s.cur ⟨20, c.zeroExtend 64, s.pc, s.pc + 4, true, false, 0, [], []⟩) ∧
      exec (.brk c) s = .next (s.takeTrap s.cur ⟨21, c.zeroExtend 64, s.pc, s.pc + 4, true, false, 0, [], []⟩)) ∧
    (s.me.txa = true →
      exec (.ecall c) s = .next (s.abortTx s.cur 7 0) ∧ exec (.brk c) s = .next (s.abortTx s.cur 7 0))

/-- Where the next notice of a core's ring goes (R352). -/
def Sys2Proof.ringSlot (s : State) (c : BitVec 6) : Nat :=
  (s.core c).tvec.toNat + 64 * ((s.core c).tail.toNat % 1024)

/-- The frame of the moving thread lies at pa, and can be read and written at once (R348, R351). -/
def Sys2Proof.frameFree (s : State) (pa : Nat) : Prop :=
  regionOf s.me.tframe = none ∧ (∀ m ∈ s.walkLines s.me.tenant s.me.tframe, LineFree s m) ∧
  (∃ l, s.translate s.me.tenant s.me.tframe .write = .ok l ∧ l.pa = pa) ∧ BytesFree s pa 256 ∧ s.poisoned pa 256 = false

/-- R346 to R349, R352: a trap whose frame and notice need not wait writes the frame at `tframe` with its VALID mark set,
`tcause`, `tpc` and `tval` take its values, the trap count rises, and the thread is suspended; its PC and every other register
stay; no other context changes; the next entry of its core's ring is the TRAP notice, with the next sequence number and the
frame's address, and the ring's tail moves on; memory changes in the frame and in that entry alone. With VALID already set, or
with a frame that cannot be written, a trap writes no frame and changes no trap register: the thread is held, and a DOUBLE or
FRAME notice (type 2 or 3) goes to the ring of its core. That the trap count rises then too is the model's (DEDUCED, log 42), and
so is that a trap whose notice finds the ring full waits before any of its effects (DEDUCED, log 42). -/
def Obligations.TakingATrap : Prop :=
  (∀ (s : State) (u : Tid) (q : Trap) (pa : Nat), Memory.wf memDefault s.mem = true →
    s.noticeWaits u.core = none → s.frameWaits u = none →
    s.framePlace u = some pa → (s.byte (pa + 0x20)).getLsbD 0 = false →
    (ringSlot s u.core + 64 ≤ pa ∨ pa + 256 ≤ ringSlot s u.core) →
    let t := s.takeTrap u q
    let n := (s.ctx u).seq + 1
    let k := s.core u.core
    t.ctx u = { s.ctx u with
      run := .suspended, waiting := false, pushWait := false, wfi := none, mxWait := none, seq := n
      tcause := q.tcause, tpc := q.tpc, tval := q.tval } ∧
    (∀ v, v ≠ u → t.ctx v = s.ctx v) ∧
    t.bytes (ringSlot s u.core) 64 = leBytes 1 1 ++ leBytes 1 (if u.cx = .u then 1 else 0) ++ leBytes 1 u.core.toNat ++
      leBytes 1 (s.ctx u).tenant.toNat ++ leBytes 4 k.nseq.toNat ++ leBytes 8 q.tcause.toNat ++ leBytes 8 q.tpc.toNat ++
      leBytes 8 q.tval.toNat ++ padTo 32 (leBytes 8 (s.ctx u).tframe.toNat) ∧
    (t.core u.core).tail = k.tail + 1 ∧ (t.core u.core).nseq = k.nseq + 1 ∧
    t.bytes pa 256 = leBytes 8 q.tcause.toNat ++ leBytes 8 q.tpc.toNat ++ leBytes 8 q.tval.toNat ++ leBytes 8 q.rpc.toNat ++
      leBytes 4 1 ++ leBytes 4 n.toNat ++ leBytes 8 s.clock.toNat ++ leBytes 16 0 ++ padTo 64 q.prog ++ padTo 64 q.aux ++
      leBytes 64 0 ∧
    (∀ p, ¬(pa ≤ p ∧ p < pa + 256) → ¬(ringSlot s u.core ≤ p ∧ p < ringSlot s u.core + 64) → t.byte p = s.byte p)) ∧
  (∀ (s : State) (u : Tid) (q : Trap), s.noticeWaits u.core = none → s.frameWaits u = none →
    let stopped (c : Ctx) : Ctx := 
      { c with run := .held, waiting := false, pushWait := false, wfi := none, mxWait := none, seq := c.seq + 1 }
    let held (t : State) : Prop := t.ctx u = stopped (s.ctx u) ∧ (∀ v, v ≠ u → t.ctx v = s.ctx v) ∧ t.roots = s.roots ∧ t.txs = s.txs
    (∀ pa, s.framePlace u = some pa → (s.byte (pa + 0x20)).getLsbD 0 = true → held (s.takeTrap u q) ∧
      s.takeTrap u q = (s.onCtx u stopped).notify
        u.core ⟨2, u.cx == .u, u.core.toNat, (s.ctx u).tenant, q.tcause, q.tpc, q.tval, []⟩) ∧
    (s.framePlace u = none → held (s.takeTrap u q) ∧
      s.takeTrap u q = (s.onCtx u stopped).notify
        u.core ⟨3, u.cx == .u, u.core.toNat, (s.ctx u).tenant, (s.ctx u).tframe, q.tcause, q.tval, []⟩)) ∧
  (∀ (s : State) (u : Tid) (q : Trap), s.txs = [] →
    let k := s.core u.core
    (k.notices ≠ [] ∨ k.tail - k.head = 1024) →
    s.takeTrap u q = s.onCtx u (fun c => { c with pendTrap := some q, run := .running, waiting := false }))

/-- R351: what a thread's return from the trap whose frame is at pa gives it, in the state s whose moving thread it is. A frame
that is valid and marked resumable goes on at the resume PC with every register as it is: `went f`, where f is what its record
changes of the context besides. One of kind 1 or 3 gives the instruction there its vector counters or its row, tag and pip back, if
its words are those recorded; one of kind 2 resumes the held invocation, which counts in `fx` again; one of kind 4 or 6 records the
transfer, or the `pfill`, that goes on before the next instruction. Words that differ trap PERM with tval the resume PC; kind 2
with no held invocation traps STREAM with tval 0x0700; a frame that is not valid or not marked resumable traps PERM with tval the
frame's address. -/
def Sys2Proof.GivesBack (s : State) (pa : Nat) (went : (Ctx → Ctx) → Prop) (traps : Trap → Prop) : Prop :=
  let kind := s.num pa 8 / 2 ^ 8 % 16
  let rpc := BitVec.ofNat 64 (s.num (pa + 0x18) 8) &&& ~~~(3#64)
  let rec_ (o n : Nat) := s.num (pa + 0x40 + o) n
  let marked : Prop := (s.byte (pa + 0x20)).getLsbD 0 = true ∧ s.num pa 8 / 2 ^ 16 % 2 = 1
  let went (f : Ctx → Ctx) : Prop := went (fun c => f { c with pc := rpc, waiting := false, run := .running })
  let given (r : Resumed) : Prop := went (fun c => { c with resumed := some r })
  let same : Prop := s.fetchWords s.cur rpc = .ok (BitVec.ofNat 32 (rec_ 0x10 4), BitVec.ofNat 32 (rec_ 0x14 4))
  let differ : Prop := ∃ w w2, s.fetchWords s.cur rpc = .ok (w, w2) ∧ ¬(w.toNat = rec_ 0x10 4 ∧ w2.toNat = rec_ 0x14 4)
  (marked →
    (s.me.heldBare = false →
      (kind = 0 ∨ kind = 5 → went id) ∧
      (kind = 1 ∨ kind = 3 → s.wordsWait s.cur rpc = none → same →
        (kind = 1 → let e := (List.range 8).map (fun j => rec_ (2 * j) 2)
          let note := Tbl.getD s.me.issuedAt s.me.tframe.toNat (0, false, none)
          went (fun c => { c with
            resumed := some (.vector .given (Nat.min note.1 (e.foldl Nat.min 8192)) (if note.2.1 then e.set 0 8192 else e))
            cvtSrc := note.2.2, issuedAt := Tbl.drop c.issuedAt c.tframe.toNat })) ∧
        (kind = 3 → given (.matrix .given (rec_ 0 4) (BitVec.ofNat 16 (rec_ 4 2)) (decide (rec_ 6 1 % 2 = 1))))) ∧
      (kind = 4 → given (.copy (xferOfRecord (s.bytes (pa + 0x40) 64) (BitVec.ofNat 64 (s.num (pa + 0x08) 8))))) ∧
      (kind = 6 → given (.lines (BitVec.ofNat 64 (s.num (pa + 0x08) 8)) (BitVec.ofNat 64 (rec_ 0x08 8))
        (BitVec.ofNat 64 (rec_ 0x10 8)) (BitVec.ofNat 64 (rec_ 0x18 8)) (rec_ 0 4)))) ∧
    (kind = 2 → ∀ v, s.me.inv = some v → v.held = true →
      let resumes (c : Ctx) : Ctx := { c with
        inv := some { v with held := false, cut := none, quiet := 0, stall := 0 }
        board := c.board.map Position.reissue
        xfers := c.xfers.map (fun x => if x.xreq && x.notice.isNone then { x with faulted := none } else x)
        fx := c.fx + 1 }
      let left := Tbl.find s.me.leftRows s.me.tframe.toNat
      ((∀ x, left = some x → x.1 ≠ rpc) → went resumes) ∧
      (∀ k tag pip, left = some (rpc, k, tag, pip) → went (fun c => { resumes c with
        resumed := some (.matrix .given k tag pip), leftRows := Tbl.drop c.leftRows c.tframe.toNat }))) ∧
    (kind = 1 ∨ kind = 3 → s.wordsWait s.cur rpc = none → differ → traps (trapAt s 4 rpc false)) ∧
    (kind = 2 → (∀ v, s.me.inv = some v → v.held = false) → traps (trapAt s 15 0x0700 false))) ∧
  (¬marked → traps (trapAt s 4 s.me.tframe false))

/-- R122, R351: `tret` with a frame that can be used at once goes on or traps as `GivesBack` says, its VALID cleared where it goes
on. That bits 1:0 of the resume PC are cleared is the model's (DEDUCED, log 42), and so is the note of what the counters of a kind 1
record leave unsaid, taken back with it: the element at which the instruction was issued, whether lane group 0 is complete, and the
source of a `vcvt` in place (DEDUCED, log 7); and, with a frame of kind 2, the rows of an `mmab` that left its wait for the trap, at
which it restarts (DEDUCED, log 42). -/
def Obligations.TrapReturn : Prop :=
  ∀ (s : State) (pa : Nat), Memory.wf memDefault s.mem = true → s.me.txa = false → frameFree s pa →
    GivesBack s pa
      (fun f => ∃ t, exec .tret s = .next t ∧ t.me = f s.me ∧ (∀ u, u ≠ s.cur → t.ctx u = s.ctx u) ∧
        (∀ p, p ≠ pa + 0x20 → t.byte p = s.byte p) ∧ t.byte (pa + 0x20) = s.byte (pa + 0x20) &&& 0xFE#8 ∧ OnlyMemory s t)
      (fun q => exec .tret s = .next (s.takeTrap s.cur q))

/-! ### Special registers and waits (R49 to R55, R123 to R128) -/

/-- R49 to R55, R123: `srd` writes G(d) with the register's value, reserved bits zero. -/
def Obligations.SpecialRegisterReads : Prop :=
  ∀ (s : State) (d : BitVec 5),
    let c := s.me
    let is (n : BitVec 11) (v : Word) : Prop := exec (.srd d n) s = wroteG s d v
    is 0x000 (c.vl.zeroExtend 64) ∧ is 0x001 (c.vtype.zeroExtend 64) ∧ is 0x002 (c.vstart.zeroExtend 64) ∧
    is 0x003 (c.fcsr.zeroExtend 64) ∧
    is 0x008 (BitVec.ofNat 64 (c.tenant.toNat * 256 + if s.cur.cx = .u then 1 else 0)) ∧
    is 0x009 (s.cur.core.zeroExtend 64) ∧ is 0x00A s.clock ∧ is 0x010 (s.core s.cur.core).tvec ∧ is 0x011 c.tframe ∧
    is 0x012 c.tcause ∧ is 0x013 c.tpc ∧ is 0x014 c.tval ∧ is 0x018 (c.status.zeroExtend 64) ∧
    is 0x019 (if c.yreq then 1 else 0) ∧ is 0x01A (if c.cancel then 1 else 0) ∧ is 0x01B c.tstat ∧
    is 0x020 (BitVec.ofNat 64 (c.quota.toNat * 2 ^ 16 + s.pipUse s.cur)) ∧ is 0x021 (s.occl s.cur)

/-- A context with special register n written: v gives the rw fields, clr the w1c bits to clear (R50 to R55). -/
def Sys2Proof.writeSreg (n : BitVec 11) (v clr : Word) (c : Ctx) : Ctx :=
  let cap (vt : BitVec 4) (x : Nat) : BitVec 13 := BitVec.ofNat 13 (Nat.min x (vlmaxOf vt))
  if n = 0x000 then { c with vl := cap c.vtype (v.toNat % 2 ^ 13) }
  else if n = 0x001 then { c with vtype := v.truncate 4, vl := cap (v.truncate 4) c.vl.toNat }
  else if n = 0x002 then { c with vstart := cap c.vtype (v.toNat % 2 ^ 13) }
  else if n = 0x003 then { c with fcsr := v.truncate 7 }
  else if n = 0x018 then
    { c with status := (c.status &&& 0b10000#5) ||| (v.truncate 5 &&& 0b01100#5) |||
        (c.status &&& 0b00011#5 &&& ~~~(clr.truncate 5 : BitVec 5)) }
  else if n = 0x021 then { c with lim2 := BitVec.ofNat 16 (v.toNat / 2 ^ 48), lim1 := BitVec.ofNat 8 (v.toNat / 2 ^ 24) }
  else c

/-- R50, R52, R55, R123: `swr`, `sset` and `sclr` write the rw fields of a special register, clear its w1c bits, leave its
read-only fields, and change nothing else; a register without writable fields is unchanged. -/
def Obligations.SpecialRegisterWrites : Prop :=
  ∀ (s : State) (a : BitVec 5) (n : BitVec 11), isSreg n = true → s.me.txa = false →
    let x := s.G a
    let old := s.sreg s.cur n.toNat
    exec (.swr a n) s = wentOn s (writeSreg n x x) ∧
    exec (.sset a n) s = wentOn s (writeSreg n (old ||| x) 0) ∧
    exec (.sclr a n) s = wentOn s (writeSreg n (old &&& ~~~x) x)

/-- R125, R126, R128, R334: `isync` and `pause` go on; `wfi` goes on as soon as a yield or cancel request, a wake or its time
limit ends it, and otherwise holds the thread at its PC with the limit n × 1,024 ticks ahead; `waitc` goes on when every
class counter is at or below its field (15: any), and otherwise waits. R332, R333, R340: in this model of accesses performed in
order (DESIGN CHOICE, log 6) a fence goes on at once, and sets SDN when its scope is `sys` and the tenant is limited to `dev`. -/
def Obligations.WaitsAndFences : Prop :=
  ∀ (s : State), s.me.txa = false →
    let c := s.me
    exec .isync s = wentOn s id ∧ exec .pause s = wentOn s id ∧
    (∀ n : BitVec 21,
      let due : Prop := c.yreq = true ∨ c.cancel = true ∨ c.wake = true ∨ ∃ t, c.wfi = some (some t) ∧ t ≤ s.clock.toNat
      (due → exec (.wfi n) s = wentOn s (fun k => { k with wfi := none, wake := false })) ∧
      (¬ due → exec (.wfi n) s = .next (s.onMe (fun k => { k with waiting := true, wfi := some (c.wfi.getD
        (if n = 0 then none else some (s.clock.toNat + n.toNat * 1024))) })))) ∧
    (∀ l r p m f : BitVec 4,
      let ok (n : Nat) (k : BitVec 4) : Prop := k = 15 ∨ n ≤ k.toNat
      let all : Prop := ok c.ld l ∧ ok c.st r ∧ ok c.cp p ∧ ok c.mx m ∧ ok c.fx f
      (all → exec (.waitc l r p m f) s = wentOn s id) ∧ (¬ all → exec (.waitc l r p m f) s = waits s)) ∧
    (∀ (c k : BitVec 2) (e : BitVec 5) (l : BitVec 3),
      exec (.fence c k) s = wentOn s (ordered s c) ∧ exec (.fencex e l c) s = wentOn s (ordered s c))

/-! ### Transactions and the bank (R321 to R324, R341 to R344) -/

/-- R343: the instructions that a transaction does not admit: those of R119, `vldc`, `vldb.c` and `vstb` (R162), `sset`, `sclr`,
`fence`, `fencex`, `waitc`, those of majors 0x30 to 0x35 and 0x37, and the long forms but `vldt`. -/
def Sys2Proof.NotAdmitted (i : Instr) : Prop :=
  (∃ w, encode i = some w ∧ let major := w.first.toNat / 2 ^ 26
    (major ∈ [0x30, 0x31, 0x32, 0x33, 0x34, 0x35, 0x37] ∨ (major = 0x3E ∧ w.first.toNat / 2 ^ 20 % 2 ^ 6 ≠ 3))) ∨
  match i with
  | .ecall .. | .brk .. | .tret | .wfi .. | .swr .. | .sset .. | .sclr .. | .fence .. | .fencex .. | .waitc .. | .ldc .. | .vldc ..
  | .vldbC .. | .vstb .. | .amoAdd .. | .amoSwap .. | .amoAnd .. | .amoOr .. | .amoXor .. | .amoMin .. | .amoMax .. | .amoMinu ..
  | .amoMaxu .. | .amoCas .. => True
  | _ => False

/-- R342 to R344: `tbegin` opens a transaction that will resume behind it, with TXA set, tstat and G(d) zero; `tend` performs
the write set, clears TXA and sets tstat to 1; `tabort` discards it, records its code with cause 6 in tstat and in the
register of the `tbegin`, and goes back behind the `tbegin`; `tstat` reads the status. R342, R343: inside a transaction a load
reads the thread's own uncommitted stores, and memory elsewhere, and adds its line to the read set if it is in neither set; a store
enters the write set, where only the thread's own loads see it, and memory is as before. So it is of a line that the transaction may
access and that no other transaction holds. R343: `tend` outside a transaction traps PERM. A transaction aborts with cause 2 and 3
where a load or store would make its read or write set too large, with cause 4 and the trap's number at a trap condition and before an
asynchronous trap, with cause 5 for a PREEMPT, with cause 7 at an instruction it does not admit, with cause 8 at a `tbegin`, and with
cause 9 at an access to an untranslated region, a pipped line, host-homed memory or a page under host bias. That peer-homed memory
is as host-homed is the model's (DESIGN CHOICE, log 23). -/
def Obligations.TransactionResults : Prop :=
  ∀ (s : State),
    (∀ d : BitVec 5, s.me.txa = false →
      exec (.tbegin d) s = .next (({ s with txs := s.txs ++ [(s.cur, (⟨s.pc + 4, d, [], [], [], [], [], false, false⟩ : Tx))] } : State).onMe (fun c =>
        { c.setG d 0 with status := c.status ||| 0b10000#5, tstat := 0, pc := s.pc + 4, waiting := false }))) ∧
    (∀ x : Tx, s.txOf s.cur = some x → ∃ t, exec .tend s = .next t ∧
      Went s t 4 (fun c => { c with status := c.status &&& 0b01111#5, tstat := 1 }) ∧
      t.txs = s.txs.filter (fun p => p.1 != s.cur) ∧
      t.mem = x.writes.foldl (fun m p => Memory.write memDefault m p.1 p.2) s.mem) ∧
    (∀ (c : BitVec 6) (x : Tx), s.me.txa = true → s.me.estep = false → s.txOf s.cur = some x →
      let st := BitVec.ofNat 64 (c.toNat * 2 ^ 10 + 6 * 2 ^ 4)
      exec (.tabort c) s = .next (({ s with txs := s.txs.filter (fun p => p.1 != s.cur) } : State).onMe (fun k =>
        { k.setG x.dest st with
          status := k.status &&& 0b01111#5, tstat := st, pc := x.resume, waiting := false, wfi := none }))) ∧
    (∀ c : BitVec 6, s.me.txa = false → exec (.tabort c) s = wentOn s id) ∧
    (∀ d : BitVec 5, exec (.tstat d) s = wroteG s d s.me.tstat) ∧
    (s.txOf s.cur = none → exec .tend s = .next (s.takeTrap s.cur (trapAt s 4 0 false))) ∧
    (∀ d : BitVec 5, s.me.txa = true → exec (.tbegin d) s = .next (s.abortTx s.cur 8 0)) ∧
    (∀ (i : Instr) (x : Tx), s.me.txa = true → s.me.tstat = 0 → s.txOf s.cur = some x →
      let aborted (cause trap : Nat) : Host.Outcome State Fault Refusal :=
        let st := BitVec.ofNat 64 (trap * 2 ^ 16 + cause * 2 ^ 4)
        .next (({ s with txs := s.txs.filter (fun p => p.1 != s.cur) } : State).onMe (fun k => { k.setG x.dest st with
          status := k.status &&& 0b01111#5, tstat := st, pc := x.resume, waiting := false, wfi := none
          stepFx := if k.estep then some (x.resume - 4) else k.stepFx }))
      let core := s.cur.core
      let cx := s.cur.cx
      (NotAdmitted i → exec i s = aborted 7 0) ∧
      (s.me.run = .running → s.me.pendTrap = none → s.me.resumed = none →
        (∀ q, s.me.fabStop = some q → exec (.asynchronousTrap core cx) s = aborted 4 q.cause) ∧
        (∀ q qs, s.me.fabStop = none → s.me.declined = q :: qs → exec (.asynchronousTrap core cx) s = aborted 4 q.cause) ∧
        (∀ r, s.me.fabStop = none → s.me.declined = [] → s.me.preempt = some r → exec (.preempt core cx) s = aborted 5 0)) ∧
      ∀ (d a : BitVec 5) (w : BitVec 3) (c : BitVec 2) (i : BitVec 13) (i2 : BitVec 11) (j : Instr) (k : Need) (va : Word),
        ((j = .ld d a w i ∧ k = .read ∨ j = .st d a w i ∧ k = .write) ∧ va = s.G a + i.signExtend 64 ∨
          (j = .lda d a w c i2 ∧ k = .read ∨ j = .stl d a w c i2 ∧ k = .write) ∧ va = s.G a + i2.signExtend 64) →
        let n := widthBytes w
        let walks : Prop := va.toNat % n = 0 ∧ regionOf va = none ∧
          ∀ m ∈ s.walkLines s.me.tenant va, LineFree s m ∧ ∀ p ∈ s.txs, p.2.wset.contains m = false
        (va.toNat % n ≠ 0 → exec j s = aborted 4 2) ∧
        (va.toNat % n = 0 → (regionOf va).isSome = true → exec j s = aborted 9 0) ∧
        (∀ e, walks → s.translate s.me.tenant va k = .error e → exec j s = aborted 4 e.num) ∧
        ∀ l, walks → s.translate s.me.tenant va k = .ok l → let line := l.pa / 128
          let shut : Prop := foreign l.pa = true ∨ s.hostBias l.pa = true ∨ s.pipped line = true
          (shut → exec j s = aborted 9 0) ∧
          (¬shut → LineFree s line →
            (∀ p ∈ s.txs, p.1 ≠ s.cur → p.2.wset.contains line = false ∧ (k = .write → p.2.rset.contains line = false)) →
            (k = .write → 32 < (NatSet.add x.wset line).length → exec j s = aborted 3 0) ∧
            (k = .read → s.poisonedFor s.cur l.pa n = true → exec j s = aborted 4 Cause.poison.num) ∧
            (k = .read → s.poisonedFor s.cur l.pa n = false → x.wset.contains line = false →
              64 < (NatSet.add x.rset line).length → exec j s = aborted 2 0))) ∧
    (∀ (d a : BitVec 5) (w : BitVec 3) (c : BitVec 2) (i : BitVec 13) (i2 : BitVec 11) (l : Leaf) (x : Tx), s.txOf s.cur = some x →
      let n := widthBytes w
      let line := l.pa / 128
      let va := s.G a + i.signExtend 64
      let va2 := s.G a + i2.signExtend 64
      let admits (va : Word) (k : Need) : Prop := va.toNat % n = 0 ∧ regionOf va = none ∧
        (∀ m ∈ s.walkLines s.me.tenant va, LineFree s m ∧ ∀ p ∈ s.txs, p.2.wset.contains m = false) ∧
        s.translate s.me.tenant va k = .ok l ∧ LineFree s line ∧ foreign l.pa = false ∧ s.hostBias l.pa = false ∧
        s.pipped line = false ∧
        (∀ p ∈ s.txs, p.1 ≠ s.cur → p.2.wset.contains line = false ∧ (k = .write → p.2.rset.contains line = false))
      let seen : List Byte := (List.range n).map (fun j => Tbl.getD x.writes (l.pa + j) (s.byte (l.pa + j)))
      let clean : Prop := ∀ g ∈ s.poison, g * 32 < l.pa + n → l.pa < (g + 1) * 32 →
        ∀ j < 32, (Tbl.find x.writes (g * 32 + j)).isSome = true
      let went (t : State) (f : Ctx → Ctx) (y : Tx) : Prop := Went s t 4 f ∧ t.mem = s.mem ∧ t.poison = s.poison ∧
        t = { s with cores := t.cores, dir := t.dir, l2 := t.l2, txs := t.txs, firsts := t.firsts,
                     host := { s.host with modified := t.host.modified } } ∧
        t.txOf s.cur = some y ∧ y.resume = x.resume ∧ y.dest = x.dest ∧ ∀ u, u ≠ s.cur → t.txOf u = s.txOf u
      let loads (j : Instr) (f : Ctx → Ctx) : Prop := ∃ t y, exec j s = .next t ∧
        went t (fun k => (f k).setG d (Sys2Proof.loaded w seen)) y ∧ y.writes = x.writes ∧ y.wset = x.wset ∧
        y.rset = (if x.wset.contains line then x.rset else NatSet.add x.rset line)
      let stores (j : Instr) (f : Ctx → Ctx) : Prop := ∃ t y, exec j s = .next t ∧ went t f y ∧ y.wset = NatSet.add x.wset line ∧
        y.rset = x.rset.filter (fun m => m != line) ∧
        ∀ p, Tbl.find y.writes p = if l.pa ≤ p ∧ p < l.pa + n then some ((leBytes n (s.G d).toNat).getD (p - l.pa) 0)
          else Tbl.find x.writes p
      (clean → (if x.wset.contains line then x.rset else NatSet.add x.rset line).length ≤ 64 →
        (admits va .read → loads (.ld d a w i) id) ∧ (admits va2 .read → loads (.lda d a w c i2) (ordered s c))) ∧
      ((NatSet.add x.wset line).length ≤ 32 →
        (admits va .write → stores (.st d a w i) id) ∧ (admits va2 .write → stores (.stl d a w c i2) (ordered s c))))

/-- R321, R323, R324: `alloc` takes the block most recently freed of the class from the on-chip list of the thread's die and
tenant, gives 0 when no block is left, and waits while a refill is due; `free` puts an aligned block on top of a list with
room, traps BANKERR for a misaligned one, and does nothing for 0. -/
def Obligations.BankResults : Prop :=
  ∀ (s : State) (d a : BitVec 5) (c : BitVec 4), s.me.txa = false →
    let b := s.bank (dieOf s.cur.core) s.me.tenant c
    let x := s.G a
    let bank (l : List Word) : State := s.setBank (dieOf s.cur.core) s.me.tenant c { b with chip := l }
    (∀ y ys, b.chip = y :: ys → exec (.alloc d c) s = wroteG (bank ys) d y) ∧
    (b.chip = [] → b.used = 0 → exec (.alloc d c) s = wroteG s d 0) ∧
    (b.chip = [] → b.used ≠ 0 → exec (.alloc d c) s = waits s) ∧
    (x = 0 → exec (.free a c) s = wentOn s id) ∧
    (x ≠ 0 → x.toNat % (128 * 2 ^ c.toNat) = 0 → b.chip.length < 256 → exec (.free a c) s = wentOn (bank (x :: b.chip)) id) ∧
    (x ≠ 0 → x.toNat % (128 * 2 ^ c.toNat) ≠ 0 → exec (.free a c) s = .next (s.raise s.cur (trapAt s 16 x false)))

/-! ### Vector configuration and arithmetic (spec/11_vector.md) -/

/-- R51, R160: `vset` and `vseti` set vtype, vl to the lesser of G(a) and VLMAX, vstart to 0, and G(d) to vl; `vfill` sets
the fill counts of a group and `vfill.r` reads them in elements. -/
def Obligations.VectorConfiguration : Prop :=
  ∀ (s : State) (d a b : BitVec 5),
    let conf (vt : BitVec 4) : Host.Outcome State Fault Refusal :=
      let n := BitVec.ofNat 13 (Nat.min (s.G a).toNat (4096 * 2 ^ (vt.toNat / 4) / (8 * 2 ^ (vt.toNat % 4))))
      wentOn s (fun c => { c.setG d (n.zeroExtend 64) with vtype := vt, vl := n, vstart := 0 })
    exec (.vset d a b) s = conf ((s.G b).truncate 4) ∧
    (∀ g e : BitVec 2, exec (.vseti d a g e) s = conf (g ++ e)) ∧
    (s.me.group d = true → ∃ t, exec (.vfill d a) s = .next t ∧
      GroupFilled s t d (Nat.min (s.G a).toNat s.me.vlmax) ∧
      t = s.setCtx s.cur { s.me with fill := t.me.fill, pc := s.pc + 4, waiting := false }) ∧
    (s.me.group a = true → exec (.vfillR d a) s = wroteG s d
      (BitVec.ofNat 64 ((List.range s.me.gf).map (fun j => s.me.fillOf (a.toNat + j) * 8 / s.me.ew)).sum))

/-- R151, R173: each integer operation writes its result modulo 2^EW into every active element of the body, keeps every other
element and register, sets the group's fill to vl, raises no flag and clears vstart. -/
def Obligations.VectorIntegerResults : Prop :=
  ∀ (s : State) (d a b : BitVec 5) (m : BitVec 3) (v : BitVec 1), VlBounded s.me → s.inParts = false →
    s.me.resumed = none → s.me.group d = true → s.me.group a = true → (v = 1 ∨ s.me.group b = true) → s.me.maskOk m = true →
    let c := s.me
    let w := c.ew
    let x (k : Nat) := c.el w a.toNat k
    let y (k : Nat) := if v = 1 then (c.G b).toNat % 2 ^ w else c.el w b.toNat k
    let sg (u : Nat) : Int := if u < 2 ^ (w - 1) then u else (u : Int) - 2 ^ w
    let un (z : Int) : Nat := (z % 2 ^ w).toNat
    let is (i : Instr) (f : Nat → Nat → Nat) : Prop := ∃ t, exec i s = .next t ∧ VecWent s t 4 ∧
      GroupWrote s t d (inBody c m) (fun k => f (x k) (y k)) ∧ GroupFilled s t d c.vl.toNat ∧ t.me.fcsr = c.fcsr ∧ t.me.m = c.m
    is (.vadd d a b m v) (fun x y => x + y) ∧
    is (.vsub d a b m v) (fun x y => un ((x : Int) - y)) ∧
    is (.vmul d a b m v) (fun x y => x * y) ∧
    is (.vmulh d a b m v) (fun x y => un (sg x * sg y / 2 ^ w)) ∧
    is (.vdiv d a b m v) (fun x y => if y = 0 then 2 ^ w - 1 else un ((sg x).tdiv (sg y))) ∧
    is (.vrem d a b m v) (fun x y => if y = 0 then x else un ((sg x).tmod (sg y))) ∧
    is (.vmin d a b m v) (fun x y => if sg x < sg y then x else y) ∧
    is (.vmax d a b m v) (fun x y => if sg x < sg y then y else x) ∧
    is (.vminu d a b m v) (fun x y => Min.min x y) ∧
    is (.vmaxu d a b m v) (fun x y => Max.max x y) ∧
    is (.vand d a b m v) (fun x y => x &&& y) ∧
    is (.vor d a b m v) (fun x y => x ||| y) ∧
    is (.vxor d a b m v) (fun x y => x ^^^ y) ∧
    is (.vsll d a b m v) (fun x y => x * 2 ^ (y % w)) ∧
    is (.vsrl d a b m v) (fun x y => x / 2 ^ (y % w)) ∧
    is (.vsra d a b m v) (fun x y => un (sg x / 2 ^ (y % w)))

/-- The quarter-octave value Q(j) (R135). -/
def Sys2Proof.quarterValue (j : Int) : ℚ :=
  let m : Nat := if j % 4 = 0 then 0x10000 else if j % 4 = 1 then 0x13070 else if j % 4 = 2 then 0x16A0A else 0x1AE8A
  m * (2 : ℚ) ^ (j / 4 - 16)

/-- The exact number that an element of a format code of R129 stands for: an integer, an L6 code at the scale σ (R149), or a
finite value of a binary format; none for NaR, an infinity and a NaN. -/
def Sys2Proof.codeNumber (c x : Nat) (σ : Int) : Option ℚ :=
  let w := codeWidth c
  if c < 8 then some (if c % 2 = 0 ∧ 2 ^ (w - 1) ≤ x % 2 ^ w then (x % 2 ^ w : ℕ) - (2 : ℚ) ^ w else (x % 2 ^ w : ℕ))
  else if c = 8 then
    if x % 64 = 32 then none
    else if x % 32 = 0 then some 0
    else some ((if x / 32 % 2 = 1 then -1 else 1) * quarterValue (((x % 32 : ℕ) : Int) - 16 + σ))
  else exactValue (if c = 0xA then bf16 else if c = 0xB then fp32 else fp64) x

/-- R151, R174, R143, R145, R181: each floating-point operation and conversion writes its result into every active element of
the body, and raises in fcsr the union of the flags of those elements and nothing else; the arithmetic is the scalar one, whose
values `FpResults` states. R145: exp2 gives exactly 1 for a zero, +∞ or +0 for the infinities, and the exact power of two for an
integer in the format's range, with no flag; for a number between two such integers it gives a number from the one power to the other,
with NX; which one, the correctly rounded one, is not stated here. R147 to R150: a conversion between the formats of R129 takes the
exact value of its source, an L6 code being its quarter-octave value at the scale σ, and rounds it once: to a binary format as R141
says; to an integer format as R106 says, or, from an integer, saturating with no flag; to L6 to a candidate of R150, and to the
largest code, with OF and NX, above the last one. -/
def Obligations.VectorFpResults : Prop :=
  (∀ (dst src rm x : Nat) (σ : Int), dst ≤ 0xC → src ≤ 0xC → dst ≠ 9 → src ≠ 9 → dst ≠ src → rm < 4 →
    let fmt (c : Nat) : Fmt := if c = 0xA then bf16 else if c = 0xB then fp32 else fp64
    let minus : Bool := x / 2 ^ ((fmt src).eb + (fmt src).mb) % 2 == 1
    let w := codeWidth dst
    let least : Int := if dst % 2 = 0 then -(2 ^ (w - 1)) else 0
    let most : Int := if dst % 2 = 0 then 2 ^ (w - 1) - 1 else 2 ^ w - 1
    let v (e : Nat) : ℚ := if e = 0 then 0 else quarterValue ((e : Int) - 16 + σ)
    let r := convert dst src rm σ x
    (∀ X : ℚ, codeNumber src x σ = some X →
      (0xA ≤ dst → (X ≠ 0 → RoundsTo (fmt dst) rm X r) ∧
        (X = 0 → r = (if 0xA ≤ src ∧ minus = true then 2 ^ ((fmt dst).eb + (fmt dst).mb) else 0, 0))) ∧
      (dst < 8 → ∃ n : Int, Rounded rm X n ∧
        r = (((if n < least then least else if most < n then most else n) % 2 ^ w).toNat,
          if src < 8 then 0 else if n < least ∨ most < n then 0b10000#5 else if (n : ℚ) = X then 0 else 0b00001#5)) ∧
      (dst = 8 → let A : ℚ := |X|
        (X = 0 → r = (0, 0)) ∧ (v 31 < A → r = ((if X < 0 then 63 else 31), 0b00101#5)) ∧
        (X ≠ 0 → A ≤ v 31 → ∃ e ≤ 31,
          r = (if e = 0 then 0 else if X < 0 then 32 + e else e,
            if v e = A then 0 else if A < v 1 then 0b00011#5 else 0b00001#5) ∧
          ∀ j ≤ 31, if rm = 0 then |v e - A| ≤ |v j - A| ∧ (|v e - A| = |v j - A| → j = e ∨ e % 2 = 0)
            else if rm = 1 ∨ (rm = 2 ∧ 0 < X) ∨ (rm = 3 ∧ X < 0) then v e ≤ A ∧ (v j ≤ A → v j ≤ v e)
            else A ≤ v e ∧ (A ≤ v j → v e ≤ v j)))) ∧
    (0xA ≤ src → x / 2 ^ (fmt src).mb % 2 ^ (fmt src).eb = 2 ^ (fmt src).eb - 1 → x % 2 ^ (fmt src).mb = 0 →
      (0xA ≤ dst → r = ((if minus then 2 ^ ((fmt dst).eb + (fmt dst).mb) else 0) + (2 ^ (fmt dst).eb - 1) * 2 ^ (fmt dst).mb, 0)) ∧
      (dst < 8 → r = (((if minus then least else most) % 2 ^ w).toNat, 0b10000#5)) ∧
      (dst = 8 → r = (0x20, 0b10000#5)))) ∧
  (∀ (f : Fmt) (rm x : Nat), f ∈ [bf16, fp32, fp64] →
    let pow (k : Int) : Nat := (k + (2 ^ (f.eb - 1) - 1)).toNat * 2 ^ f.mb
    (exactValue f x = some 0 → f.exp2 rm x = (pow 0, 0)) ∧
    f.exp2 rm ((2 ^ f.eb - 1) * 2 ^ f.mb) = ((2 ^ f.eb - 1) * 2 ^ f.mb, 0) ∧
    f.exp2 rm (2 ^ (f.eb + f.mb) + (2 ^ f.eb - 1) * 2 ^ f.mb) = (0, 0) ∧
    (∀ k : Int, 2 - 2 ^ (f.eb - 1) ≤ k → k < 2 ^ (f.eb - 1) → exactValue f x = some (k : ℚ) → f.exp2 rm x = (pow k, 0)) ∧
    ∀ (k : Int) (X : ℚ), 2 - 2 ^ (f.eb - 1) ≤ k → k + 1 < 2 ^ (f.eb - 1) → exactValue f x = some X → (k : ℚ) < X → X < k + 1 →
      pow k ≤ (f.exp2 rm x).1 ∧ (f.exp2 rm x).1 ≤ pow (k + 1) ∧ (f.exp2 rm x).2 = 0b00001#5) ∧
  ∀ (s : State) (d a b : BitVec 5) (m : BitVec 3) (v : BitVec 1), VlBounded s.me → s.inParts = false →
    s.me.resumed = none → s.me.group d = true → s.me.maskOk m = true →
    let c := s.me
    let w := c.ew
    let f := if w = 16 then bf16 else if w = 32 then fp32 else fp64
    let x (k : Nat) := c.el w a.toNat k
    let y (k : Nat) := if v = 1 then (c.G b).toNat % 2 ^ w else c.el w b.toNat k
    let z (k : Nat) := c.el w d.toNat k
    let is (i : Instr) (r : Nat → Nat × FpFlags) : Prop := ∃ t, exec i s = .next t ∧ VecWent s t 4 ∧
      GroupWrote s t d (inBody c m) (fun k => (r k).1) ∧ GroupFilled s t d c.vl.toNat ∧ t.me.m = c.m ∧
      ∀ j, t.me.fcsr.getLsbD j = true ↔ c.fcsr.getLsbD j = true ∨
        ∃ k, inBody c m k = true ∧ ((r k).2 ++ 0#2 : BitVec 7).getLsbD j = true
    (w ≠ 8 → s.me.group a = true → (v = 1 ∨ s.me.group b = true) →
      is (.vfadd d a b m v) (fun k => f.add c.rm (x k) (y k)) ∧
      is (.vfsub d a b m v) (fun k => f.sub c.rm (x k) (y k)) ∧
      is (.vfmul d a b m v) (fun k => f.mul c.rm (x k) (y k)) ∧
      is (.vfdiv d a b m v) (fun k => f.div c.rm (x k) (y k)) ∧
      is (.vfma d a b m v) (fun k => f.fma c.rm (x k) (y k) (z k)) ∧
      is (.vfnma d a b m v) (fun k => f.fnma c.rm (x k) (y k) (z k)) ∧
      is (.vfmin d a b m v) (fun k => f.min (x k) (y k)) ∧
      is (.vfmax d a b m v) (fun k => f.max (x k) (y k)) ∧
      is (.vfsqrt d a m) (fun k => f.sqrt c.rm (x k)) ∧
      is (.vfexp2 d a m) (fun k => f.exp2 c.rm (x k))) ∧
    (∀ tf sf : BitVec 4, c.cvtOk d a tf sf = true →
      is (.vcvt d a b m tf sf) (fun k =>
        convert tf.toNat sf.toNat c.rm ((c.G b).truncate 8 : BitVec 8).toInt (c.el (codeWidth sf.toNat) a.toNat k)))

/-! ### Compares, masks, permutes and reductions (R175 to R180, R146) -/

/-- A node of the reduction tree over element positions (R146), and the flags raised below it. -/
def Sys2Proof.treeNode (op : Nat → Nat → Nat × FpFlags) (leaf : Nat → Option Nat) : Nat → Nat → Option Nat × FpFlags
  | 0, j => (leaf j, 0)
  | n + 1, j =>
    match treeNode op leaf n (2 * j), treeNode op leaf n (2 * j + 1) with
    | (none, _), (y, g) => (y, g)
    | (some x, f), (none, _) => (some x, f)
    | (some x, f), (some y, g) => (some (op x y).1, f ||| g ||| (op x y).2)

/-- R175 to R177, R47: a compare writes each active element's condition into its bit of mask d and keeps every other bit;
the mask operations write the bits below vl; a mask field of 0 discards the write. -/
def Obligations.VectorComparesAndMasks : Prop :=
  ∀ (s : State) (d a b : BitVec 5) (m : BitVec 3) (v : BitVec 1), VlBounded s.me → s.me.vlmax ≤ 512 →
    let c := s.me
    let w := c.ew
    let r : BitVec 3 := d.truncate 3
    let f := if w = 16 then bf16 else if w = 32 then fp32 else fp64
    let x (k : Nat) := c.el w a.toNat k
    let y (k : Nat) := if v = 1 then (c.G b).toNat % 2 ^ w else c.el w b.toNat k
    let sg (u : Nat) : Int := if u < 2 ^ (w - 1) then u else (u : Int) - 2 ^ w
    let is (i : Instr) (wr val : Nat → Bool) (fl : Nat → FpFlags) : Prop := ∃ t, exec i s = .next t ∧ VecWent s t 4 ∧
      MaskWrote s t r wr val ∧ t.me.v = c.v ∧ t.me.fill = c.fill ∧
      ∀ j, t.me.fcsr.getLsbD j = true ↔ c.fcsr.getLsbD j = true ∨ ∃ k, wr k = true ∧ (fl k ++ 0#2 : BitVec 7).getLsbD j = true
    let ints : List (Nat → Nat → Bool) := [fun x y => x == y, fun x y => x != y, fun x y => sg x < sg y,
      fun x y => sg x ≤ sg y, fun x y => sg y < sg x, fun x y => sg y ≤ sg x, fun x y => x < y, fun x y => x ≤ y,
      fun x y => y < x, fun x y => y ≤ x]
    let fps : List (Nat → Nat → Bool × FpFlags) := [f.cmpEq, fun x y => (!(f.cmpEq x y).1, (f.cmpEq x y).2), f.cmpLt,
      f.cmpLe, fun x y => f.cmpLt y x, fun x y => f.cmpLe y x]
    (s.inParts = false → c.resumed = none → c.group a = true → (v = 1 ∨ c.group b = true) →
      (∀ cc p, ints[cc.toNat]? = some p →
        is (.vcmp d a b m v cc) (inBody c m) (fun k => p (x k) (y k)) (fun _ => 0)) ∧
      (w ≠ 8 → ∀ cc p, fps[cc.toNat]? = some p →
        is (.vfcmp d a b m v cc) (inBody c m) (fun k => (p (x k) (y k)).1) (fun k => (p (x k) (y k)).2))) ∧
    (c.vstart = 0 →
      let g (q : BitVec 5) (k : Nat) : Bool := (c.M (q.truncate 3)).getLsbD k
      let low (k : Nat) : Bool := k < c.vl.toNat
      let set := (List.range c.vl.toNat).filter (fun k => g a k && c.active m k)
      is (.mand d a b) low (fun k => g a k && g b k) (fun _ => 0) ∧
      is (.mor d a b) low (fun k => g a k || g b k) (fun _ => 0) ∧
      is (.mxor d a b) low (fun k => g a k != g b k) (fun _ => 0) ∧
      is (.mandn d a b) low (fun k => g a k && !g b k) (fun _ => 0) ∧
      exec (.mpop d a m) s = wentOn s (fun c =>
        { c.setG d (BitVec.ofNat 64 set.length) with vstart := 0, resumed := none }) ∧
      exec (.mfirst d a m) s = wentOn s (fun c =>
        { c.setG d (set.head?.elim (BitVec.allOnes 64) (BitVec.ofNat 64)) with vstart := 0, resumed := none }))

/-- R178, R179: the permutes write each selected element of group d from sources read before anything is written. `viota` counts
the set bits of its mask below each active element; the counts above bit 512 of a mask register are free values (DESIGN CHOICE, log 4). -/
def Obligations.VectorPermutes : Prop :=
  ∀ (s : State) (d a b : BitVec 5) (m : BitVec 3) (v : BitVec 1), VlBounded s.me → s.me.vstart = 0 →
    let c := s.me
    let w := c.ew
    let n := (c.G b).toNat
    let x (k : Nat) := c.el w a.toNat k
    let y (k : Nat) := if v = 1 then (c.G b).toNat % 2 ^ w else c.el w b.toNat k
    let body := (List.range c.vl.toNat).filter (c.active m)
    let is (i : Instr) (wr : Nat → Bool) (val : Nat → Nat) : Prop := ∃ t, exec i s = .next t ∧ VecWent s t 4 ∧
      GroupWrote s t d wr val ∧ GroupFilled s t d c.vl.toNat ∧ t.me.m = c.m ∧ t.me.fcsr = c.fcsr
    (c.group d = true → c.group a = true → c.maskOk m = true →
      is (.vslideup d a b m) (fun k => inBody c m k && n ≤ k) (fun k => x (k - n)) ∧
      is (.vslidedn d a b m) (inBody c m) (fun k => if k + n < c.vlmax then x (k + n) else 0) ∧
      (c.group b = true → is (.vperm d a b m) (inBody c m)
        (fun k => if c.el w b.toNat k < c.vlmax then x (c.el w b.toNat k) else 0)) ∧
      is (.vexpand d a m) (inBody c m) (fun k => x ((List.range k).filter (c.active m)).length) ∧
      is (.vbcast d b m) (inBody c m) (fun _ => n) ∧
      ((v = 1 ∨ c.group b = true) → is (.vmerge d a b m v) (· < c.vl.toNat) (fun k => if c.active m k then y k else x k)) ∧
      (∃ t, exec (.vcompress d a b m) s = .next (t.setG b (BitVec.ofNat 64 body.length)) ∧ VecWent s t 4 ∧
        GroupWrote s t d (· < body.length) (fun k => x (body.getD k 0)) ∧ GroupFilled s t d body.length ∧ t.me.m = c.m ∧
        t.me.fcsr = c.fcsr)) ∧
    (c.group a = true → exec (.vext d a b) s = wentOn s (fun c =>
      { c.setG d (if n < c.vlmax then BitVec.ofNat 64 (x n) else 0) with vstart := 0, resumed := none })) ∧
    (c.group d = true → ∃ t, exec (.vins d a b) s = .next t ∧ VecWent s t 4 ∧ GroupWrote s t d (· = n) (fun _ => (c.G a).toNat) ∧
      t.me.m = c.m ∧ t.me.fcsr = c.fcsr ∧
      ∀ r < 32, t.me.fillOf r = if n < c.vlmax ∧ r = d.toNat + n / (4096 / w)
        then Max.max (c.fillOf r) ((n % (4096 / w) + 1) * w / 8) else c.fillOf r) ∧
    (c.group d = true → c.maskOk m = true →
     let q : BitVec 3 := b.truncate 3
     ∃ t, exec (.viota d b m) s = .next t ∧ VecWent { s with freeCtr := t.freeCtr } t 4 ∧
      GroupWrote s t d (inBody c m) (fun k =>
        if k ≤ 512 ∨ q = 0 then ((List.range k).filter (c.active q)).length else t.me.el c.ew d.toNat k) ∧
      GroupFilled s t d c.vl.toNat ∧ t.me.m = c.m ∧ t.me.fcsr = c.fcsr)

/-- R146, R180: an integer reduction folds the seed and the active elements; a floating-point one combines the active
elements by the tree of R146 and adds the seed last. The result is element 0 of register d, whose fill becomes EW / 8. -/
def Obligations.VectorReductions : Prop :=
  ∀ (s : State) (d a b : BitVec 5) (m : BitVec 3), VlBounded s.me → s.me.vstart = 0 →
    s.me.group a = true → s.me.maskOk m = true →
    let c := s.me
    let w := c.ew
    let f := if w = 16 then bf16 else if w = 32 then fp32 else fp64
    let z := c.el w b.toNat 0
    let xs := ((List.range c.vl.toNat).filter (c.active m)).map (c.el w a.toNat)
    let sg (u : Nat) : Int := if u < 2 ^ (w - 1) then u else (u : Int) - 2 ^ w
    let un (u : Int) : Nat := (u % 2 ^ w).toNat
    let red (op : Nat → Nat → Nat × FpFlags) : Nat × FpFlags :=
      match treeNode op (fun k => if inBody c m k then some (c.el w a.toNat k) else none) 12 0 with
      | (none, _) => (z, 0)
      | (some x, g) => ((op x z).1, g ||| (op x z).2)
    let is (i : Instr) (r : Nat × FpFlags) : Prop := ∃ t, exec i s = .next t ∧ VecWent s t 4 ∧
      GroupWrote s t d (· = 0) (fun _ => r.1) ∧
      (∀ q < 32, t.me.fillOf q = if q = d.toNat then w / 8 else c.fillOf q) ∧
      t.me.m = c.m ∧ t.me.fcsr = c.fcsr ||| (r.2 ++ 0#2)
    is (.vredsum d a b m) (z + xs.sum, 0) ∧
    is (.vredmin d a b m) (un ((xs.map sg).foldl Min.min (sg z)), 0) ∧
    is (.vredmax d a b m) (un ((xs.map sg).foldl Max.max (sg z)), 0) ∧
    (w ≠ 8 → is (.vfredsum d a b m) (red (f.add c.rm)) ∧ is (.vfredmin d a b m) (red f.min) ∧
      is (.vfredmax d a b m) (red f.max))


/-! ### Vector memory (R161 to R172) -/

/-- R161, R164 to R166, R153: a vector load whose active body elements can all be performed writes them, each from its own
address, sets the group's fill to vl, and stores nothing. The L6P forms read the 3-byte group that holds each code (R134). -/
def Obligations.VectorLoads : Prop :=
  ∀ (s : State) (d a b : BitVec 5) (m : BitVec 3) (i : BitVec 2), VlBounded s.me → s.inParts = false →
    s.me.resumed = none → s.me.group d = true → s.me.maskOk m = true →
    let c := s.me
    let n := c.ew / 8
    let ga := s.G a
    let iw := 8 * 2 ^ i.toNat
    let span := Max.max 1 (c.gf * iw / c.ew)
    let loads (j : Instr) (val : Nat → Nat) : Prop := ∃ t, exec j s = .next t ∧ VecWentMemory s t 4 ∧ t.mem = s.mem ∧
      t.poison = s.poison ∧ GroupWrote s t d (inBody c m) val ∧ GroupFilled s t d c.vl.toNat ∧ t.me.m = c.m
    let one (j : Instr) (at_ : Nat → Word) : Prop := ∀ (pa : Nat → Nat) (unc : Nat → Bool),
      (∀ k, inBody c m k = true → VecReachable s (at_ k) n false (pa k) (unc k)) → loads j (fun k => s.num (pa k) n)
    one (.vld d a m 0) (fun k => ga + BitVec.ofNat 64 (k * n)) ∧
    one (.vldff d a m 0) (fun k => ga + BitVec.ofNat 64 (k * n)) ∧
    one (.vlds d a b m) (fun k => ga + BitVec.ofNat 64 k * s.G b) ∧
    (c.gf * iw ≤ 8 * c.ew → b.toNat % span = 0 → (b.toNat + span ≤ d.toNat ∨ d.toNat + c.gf ≤ b.toNat) →
      one (.vldx d a b m i) (fun k => ga + BitVec.ofNat 64 (c.el iw b.toNat k))) ∧
    (n = 1 → ∀ (pa : Nat → Nat → Nat) (unc : Nat → Nat → Bool),
      (∀ k, inBody c m k = true → ∀ j < 3,
        VecReachable s (ga + BitVec.ofNat 64 (3 * (k / 4) + j)) 1 false (pa k j) (unc k j)) →
      let code (k : Nat) := leNat [s.byte (pa k 0), s.byte (pa k 1), s.byte (pa k 2)] / 2 ^ (6 * (k % 4)) % 64
      loads (.vld d a m 1) code ∧ loads (.vldff d a m 1) code)

/-- R161, R164, R165: a vector store whose active body elements can all be performed writes each at its own address, in
ascending order of elements, and changes no register; every other byte of memory is as before. -/
def Obligations.VectorStores : Prop :=
  ∀ (s : State) (r a b : BitVec 5) (m : BitVec 3) (i : BitVec 2), VlBounded s.me → s.inParts = false →
    s.me.resumed = none → s.me.group r = true → s.me.maskOk m = true → Memory.wf memDefault s.mem = true →
    let c := s.me
    let n := c.ew / 8
    let ga := s.G a
    let iw := 8 * 2 ^ i.toNat
    let span := Max.max 1 (c.gf * iw / c.ew)
    let stores (j : Instr) (ws : List (Nat × Byte)) : Prop := ∃ t, exec j s = .next t ∧ VecWentMemory s t 4 ∧
      (∀ g ∈ t.poison, g ∈ s.poison) ∧ Wrote s t ws ∧ t.me.v = c.v ∧ t.me.fill = c.fill ∧ t.me.m = c.m
    let one (j : Instr) (at_ : Nat → Word) : Prop := ∀ (pa : Nat → Nat) (unc : Nat → Bool),
      (∀ k, inBody c m k = true → VecReachable s (at_ k) n true (pa k) (unc k)) →
      stores j ((bodyOf c m).flatMap (fun k => laid (pa k) (leBytes n (c.el c.ew r.toNat k))))
    (regionOf ga ≠ some .queue → one (.vst r a m 0) (fun k => ga + BitVec.ofNat 64 (k * n))) ∧
    one (.vsts r a b m) (fun k => ga + BitVec.ofNat 64 k * s.G b) ∧
    (c.gf * iw ≤ 8 * c.ew → b.toNat % span = 0 →
      one (.vstx r a b m i) (fun k => ga + BitVec.ofNat 64 (c.el iw b.toNat k))) ∧
    (n = 1 → ∀ (pa : Nat → Nat → Nat) (unc : Nat → Nat → Bool),
      (∀ k, inBody c m k = true → ∀ j < 3,
        VecReachable s (ga + BitVec.ofNat 64 (3 * (k / 4) + j)) 1 true (pa k j) (unc k j)) →
      let codes (k : Nat) := ((List.range 4).map (fun j => c.el 8 r.toNat (k / 4 * 4 + j) % 64 * 2 ^ (6 * j))).sum
      stores (.vst r a m 1) ((bodyOf c m).flatMap (fun k =>
        (List.range 3).map (fun j => (pa k j, (leBytes 3 (codes k)).getD j 0)))))

/-- R161, R156, R166, R349: where element k misses the resident table, a `vld` traps there with its progress in vstart and
in a kind 1 record, the elements below k loaded; a `vldff` shortens vl to k instead, unless k is its lowest active element.
That exactly the elements below k are complete and none above is the model's: the lane groups stop together (DESIGN CHOICE,
log 7; R155 and R156 let them stop apart), and so is the note beside the record of the element at which the instruction was
issued and of whether lane group 0 is complete, which the counters leave unsaid (DEDUCED, log 7). -/
def Obligations.VectorFaultsKeepProgress : Prop :=
  ∀ (s : State) (d a : BitVec 5) (m : BitVec 3) (k q : Nat) (pa : Nat → Nat) (unc : Nat → Bool), VlBounded s.me →
    s.txs = [] → s.me.txa = false → s.inParts = false → s.me.resumed = none → s.me.group d = true → s.me.maskOk m = true →
    let c := s.me
    let n := c.ew / 8
    let at_ (j : Nat) := s.G a + BitVec.ofNat 64 (j * n)
    let lane (j : Nat) := j * c.ew / 256 % 8
    let next (g : Nat) : Nat := (((List.range c.vl.toNat).drop k).find? (fun j => lane j == g)).getD c.vl.toNat
    let words (i : Instr) : List Byte :=
      match encode i with
      | some w => leBytes 4 w.first.toNat ++ leBytes 4 w.second.toNat
      | none => []
    let record (i : Instr) : List Byte := padTo 64 ((List.range 8).flatMap (fun g => leBytes 2 (next g)) ++ words i)
    let i : Instr := .vld d a m 0
    let traps (j : Instr) (t : State) : Prop :=
      exec j s = .next (t.takeTrap s.cur ⟨5, at_ k, s.pc, s.pc, true, false, 1, record j, []⟩)
    let loaded (t : State) : Prop := OnlyCaches s (t.setCtx s.cur c) ∧
      t.me = { c with
        v := t.me.v, vstart := BitVec.ofNat 13 k
        issuedAt := Tbl.put c.issuedAt c.tframe.toNat
          (c.vstart.toNat, ((List.range c.vl.toNat).drop k).all (fun j => lane j != 0), c.cvtSrc)
        cvtSrc := none } ∧
      GroupWrote s t d (fun j => inBody c m j && decide (j < k)) (fun j => s.num (pa j) n)
    inBody c m k = true → (at_ k).toNat % n = 0 → regionOf (at_ k) = none → c.resident (at_ k) n false = .error .vpage →
    (∀ j, inBody c m j = true → j < k → VecReachable s (at_ j) n false (pa j) (unc j)) →
    (∃ t, traps i t ∧ loaded t) ∧
    ((∀ j, inBody c m j = true → k ≤ j) → ∃ t, traps (.vldff d a m 0) t ∧ loaded t) ∧
    (inBody c m q = true → q < k → ∃ t, VecWentMemory s t 4 ∧ t.mem = s.mem ∧
      GroupWrote s t d (fun j => inBody c m j && decide (j < k)) (fun j => s.num (pa j) n) ∧ GroupFilled s t d k ∧
      exec (.vldff d a m 0) s = .next (t.onMe (fun e => { e with vl := BitVec.ofNat 13 k })))

/-- R167, R302: a consuming load whose active body elements lie on live pipped lines reads them and takes one pip of each
line; a line without a pip left is dropped from the directory. -/
def Obligations.VectorConsumingLoads : Prop :=
  ∀ (s : State) (d a : BitVec 5) (m : BitVec 3) (pa : Nat → Nat) (unc : Nat → Bool), VlBounded s.me → DirSorted s →
    s.me.txa = false → s.inParts = false → s.me.resumed = none → s.me.group d = true → s.me.maskOk m = true →
    let c := s.me
    let n := c.ew / 8
    let at_ (k : Nat) := s.G a + BitVec.ofNat 64 (k * n)
    (s.G a).toNat % n = 0 →
    (∀ k, inBody c m k = true → VecReachable s (at_ k) n false (pa k) (unc k) ∧
      (s.dirOf (pa k / 128)).st = .pipped ∧ (s.dirOf (pa k / 128)).pending = false) →
    (∀ k j, inBody c m k = true → inBody c m j = true → pa k / 128 = pa j / 128 →
      (at_ k).toNat / 128 = (at_ j).toNat / 128) →
    ∃ t, exec (.vldc d a m) s = .next t ∧ VecWentMemory s t 4 ∧ t.me.m = c.m ∧
      GroupWrote s t d (inBody c m) (fun k => s.num (pa k) n) ∧ GroupFilled s t d c.vl.toNat ∧
      (∀ k, inBody c m k = true → let e := s.dirOf (pa k / 128)
        (1 < e.pips.toNat → t.dirOf (pa k / 128) = { e with pips := e.pips - 1 }) ∧
        (e.pips.toNat ≤ 1 → Tbl.find t.dir (pa k / 128) = none)) ∧
      ∀ l, (∀ k, inBody c m k = true → pa k / 128 ≠ l) → t.dirOf l = s.dirOf l

/-- R168, R298, R300: the buffer loads and stores act on the bytes of the handle's region; `vldb.c` takes one pip of a FULL
handle and leaves it SPENT with none left, unless it is unlimited. -/
def Obligations.BufferLoadsAndStores : Prop :=
  ∀ (s : State) (d a h : BitVec 5) (m : BitVec 3) (p j : BitVec 1) (bf : Buf), VlBounded s.me → s.inParts = false →
    s.me.resumed = none → s.me.group d = true → s.me.maskOk m = true →
    let c := s.me
    let n := c.ew / 8
    let ga := (s.G a).toNat
    let hn : BitVec 6 := j ++ h
    let hd := (s.core s.cur.core).handle hn
    let o (k : Nat) := 64 * hd.offb.toNat + ga + (if p = 0 then k * n else 3 * (k / 4))
    let z := if p = 0 then n else 3
    let read (k : Nat) := leNat ((s.core s.cur.core).bufBytes bf (o k) z) / (if p = 0 then 1 else 2 ^ (6 * (k % 4)))
    let val (k : Nat) := if p = 0 then read k else read k % 64
    let kept (k : Nat) := if p = 0 then c.el c.ew d.toNat k else
      ((List.range 4).map (fun j => c.el 8 d.toNat (k / 4 * 4 + j) % 64 * 2 ^ (6 * j))).sum
    (p = 0 ∨ n = 1) → (p = 0 → ga % n = 0) → hd.buf = some bf → hd.ten = c.tenant →
    (c.vstart.toNat < c.vl.toNat → o (c.vl.toNat - 1) + z ≤ 64 * hd.offb.toNat + 64 * hd.sizeb.toNat) →
    ((hd.st = .full ∨ hd.st = .spent ∨ hd.st = .draining) → ∃ t, exec (.vldb d a h m p j) s = .next t ∧ VecWent s t 4 ∧
      GroupWrote s t d (inBody c m) val ∧ GroupFilled s t d c.vl.toNat ∧ t.me.m = c.m ∧ t.me.fcsr = c.fcsr) ∧
    (s.me.txa = false → c.vstart = 0 → hd.st = .full → (hd.unl = true ∨ hd.pips ≠ 0) → ∃ t,
      exec (.vldbC d a h m p j) s = .next (t.onCore s.cur.core (fun k => k.setHandle hn (if hd.unl then hd else
        { hd with pips := hd.pips - 1, st := if hd.pips = 1 then .spent else .full }))) ∧ VecWent s t 4 ∧
      GroupWrote s t d (inBody c m) val ∧ GroupFilled s t d c.vl.toNat ∧ t.me.m = c.m ∧ t.me.fcsr = c.fcsr) ∧
    (s.me.txa = false → hd.st ≠ .filling → hd.st ≠ .draining → Memory.wf zeroByte ((s.core s.cur.core).buf bf) = true →
      ∃ t, exec (.vstb d a h m p j) s = .next t ∧
      t.me = { c with vstart := 0, resumed := none, pc := s.pc + 4, waiting := false } ∧
      t = { s with cores := t.cores } ∧ (∀ q, q ≠ s.cur.core → t.core q = s.core q) ∧
      (let k := t.core s.cur.core
       k = { s.core s.cur.core with
        ctxN := k.ctxN, ctxU := k.ctxU, bufW := k.bufW, bufA := k.bufA, bufC := k.bufC,
        badW := k.badW, badA := k.badA, badC := k.badC }) ∧
      ∀ b2 x, (t.core s.cur.core).bufBytes b2 x 1 = if b2 = bf then
        ((bodyOf c m).flatMap (fun k => laid (o k) (leBytes z (kept k)))).foldl
          (fun v w => if w.1 = x then [w.2] else v) ((s.core s.cur.core).bufBytes bf x 1)
        else (s.core s.cur.core).bufBytes b2 x 1)

/-- R169: `vldm` reads bit i of its mask, for the i below vl, from bit i mod 8 of byte i div 8; `vstm` writes those bytes.
The bits of a mask register above 512 are free values (DESIGN CHOICE, log 4): nothing is said of them. -/
def Obligations.MaskLoadsAndStores : Prop :=
  ∀ (s : State) (d a : BitVec 5) (pa : Nat → Nat) (unc : Nat → Bool), VlBounded s.me → s.inParts = false →
    s.me.resumed = none →
    let c := s.me
    let r : BitVec 3 := d.truncate 3
    let js := (List.range ((c.vl.toNat + 7) / 8)).drop (c.vstart.toNat / 8)
    (c.vlmax ≤ 512 →
      (∀ j ∈ js, VecReachable s (s.G a + BitVec.ofNat 64 j) 1 false (pa j) (unc j)) →
      ∃ t, exec (.vldm d a) s = .next t ∧ VecWentMemory s t 4 ∧ t.mem = s.mem ∧ t.poison = s.poison ∧
        MaskWrote s t r (fun k => decide (c.vstart.toNat / 8 ≤ k / 8) && decide (k < c.vl.toNat))
          (fun k => (s.byte (pa (k / 8))).getLsbD (k % 8)) ∧ t.me.v = c.v ∧ t.me.fill = c.fill) ∧
    (Memory.wf memDefault s.mem = true →
      (∀ j ∈ js, VecReachable s (s.G a + BitVec.ofNat 64 j) 1 true (pa j) (unc j)) →
      ∃ (t : State) (bs : Nat → Byte), exec (.vstm d a) s = .next t ∧ VecWentMemory { s with freeCtr := t.freeCtr } t 4 ∧
        (∀ g ∈ t.poison, g ∈ s.poison) ∧ Wrote s t (js.map (fun j => (pa j, bs j))) ∧
        (∀ j, (j < 64 ∨ r = 0) → ∀ x < 8, (bs j).getLsbD x = c.active r (8 * j + x)) ∧
        t.me.v = c.v ∧ t.me.fill = c.fill ∧ t.me.m = c.m)

/-- R170 to R172, R153: `vldt` reads the elements of the tile that lie in the tensor, writes 0 for those outside it, writes
the in-range pattern to its mask, shortens vl to the columns that are left, and sets each register's fill to them. -/
def Obligations.TensorTileLoads : Prop :=
  ∀ (s : State) (d a b c e : BitVec 5) (n2 n1 : BitVec 2) (pd : Nat) (ud : Bool) (pa : Nat → Nat) (unc : Nat → Bool),
    s.inParts = false → s.me.resumed = none → s.me.group d = true →
    let k := s.me
    let per := 4096 / k.ew
    let w := k.ew / 8
    let q1 := 2 ^ n1.toNat
    let q2 := 2 ^ n2.toNat
    let ga := s.G a
    let num (o n : Nat) := s.num (pd + o) n
    let org (x : Word) (hi : Nat) : Int := ((x.extractLsb' (32 * hi) 32 : BitVec 32)).toInt
    let o := [org (s.G b) 0, org (s.G b) 1, org (s.G e) 0, org (s.G e) 1]
    let size := [num 0x8 4, num 0xC 4, num 0x10 4, num 0x14 4]
    let step : List Int := [w, (BitVec.ofNat 64 (num 0x18 8)).toInt, (BitVec.ofNat 64 (num 0x20 8)).toInt,
      (BitVec.ofNat 64 (num 0x28 8)).toInt]
    let left := (size.getD 0 0 : Int) - o.getD 0 0
    let cols := if 0 < left ∧ left < k.vl.toNat then left.toNat else k.vl.toNat
    let at4 (l : List Int) (x : Nat) : Int := l.getD x 0
    let off (i x : Nat) : Nat := [i % per, i / per % q1, i / per / q1 % q2, i / per / (q1 * q2)].getD x 0
    let coord (i x : Nat) : Int := at4 o x + off i x
    let inR (i : Nat) : Bool := (List.range 4).all (fun x => decide (0 ≤ coord i x) && decide (coord i x < size.getD x 0))
    let va (i : Nat) : Word := BitVec.ofNat 64 (num 0 8) +
      BitVec.ofInt 64 (((List.range 4).map (fun x => coord i x * at4 step x)).sum)
    let tile (i : Nat) : Bool := decide (i % per < cols) && decide (k.vstart.toNat ≤ i) && decide (i < k.gf * per)
    q1 * q2 ≤ k.gf → k.vl.toNat ≤ per → (c = 0 ∨ k.vlmax ≤ 512) → ga.toNat % 64 = 0 →
    (∀ j < 8, VecReachable s (ga + BitVec.ofNat 64 (8 * j)) 8 false (pd + 8 * j) ud) → num 0x30 16 = 0 →
    (∀ i, tile i = true → inR i = true → VecReachable s (va i) w false (pa i) (unc i)) →
    ∃ t, exec (.vldt d a b c e n2 n1) s = .next (t.onMe (fun x => { x with vl := BitVec.ofNat 13 cols })) ∧
      VecWentMemory s t 8 ∧ t.mem = s.mem ∧ t.poison = s.poison ∧
      GroupWrote s t d tile (fun i => if inR i then s.num (pa i) w else 0) ∧
      MaskWrote s t (c.truncate 3) tile inR ∧
      (∀ r < 32, t.me.fillOf r = if d.toNat ≤ r ∧ r < d.toNat + k.gf then cols * w else k.fillOf r)

/-- R45, R47, R62, R154, R163 to R165, R174, R179: an instruction that names no group, reads or writes a mask it may not,
starts from a non-zero vstart where it must not, or has no format at the element width traps ILLOP with its words. -/
def Obligations.IllegalVectorForms : Prop :=
  ∀ (s : State) (d a b : BitVec 5) (m : BitVec 3) (v p : BitVec 1) (cc : BitVec 4) (x : BitVec 2),
    let all (is : List Instr) : Prop := ∀ i ∈ is, exec i s = illegal s i
    (s.me.group d = false → all [.vadd d a b m v, .vmul d a b m v, .vsll d a b m v, .vfadd d a b m v, .vfma d a b m v,
      .vfsqrt d a m, .vslideup d a b m, .vperm d a b m, .vcompress d a b m, .vmerge d a b m v, .vins d a b, .vfill d a,
      .vld d a m p, .vlds d a b m, .vldx d a b m x, .vldff d a m p, .vst d a m p, .vsts d a b m, .vstx d a b m x]) ∧
    (s.me.group a = false → all [.vadd d a b m v, .vfadd d a b m v, .vcmp d a b m v cc, .vfcmp d a b m v cc,
      .vslideup d a b m, .vext d a b, .vfillR d a, .vredsum d a b m, .vfredsum d a b m]) ∧
    (m ≠ 0 → 512 < s.me.vlmax → all [.vadd d a b m v, .vfadd d a b m v, .vslideup d a b m, .vredsum d a b m, .mpop d a m,
      .mfirst d a m, .vld d a m p, .vst d a m p]) ∧
    (512 < s.me.vlmax → all [.vcmp d a b m v cc, .vfcmp d a b m v cc, .mand d a b, .mor d a b, .mxor d a b, .mandn d a b,
      .vldm d a]) ∧
    (s.me.vstart ≠ 0 → all [.mand d a b, .mpop d a m, .mfirst d a m, .vslideup d a b m, .vslidedn d a b m, .vperm d a b m,
      .vcompress d a b m, .vexpand d a m, .vmerge d a b m v, .vbcast d a m, .vext d a b, .vins d a b, .vredsum d a b m,
      .vredmin d a b m, .vredmax d a b m, .vfredsum d a b m, .vfredmin d a b m, .vfredmax d a b m]) ∧
    (s.me.ew = 8 → all [.vfadd d a b m v, .vfsub d a b m v, .vfmul d a b m v, .vfdiv d a b m v, .vfma d a b m v,
      .vfnma d a b m v, .vfmin d a b m v, .vfmax d a b m v, .vfsqrt d a m, .vfexp2 d a m, .vfcmp d a b m v cc,
      .vfredsum d a b m, .vfredmin d a b m, .vfredmax d a b m]) ∧
    (s.me.ew ≠ 8 → all [.vld d a m 1, .vldff d a m 1, .vst d a m 1])

/-! ### The matrix array and factor tiles (R259 to R288) -/

/-- The state once the moving thread's tenant owns the planes: a new owner finds both empty (R261). -/
def Sys2Proof.owned (s : State) : State :=
  if (s.core s.cur.core).owner = some s.me.tenant then s
  else s.onCore s.cur.core (fun k => { k with owner := some s.me.tenant, front := ⟨none, none⟩, shadow := ⟨none, none⟩ })

/-- The tenant owns the planes, or may take them at once: no work of the owner that uses them is in flight, and no
instruction of the owner that uses them waits (R261). -/
def Sys2Proof.planesFree (s : State) : Prop :=
  let k := s.core s.cur.core
  k.owner = some s.me.tenant ∨ k.owner = none ∨
    (k.ctxN.planesBusy = false ∧ k.ctxU.planesBusy = false ∧
      (s.otherCtx.planesWait = none ∨ k.owner ≠ some s.otherCtx.tenant))

/-- The turn of an instruction that comes to wait for the planes: after that of the other context's instruction that waits for
them; one that waits already keeps its turn. -/
def Sys2Proof.turnOf (s : State) : Nat :=
  match s.me.planesWait, s.otherCtx.planesWait with
  | some w, _ => w.turn
  | none, some w => w.turn + 1
  | none, none => 0

/-- The answer of an instruction that uses the planes and waits: the thread records whether it latches a tile, the
tag of the one it receives, and its turn (R261, R269, R270). -/
def Sys2Proof.waitsOnPlanes (s : State) (latches : Bool) (tag : Option (BitVec 8)) : Host.Outcome State Fault Refusal :=
  .next (s.onMe (fun c => { c with waiting := true, mxWait := some ⟨c.pc, latches, tag, turnOf s⟩ }))

/-- No issued row carries the shadow plane's epoch, nor do the rows that a running `mmab` has still to send (R262). -/
def Sys2Proof.shadowFree (k : Core) : Prop :=
  ∀ e, k.shadow.epoch = some e → ∀ c ∈ [k.ctxN, k.ctxU], (∀ j ∈ c.mxJobs, j.hasTag e = false) ∧
    ∀ p n pip, c.resumed = some (.matrix p n e pip) → p = .given

/-- A handle names a region of buffer b for the moving thread's tenant (R297). -/
def Sys2Proof.namesBuf (s : State) (h : BitVec 6) (b : Buf) : Prop :=
  let hd := (s.core s.cur.core).handle h
  hd.buf = some b ∧ hd.ten = s.me.tenant

/-- A handle after the reads of an instruction that may take a pip of it (R168). -/
def Sys2Proof.afterRead (con : Bool) (hd : Handle) : Handle :=
  if con = false ∨ hd.unl = true then hd
  else { hd with pips := hd.pips - 1, st := if hd.st = .full ∧ hd.pips = 1 then .spent else hd.st }

/-- A handle whose bytes may be read, by a consuming read or not (R168). -/
def Sys2Proof.canRead (con : Bool) (hd : Handle) : Prop :=
  hd.st ≠ .filling ∧ if con then hd.st = .full ∧ (hd.unl = true ∨ hd.pips ≠ 0) else hd.st ≠ .free

/-- A weight tile of format f and kw rows read from bytes (R260, R134): L6P is held as L6. -/
def Sys2Proof.isTile (w : Weights) (f : BitVec 5) (kw : Nat) (byte : Nat → Nat) : Prop :=
  w.fmt = (if f = 9 then 8 else f.truncate 4) ∧ w.kw = kw ∧
  (∀ n < 64, (w.ws.getD n 0).toNat = byte n) ∧
  ∀ r < kw, ∀ n < 64, (w.rows.getD r []).getD n 0 =
    if f = 9 then (let o := 64 + 48 * r + 3 * (n / 4)
      (byte o + 256 * byte (o + 1) + 65536 * byte (o + 2)) / 2 ^ (6 * (n % 4)) % 64)
    else if f = 0xA then byte (64 + 128 * r + 2 * n) + 256 * byte (64 + 128 * r + 2 * n + 1)
    else byte (64 + 64 * r + n)

/-- R260 to R262, R267, R270, R334: `lds` latches a weight tile into the shadow plane with epoch none; `pswap` adds one to the
generation, exchanges the planes, gives the new front plane that epoch and writes the generation into G(d). While a latch of the
core's other context waits that was issued earlier, `pswap` waits: one that waited before the `pswap` came to wait (DEDUCED, log 39). Rows already issued that meet the plane
that comes to the front go on meeting it, those that a running `mmab` has still to send too: the model gives them its new tag (DEDUCED,
log 39), where R262 tags a row at issue. -/
def Obligations.PlaneLatchAndSwap : Prop :=
  ∀ (s : State) (d f a b : BitVec 5) (h : BitVec 6) (con : Bool), s.me.txa = false → planesFree s → s.me.mx < 65535 →
    let latchWaits : Prop := ∃ w, s.otherCtx.planesWait = some w ∧ w.latches = true ∧ w.turn < turnOf s
    let k := (owned s).core s.cur.core
    let hd := k.handle h
    let o := (s.G a).toNat
    let kw := (s.G b).toNat
    let row := if f = 9 then 48 else if f = 0xA then 128 else 64
    (o % 64 = 0 → namesBuf s h .w → 1 ≤ kw → kw ≤ (if f = 0xA then 256 else 512) →
      o + 64 + kw * row ≤ 64 * hd.sizeb.toNat → canRead con hd → shadowFree k → k.badW = [] →
      ∃ w, isTile w f kw (fun x => leNat (k.bufBytes .w (64 * hd.offb.toNat + o + x) 1)) ∧
        exec (if con then .ldsC f a b h else .lds f a b h) s = wentOn ((owned s).onCore s.cur.core (fun k =>
          { k.setHandle h (afterRead con hd) with shadow := ⟨some w, none⟩ })) id) ∧
    (latchWaits → exec (.pswap d) s = waitsOnPlanes (owned s) false none) ∧
    (¬latchWaits → ∃ t : State, exec (.pswap d) s = .next (t.onMe (fun c =>
        { c.setG d ((k.gen + 1).zeroExtend 64) with pc := s.pc + 4, waiting := false })) ∧
      (let q := t.core s.cur.core
       q = { k with
         gen := k.gen + 1, front := ⟨k.shadow.weights, some (k.gen + 1)⟩, shadow := k.front
         ctxN := q.ctxN, ctxU := q.ctxU } ∧
       (∀ x y : Ctx, (x, y) ∈ [(q.ctxN, k.ctxN), (q.ctxU, k.ctxU)] →
         x = { y with
           mxJobs := y.mxJobs.map (fun j => j.retag k.shadow.epoch (k.gen + 1))
           resumed := match y.resumed with
             | some (.matrix p n tag pip) =>
               some (.matrix p n (if p ≠ .given ∧ some tag = k.shadow.epoch then k.gen + 1 else tag) pip)
             | r => r })) ∧
      t = { s with cores := t.cores } ∧ ∀ q, q ≠ s.cur.core → t.core q = s.core q)

/-- R266, R271 to R274, R276: the streaming instructions issue one row step for each of their rows, tagged with the current
generation, and count one in `mx`; `mzero` issues one zero row for each of its rows. Nothing else changes. That a row's
activations are captured at its issue, and performed by a later step, is the model's (DESIGN CHOICE, log 39); so is that an
`mmab` whose rows hold no byte has none outside its region (DEDUCED, log 40). -/
def Obligations.MatrixRowsIssue : Prop :=
  ∀ (s : State) (d a b c e : BitVec 5) (con : BitVec 1) (fs : BitVec 2) (ha h : BitVec 6), s.me.txa = false → s.me.mx < 65535 →
    let k := s.core s.cur.core
    let me := s.me
    let hd := k.handle h
    let row0 := (s.G a).toNat % 2 ^ 32
    let sigma : BitVec 8 := (s.G a).extractLsb' 32 8
    let at_ (r : Nat) := 64 * hd.offb.toNat + 256 * (row0 + r)
    let ready (n : Nat) : Prop := namesBuf s h .c ∧ (n = 0 ∨ 256 * (row0 + n) ≤ 64 * hd.sizeb.toNat) ∧
      hd.st ≠ .filling ∧ hd.st ≠ .draining
    let met (code : BitVec 4) : Prop := k.owner = some me.tenant ∧
      ∃ p w, (if k.front.epoch = some k.gen then p = k.front else k.shadow.epoch = some k.gen ∧ p = k.shadow) ∧
        p.weights = some w ∧ w.fmt = code
    let issues (i : Instr) (n : Nat) (con : Bool) (js : List MxJob) : Prop :=
      exec i s = .next ((if con then s.onCore s.cur.core (fun k => k.setHandle ha (afterRead true (k.handle ha))) else s).onMe
        (fun c => { c with
          mxJobs := c.mxJobs ++ js, mx := if js = [] then c.mx else c.mx + 1
          resumed := if n = 8 then none else c.resumed
          pc := s.pc + BitVec.ofNat 64 n, waiting := false }))
    let rows (code : BitVec 4) : List MxJob := (List.range me.gf).map (fun r =>
      .row [h] (at_ r) ((List.range me.vl.toNat).map (fun x => some (me.el me.ew (b.toNat + r) x))) code sigma k.gen
        (decide (r + 1 = me.gf)))
    (∀ p ∈ [(Instr.mmavL6 a b h, 8, 8#4), (.mmavI8 a b h, 8, 0#4), (.mmavBf16 a b h, 16, 0xA#4)], me.ew = p.2.1 →
      me.group b = true → me.vl.toNat ≤ 4096 / me.ew → ready me.gf → met p.2.2 → issues p.1 4 false (rows p.2.2)) ∧
    (let n := (s.G b).toNat
     ready n → issues (.mzero a b h) 4 false ((List.range n).map (fun r => .zero [h] (at_ r) (decide (r + 1 = n))))) ∧
    (let n := (s.G b).toNat
     let hA := k.handle ha
     let kact := (s.G e).toNat % 2 ^ 10
     let stride := (s.G e).toNat / 2 ^ 32 % 2 ^ 16
     let base := (s.G d).toNat
     let m : BitVec 3 := c.truncate 3
     let bytes := if fs = 1 then 3 * ((kact + 3) / 4) else if fs = 3 then 2 * kact else kact
     let x (r o : Nat) := leNat (k.bufBytes .a (64 * hA.offb.toNat + base + r * stride + o) 1)
     let code : BitVec 4 := if fs.toNat < 2 then 8 else if fs = 2 then 0 else 0xA
     let entry (r p : Nat) : Nat :=
       if fs = 1 then (x r (3 * (p / 4)) + 256 * x r (3 * (p / 4) + 1) + 65536 * x r (3 * (p / 4) + 2)) / 2 ^ (6 * (p % 4)) % 64
       else if fs = 3 then x r (2 * p) + 256 * x r (2 * p + 1) else x r p
     me.maskOk m = true → me.resumed = none → s.inParts = false → (fs = 3 → base % 2 = 0 ∧ stride % 2 = 0) →
     namesBuf s ha .a → kact ≤ (if fs = 3 then 256 else 512) →
     (n = 0 ∨ bytes = 0 ∨ base + (n - 1) * stride + bytes ≤ 64 * hA.sizeb.toNat) → ready n → 0 < n →
     canRead (con == 1) hA → met code → k.badA = [] →
     issues (.mmab d a b c e con fs ha h) 8 (con == 1) ((List.range n).map (fun r =>
       .row [ha, h] (at_ r) ((List.range kact).map (fun p => if me.active m p then some (entry r p) else none)) code sigma k.gen
         (decide (r + 1 = n)))))

/-- A number that the array forms (R139): a finite one with the sign that a zero has, an infinity with its sign, or a NaN. -/
inductive Sys2Proof.Number where
  | fin (x : ℚ) (minus : Bool)
  | inf (minus : Bool)
  | nan

/-- The number that an encoding of a format holds (R131). -/
def Sys2Proof.numberOf (f : Fmt) (x : Nat) : Number :=
  let minus : Bool := x / 2 ^ (f.eb + f.mb) % 2 == 1
  match exactValue f x with
  | some v => .fin v minus
  | none => if x % 2 ^ f.mb = 0 then .inf minus else .nan

/-- The exact product of two numbers, with unbounded exponent range (R139, R140). -/
def Sys2Proof.Number.times : Number → Number → Number
  | .fin x p, .fin y q => .fin (x * y) (p != q)
  | .inf p, .inf q => .inf (p != q)
  | .inf p, .fin y q | .fin y q, .inf p => if y = 0 then .nan else .inf (p != q)
  | _, _ => .nan

/-- r is the FP32 encoding of the sum of two numbers rounded once to nearest-even (R138 to R140). -/
def Sys2Proof.SumsTo (a b : Number) (r : Nat) : Prop :=
  match a, b with
  | .fin x p, .fin y q => (x + y ≠ 0 → ∃ fl, RoundsTo fp32 0 (x + y : ℚ) (r, fl)) ∧
      (x + y = 0 → r = if p && q then 0x80000000 else 0)
  | .inf p, .inf q => r = if p = q then (if p then 0xFF800000 else 0x7F800000) else 0x7FC00000
  | .inf p, .fin .. | .fin .., .inf p => r = if p then 0xFF800000 else 0x7F800000
  | _, _ => r = 0x7FC00000

/-- r is node j of level n of the pairwise tree over some leaves, absent ones among them (R139). -/
def Sys2Proof.TreeSum (leaf : Nat → Option Number) : Nat → Nat → Option Number → Prop
  | 0, j, r => r = leaf j
  | n + 1, j, r => ∃ x y, TreeSum leaf n (2 * j) x ∧ TreeSum leaf n (2 * j + 1) y ∧
      match x, y with
      | none, y => r = y
      | x, none => r = x
      | some a, some b => ∃ z, SumsTo a b z ∧ r = some (numberOf fp32 z)

/-- The product of two L6 codes, neither of them NaR, by the sum of their log indices (R136). -/
def Sys2Proof.productL6 (a w : Nat) : ℚ :=
  if a % 32 = 0 ∨ w % 32 = 0 then 0
  else (if a / 32 % 2 = w / 32 % 2 then 1 else -1) *
    quarterValue ((((a % 32 : ℕ) : Int) - 16) + (((w % 32 : ℕ) : Int) - 16))

/-- R136 to R140, R271, R276: a row step updates each of the 64 C entries of its row with the weights of the plane that carries
its tag. A column with no active position keeps its entry bit for bit. Of L6 and INT8, the exact sum of the products of the active
positions, scaled by Q of the column's and the stream's scale, is added and rounded once to nearest-even; an L6 NaR at an active
position, and a NaN in C, give the default NaN. Of BF16, the exact products are summed by the pairwise tree with one rounding at each
node, and the root is added to C. Nothing else changes: no flag of `fcsr`. A zero row clears its entries. Each is one step of the
array, and the last of an instruction takes one from `mx`. -/
def Obligations.RowSteps : Prop :=
  ∀ (s : State) (core : BitVec 6) (cx : Cx) (j : MxJob) (js : List MxJob),
    let u : Tid := ⟨core, cx⟩
    (s.ctx u).mxJobs = j :: js →
    (∀ (hs : List (BitVec 6)) (off : Nat) (l : Bool), j = .zero hs off l →
      exec (.rowStep core cx) s = .next ((s.onCore core (fun k => k.putBuf .c off (List.replicate 256 0))).onCtx u
        (fun c => { c with mxJobs := js, mx := if l then c.mx - 1 else c.mx }))) ∧
    (∀ (hs : List (BitVec 6)) (off : Nat) (acts : List (Option Nat)) (code : BitVec 4) (sa : BitVec 8) (tag : BitVec 16) (l : Bool) (p : Plane)
      (w : Weights), j = .row hs off acts code sa tag l →
      (cx = .n → ∀ q qs, (s.ctx ⟨core, .u⟩).mxJobs = q :: qs → q.isRow = false) →
      (s.core core).planeOf tag = some p → p.weights = some w →
      let old (n : Nat) := leNat ((s.core core).bufBytes .c (off + 4 * n) 4)
      let before (n : Nat) : Number := numberOf fp32 (old n)
      let on (n : Nat) : List (Option (Nat × Nat)) :=
        List.zipWith (fun x r => x.map (fun x => (x, r.getD n 0))) acts w.rows
      let scale (n : Nat) : Int := (w.ws.getD n 0).toInt + sa.toInt
      let sum (n : Nat) (f : Nat → Nat → ℚ) : ℚ := ((on n).map (fun o => o.elim 0 (fun p => f p.1 p.2))).sum
      let i8 (x : Nat) : ℚ := if x % 256 < 128 then ((x % 256 : ℕ) : ℚ) else ((x % 256 : ℕ) : ℚ) - 256
      let adds (n : Nat) (e : ℚ) (r : Nat) : Prop := SumsTo (before n) (.fin e (decide (e < 0))) r
      ∃ new : Nat → Nat, exec (.rowStep core cx) s = .next ((s.onCore core (fun k =>
          k.putBuf .c off ((List.range 64).flatMap (fun n => leBytes 4 (new n))))).onCtx u
        (fun c => { c with mxJobs := js, mx := if l then c.mx - 1 else c.mx })) ∧
      ∀ n < 64, ((∀ o ∈ on n, o = none) → new n = old n) ∧ ((∃ p, some p ∈ on n) →
        (w.fmt = 8 → ((∃ p, some p ∈ on n ∧ (p.1 % 64 = 0x20 ∨ p.2 % 64 = 0x20)) → new n = 0x7FC00000) ∧
          ((∀ p, some p ∈ on n → p.1 % 64 ≠ 0x20 ∧ p.2 % 64 ≠ 0x20) →
            adds n (sum n productL6 * quarterValue (scale n)) (new n))) ∧
        (w.fmt = 0 → adds n (sum n (fun x y => i8 x * i8 y) * quarterValue (scale n)) (new n)) ∧
        (w.fmt = 0xA → acts.length ≤ 512 → ∃ root, SumsTo (before n) root (new n) ∧
          TreeSum (fun p => ((on n).getD p none).map (fun o => (numberOf bf16 o.1).times (numberOf bf16 o.2))) 9 0 (some root))))

/-- R278: `vouter` adds the outer product of two registers to a group, element by element, with one rounding each. -/
def Obligations.VectorOuterProduct : Prop :=
  ∀ (s : State) (d a b : BitVec 5), s.me.txa = false → s.inParts = false → s.me.resumed = none →
    let c := s.me
    let per := 4096 / c.ew
    let f := if c.ew = 16 then bf16 else fp32
    let apart (r : BitVec 5) : Prop := r.toNat < d.toNat ∨ d.toNat + c.gf ≤ r.toNat
    let r (i j : Nat) := f.fma c.rm (c.el c.ew a.toNat i) (c.el c.ew b.toNat j) (c.el c.ew (d.toNat + j) i)
    let on (i : Nat) : Bool := decide (c.vstart.toNat ≤ i) && decide (i < c.vl.toNat)
    (c.ew = 16 ∨ c.ew = 32) → c.group d = true → apart a → apart b → c.vl.toNat ≤ per → c.gf ≤ per →
    ∃ t, exec (.vouter d a b) s = .next t ∧ VecWent s t 4 ∧ t.me.m = c.m ∧
      (∀ j < c.gf, ∀ i < per, t.me.el c.ew (d.toNat + j) i = if on i then (r i j).1 else c.el c.ew (d.toNat + j) i) ∧
      (∀ q < 32, q < d.toNat ∨ d.toNat + c.gf ≤ q → t.me.vreg q = c.vreg q) ∧
      (∀ q < 32, t.me.fillOf q = if d.toNat ≤ q ∧ q < d.toNat + c.gf then c.vl.toNat * (c.ew / 8) else c.fillOf q) ∧
      ∀ x, t.me.fcsr.getLsbD x = true ↔ c.fcsr.getLsbD x = true ∨
        ∃ i j, on i = true ∧ j < c.gf ∧ ((r i j).2 ++ 0#2 : BitVec 7).getLsbD x = true

/-- R268, R269: `ldsl` reads a tile, latches it where the routing mask selects its expert, puts it on the ring and says in
G(d) whether it latched; `ldsl.r` takes the tile at the head of its ring stop the same way and passes it on. A ring tile
arrives at the next core, or is dropped at its source, whose `mx` then falls if the tile still counts; one that has stood for
100,000 ticks with no matching receive moves on with a RING notice. That an `ldsl` whose mask does not select its tile takes the
planes all the same, and that the ticks of a tile count from when it reaches the head, is the model's (DEDUCED, log 40). -/
def Obligations.ExpertRing : Prop :=
  ∀ (s : State) (d a b c e f : BitVec 5) (tag : BitVec 8) (con : BitVec 1) (h core : BitVec 6) (t : RingTile) (at_ : Nat)
    (r : List (RingTile × Nat)) (o : List RingTile),
    let m : BitVec 3 := c.truncate 3
    let hit (x : BitVec 9) : Bool := m == 0 || (s.me.M m).getLsbD x.toNat
    let flag (b : Bool) : Word := if b then 1 else 0
    let restamp (r : List (RingTile × Nat)) : List (RingTile × Nat) := match r with | [] => [] | (t, _) :: r => (t, s.clock.toNat) :: r
    (s.me.txa = false → planesFree s → s.me.mx < 65535 →
      let k := (owned s).core s.cur.core
      let hd := k.handle h
      let o := (s.G a).toNat
      let kw := (s.G b).toNat
      let x : BitVec 9 := (s.G e).truncate 9
      o % 64 = 0 → namesBuf s h .w → 1 ≤ kw → kw ≤ (if f = 0xA then 256 else 512) →
      o + 64 + kw * (if f = 9 then 48 else if f = 0xA then 128 else 64) ≤ 64 * hd.sizeb.toNat → canRead (con == 1) hd →
      (hit x = true → shadowFree k) → k.badW = [] →
      ∃ w, isTile w f kw (fun x => leNat (k.bufBytes .w (64 * hd.offb.toNat + o + x) 1)) ∧
        exec (.ldsl d a b c e f tag con h) s = .next (((owned s).onCore s.cur.core (fun k =>
          { k.setHandle h (afterRead (con == 1) hd) with
            shadow := if hit x then ⟨some w, none⟩ else k.shadow
            ringOut := k.ringOut ++ [⟨w, x, tag, s.cur.cx, s.me.tenant, s.cur.core, true⟩] })).onMe (fun c =>
          { c.setG d (flag (hit x)) with mx := c.mx + 1, pc := s.pc + 8, waiting := false }))) ∧
    (s.me.txa = false → (s.core s.cur.core).ring = (t, at_) :: r →
      ((t.tag, t.cx, t.tenant) ≠ (tag, s.cur.cx, s.me.tenant) → exec (.ldslR d c tag) s = waitsOnPlanes s true (some tag)) ∧
      ((t.tag, t.cx, t.tenant) = (tag, s.cur.cx, s.me.tenant) →
        (hit t.x = true → planesFree s ∧ shadowFree ((owned s).core s.cur.core)) →
        exec (.ldslR d c tag) s = .next (((if hit t.x then owned s else s).onCore s.cur.core (fun k =>
          { k with shadow := if hit t.x then ⟨some t.tile, none⟩ else k.shadow, ringOut := k.ringOut ++ [t],
                   ring := restamp r })).onMe (fun c =>
          { c.setG d (flag (hit t.x)) with pc := s.pc + 8, waiting := false })))) ∧
    (s.me.txa = false → (s.core s.cur.core).ring = [] → exec (.ldslR d c tag) s = waitsOnPlanes s true (some tag)) ∧
    (∀ p : BitVec 6, p.toNat = core.toNat / 16 * 16 + (core.toNat + 15) % 16 → (s.core p).ringOut = t :: o →
      let left := s.onCore p (fun k => { k with ringOut := o })
      (t.src = core → exec (.ringTileArrival core) s = .next (if t.counts then
        left.onCtx ⟨core, t.cx⟩ (fun c => { c with mx := c.mx - 1 }) else left)) ∧
      (t.src ≠ core → (s.core core).ring.length < 2 →
        exec (.ringTileArrival core) s = .next (left.onCore core (fun k => { k with ring := k.ring ++ [(t, s.clock.toNat)] })))) ∧
    ((s.core core).ring = (t, at_) :: r → at_ + 100000 ≤ s.clock.toNat → (s.core core).received t = false →
      s.noticeWaits t.src = none →
      exec (.ringTimeout core) s = .next ((s.onCore core (fun k =>
        { k with ringOut := k.ringOut ++ [t], ring := restamp r })).notify t.src ⟨9, t.cx == .u, t.src.toNat, t.tenant,
          t.tag.zeroExtend 64, t.x.zeroExtend 64, t.src.zeroExtend 64, []⟩))

/-- A factor tile of order n at offset o of a handle's region may be worked on at once (R279, R280). -/
def Sys2Proof.tileReady (s : State) (ga : Word) (h : BitVec 6) (n o : Nat) : Prop :=
  let hd := (s.core s.cur.core).handle h
  n = ga.toNat / 2 ^ 32 % 2 ^ 9 ∧ o = ga.toNat % 2 ^ 19 ∧ o % 4 = 0 ∧ ga.toNat / 2 ^ 19 % 2 ^ 13 = 0 ∧ ga.toNat / 2 ^ 41 = 0 ∧
  1 ≤ n ∧ n ≤ 256 ∧ namesBuf s h .c ∧ o + 4 * n * n ≤ 64 * hd.sizeb.toNat ∧ hd.st ≠ .filling ∧ hd.st ≠ .draining ∧
  s.me.mxJobs = [] ∧ s.me.txa = false

/-- Entry (i, j) of a factor tile, at or above the diagonal (R279). -/
def Sys2Proof.tileEntry (s : State) (h : BitVec 6) (n o i j : Nat) : Nat :=
  let hd := (s.core s.cur.core).handle h
  leNat ((s.core s.cur.core).bufBytes .c (64 * hd.offb.toNat + o + 4 * (n * i + j)) 4)

/-- From s to t a factor tile has the entries f at and above its diagonal; every other byte of the buffers is as before, and
of the moving thread's context g says what has changed. -/
def Sys2Proof.tileWent (s t : State) (h : BitVec 6) (n o : Nat) (f : Nat → Nat → Nat) (g : Ctx → Ctx) : Prop :=
  let hd := (s.core s.cur.core).handle h
  t.me = { g s.me with pc := s.pc + 4, waiting := false } ∧ t = { s with cores := t.cores } ∧
  (∀ q, q ≠ s.cur.core → t.core q = s.core q) ∧
  (let k := t.core s.cur.core
   k = { s.core s.cur.core with ctxN := k.ctxN, ctxU := k.ctxU, bufC := k.bufC, badC := k.badC }) ∧
  (∀ u, u ≠ s.cur → t.ctx u = s.ctx u) ∧
  (∀ i j, i ≤ j → j < n → tileEntry t h n o i j = f i j % 2 ^ 32) ∧
  ∀ x, (∀ i j, i ≤ j → j < n → ¬(64 * hd.offb.toNat + o + 4 * (n * i + j) ≤ x ∧ x < 64 * hd.offb.toNat + o + 4 * (n * i + j) + 4)) →
    (t.core s.cur.core).bufBytes .c x 1 = (s.core s.cur.core).bufBytes .c x 1

/-- Step k of an update, or of a downdate, of a tile with entries F (R284, R285) can be performed, and gives row k of N and row
k + 1 of W, the copies of x. -/
def Sys2Proof.FactorStep (down : Bool) (n k : Nat) (F N W : Nat → Nat → Nat) : Prop :=
  let fine (x : Nat) : Prop := x % 2 ^ 31 < 0x7F800000
  let neg (x : Nat) : Nat := if x < 2 ^ 31 then x + 2 ^ 31 else x - 2 ^ 31
  let mul (x y : Nat) := (fp32.mul 0 x y).1
  let fma (x y z : Nat) := (fp32.fma 0 x y z).1
  let r := F k k
  let w := W k k
  let t := fma r r (if down then neg (mul w w) else mul w w)
  let ρ := (fp32.sqrt 0 t).1
  let c := (fp32.div 0 r ρ).1
  let σ := (fp32.div 0 w ρ).1
  if w % 2 ^ 31 = 0 then ∀ j, N k j = F k j ∧ W (k + 1) j = W k j
  else 0 < r ∧ r < 0x7F800000 ∧ fine t ∧ (down = true → 0 < t ∧ t < 2 ^ 31) ∧ fine ρ ∧ ρ % 2 ^ 31 ≠ 0 ∧ fine c ∧ fine σ ∧
    N k k = ρ ∧ ∀ j, k < j → j < n →
      N k j = fma c (F k j) (if down then neg (mul σ (W k j)) else mul σ (W k j)) ∧
      W (k + 1) j = fma c (W k j) (neg (mul σ (F k j))) ∧ fine (N k j) ∧ fine (W (k + 1) j)

/-- R279 to R285: `finit`, `fscale`, `fupd` and `fdnd` leave in the tile the entries that their steps give, with one rounding
to FP32 each. N and W are the rows and the copy of x that the steps of R284 compute. -/
def Obligations.FactorTileUpdates : Prop :=
  ∀ (s : State) (d a b : BitVec 5) (h : BitVec 6) (n o : Nat), tileReady s (s.G a) h n o →
    Memory.wf zeroByte (s.core s.cur.core).bufC = true →
    let F (i j : Nat) := tileEntry s h n o i j
    let v := (s.G b).toNat % 2 ^ 32
    let fine (x : Nat) : Prop := x % 2 ^ 31 < 0x7F800000
    let mul (x y : Nat) := (fp32.mul 0 x y).1
    (0 < v → v < 0x7F800000 → ∃ t, exec (.finit a b h) s = .next t ∧ tileWent s t h n o (fun i j => if i = j then v else 0) id) ∧
    (0 < v → v < 0x7F800000 → (∀ i j, i ≤ j → j < n → mul (F i j) v % 2 ^ 31 ≠ 0x7F800000) →
      (∀ i < n, mul (F i i) v % 2 ^ 31 ≠ 0) →
      ∃ t, exec (.fscale a b h) s = .next t ∧ tileWent s t h n o (fun i j => mul (F i j) v) id) ∧
    (∀ (down : Bool) (N W : Nat → Nat → Nat), s.me.ew = 32 → s.me.group b = true → n ≤ s.me.vlmax →
      (∀ j < n, W 0 j = s.me.el 32 b.toNat j ∧ fine (W 0 j)) →
      (∀ k < n, FactorStep down n k F N W) →
      ∃ t, exec (if down then .fdnd a b h else .fupd a b h) s = .next t ∧ tileWent s t h n o N id ∧
        (down = true → ∃ u, exec (.fdndS d a b h) s = .next u ∧ tileWent s u h n o N (·.setG d 0)))

/-- R286, R287: `fsolt` and `fsoln` leave in group d the vector that back substitution gives, with one rounding to FP32 for
each operation; `fdiag` writes the diagonal. The group's fill becomes n elements, and the tile is as before. -/
def Obligations.FactorSolves : Prop :=
  ∀ (s : State) (d a : BitVec 5) (h : BitVec 6) (n o : Nat) (y : Nat → Nat), tileReady s (s.G a) h n o →
    s.me.ew = 32 → s.me.group d = true → n ≤ s.me.vlmax →
    let F (i j : Nat) := tileEntry s h n o i j
    let z (i : Nat) := s.me.el 32 d.toNat i
    let fine (x : Nat) : Prop := x % 2 ^ 31 < 0x7F800000
    let neg (x : Nat) : Nat := if x < 2 ^ 31 then x + 2 ^ 31 else x - 2 ^ 31
    let fma (x y z : Nat) := (fp32.fma 0 x y z).1
    let wrote (i : Instr) (x : Nat → Nat) : Prop := ∃ t, exec i s = .next t ∧ t = s.setCtx s.cur t.me ∧
      t.me = { s.me with v := t.me.v, fill := t.me.fill, pc := s.pc + 4, waiting := false } ∧
      GroupWrote s t d (fun k => decide (k < n)) x ∧ GroupFilled s t d n
    wrote (.fdiag d a h) (fun i => F i i) ∧
    ((∀ i < n, F i i % 2 ^ 31 ≠ 0 ∧ fine (y i) ∧
        y i = (fp32.div 0 ((List.range i).foldl (fun x m => fma (neg (F m i)) (y m) x) (z i)) (F i i)).1) →
      wrote (.fsolt d a h) y) ∧
    ((∀ i < n, F i i % 2 ^ 31 ≠ 0 ∧ fine (y i) ∧
        y i = (fp32.div 0 ((List.range' (i + 1) (n - 1 - i)).reverse.foldl (fun x m => fma (neg (F i m)) (y m) x) (z i)) (F i i)).1) →
      wrote (.fsoln d a h) y)

/-- R282 to R286, R288: an instruction that fails traps FINDEF or FNUM with the value in tval and the step in a kind 5
record, resuming at the next instruction, with no other effect; `fdnd.s` goes on instead, with the failure in G(d). The failure
reported is the first one: of the check on x; of a step's diagonal, sum (not above zero in a downdate), root, quotients and new
entries, at any step whose earlier steps could be performed; of a scaled tile's entries row by row; of a solve's diagonal, then of
its results. -/
def Obligations.FactorFailures : Prop :=
  ∀ (s : State) (d a b : BitVec 5) (h : BitVec 6) (n o : Nat), tileReady s (s.G a) h n o → s.txs = [] →
    let v := (s.G b).toNat % 2 ^ 32
    let fail (cause val step : Nat) : Host.Outcome State Fault Refusal := .next (s.takeTrap s.cur
      ⟨cause, BitVec.ofNat 64 val, s.pc, s.pc + 4, true, false, 5, padTo 64 (leBytes 4 step), []⟩)
    let vec : Prop := s.me.ew = 32 ∧ s.me.group b = true ∧ n ≤ s.me.vlmax
    let x (i : Nat) := s.me.el 32 b.toNat i
    let F (i j : Nat) := tileEntry s h n o i j
    let fine (x : Nat) : Prop := x % 2 ^ 31 < 0x7F800000
    let neg (x : Nat) : Nat := if x < 2 ^ 31 then x + 2 ^ 31 else x - 2 ^ 31
    let mul (x y : Nat) := (fp32.mul 0 x y).1
    let fma (x y z : Nat) := (fp32.fma 0 x y z).1
    ((v = 0 ∨ 0x7F800000 ≤ v) → exec (.finit a b h) s = fail 12 v 0 ∧ exec (.fscale a b h) s = fail 12 v 0) ∧
    (∀ i j, 0 < v → v < 0x7F800000 → i ≤ j → j < n →
      let bad (i j : Nat) : Prop := mul (F i j) v % 2 ^ 31 = 0x7F800000 ∨ (i = j ∧ mul (F i j) v % 2 ^ 31 = 0)
      bad i j → (∀ p q, p ≤ q → q < n → (p < i ∨ (p = i ∧ q < j)) → ¬bad p q) →
      exec (.fscale a b h) s = fail 12 (mul (F i j) v) i) ∧
    (vec → ∀ i < n, 0x7F800000 ≤ x i % 2 ^ 31 → (∀ j < i, x j % 2 ^ 31 < 0x7F800000) →
      exec (.fupd a b h) s = fail 12 (x i) i ∧ exec (.fdnd a b h) s = fail 12 (x i) i ∧
      exec (.fdndS d a b h) s = wroteG s d (BitVec.ofNat 64 (2 * 2 ^ 32 + i))) ∧
    (∀ (down : Bool) (N W : Nat → Nat → Nat) (k : Nat), vec → (∀ i < n, fine (x i) ∧ W 0 i = x i) → k < n →
      (∀ i < k, FactorStep down n i F N W) → W k k % 2 ^ 31 ≠ 0 →
      let fails (cause val : Nat) : Prop := exec (if down then .fdnd a b h else .fupd a b h) s = fail cause val k ∧
        (down = true → exec (.fdndS d a b h) s = wroteG s d (BitVec.ofNat 64 ((if cause = 11 then 1 else 2) * 2 ^ 32 + k)))
      let r := F k k
      let w := W k k
      let t := fma r r (if down then neg (mul w w) else mul w w)
      let ρ := (fp32.sqrt 0 t).1
      let c := (fp32.div 0 r ρ).1
      let σ := (fp32.div 0 w ρ).1
      let sound : Prop := 0 < r ∧ r < 0x7F800000
      let above : Prop := down = true → 0 < t ∧ t ≤ 0x7F800000
      let newF (j : Nat) := fma c (F k j) (if down then neg (mul σ (W k j)) else mul σ (W k j))
      let newW (j : Nat) := fma c (W k j) (neg (mul σ (F k j)))
      (¬sound → fails 11 r) ∧
      (sound → ¬above → fails 11 t) ∧
      (sound → above → ¬fine t → fails 12 t) ∧
      (sound → above → fine t → (¬fine ρ ∨ ρ % 2 ^ 31 = 0) → fails 12 ρ) ∧
      (sound → above → fine t → fine ρ → ρ % 2 ^ 31 ≠ 0 →
        (¬fine c → fails 12 c) ∧ (fine c → ¬fine σ → fails 12 σ) ∧
        ∀ j, k < j → j < n → fine c → fine σ → (∀ i, k < i → i < j → fine (newF i) ∧ fine (newW i)) →
          (¬fine (newF j) → fails 12 (newF j)) ∧ (fine (newF j) → ¬fine (newW j) → fails 12 (newW j)))) ∧
    (s.me.ew = 32 → s.me.group d = true → n ≤ s.me.vlmax →
      (∀ i < n, F i i % 2 ^ 31 = 0 → (∀ j < i, F j j % 2 ^ 31 ≠ 0) →
        exec (.fsolt d a h) s = fail 11 (F i i) i ∧ exec (.fsoln d a h) s = fail 11 (F i i) i) ∧
      ∀ (y : Nat → Nat) (i : Nat), i < n → (∀ j < n, F j j % 2 ^ 31 ≠ 0) → ¬fine (y i) →
        let z (i : Nat) := s.me.el 32 d.toNat i
        (let is (i : Nat) : Prop :=
           y i = (fp32.div 0 ((List.range i).foldl (fun x m => fma (neg (F m i)) (y m) x) (z i)) (F i i)).1
         is i → (∀ j < i, is j ∧ fine (y j)) → exec (.fsolt d a h) s = fail 12 (y i) i) ∧
        (let is (i : Nat) : Prop := y i =
           (fp32.div 0 ((List.range' (i + 1) (n - 1 - i)).reverse.foldl (fun x m => fma (neg (F i m)) (y m) x) (z i)) (F i i)).1
         is i → (∀ j, i < j → j < n → is j ∧ fine (y j)) → exec (.fsoln d a h) s = fail 12 (y i) i))

/-! ### Transfers, handles, sync words and pip fills (R296 to R320) -/

/-- R297, R298, R306, R310, R313 to R318: what each transfer-unit instruction does when it need not wait: a transfer is queued
with its operands and counted in `cp`, its handle moves to FILLING or DRAINING, handles and sync words are read and written
as the rules say. That `hstat` of a handle that names no region for the thread writes 0 in every field is the model's reading of
R316, which says only BUF 0 (DEDUCED, log 41). -/
def Obligations.TransferInstructions : Prop :=
  ∀ (s : State) (d a b c e : BitVec 5) (sc : BitVec 2) (h : BitVec 6), s.me.txa = false →
    let k := s.core s.cur.core
    let hd := k.handle h
    let names : Prop := hd.buf ≠ none ∧ hd.ten = s.me.tenant
    let cnt := (s.G b).toNat % 2 ^ 32
    let off := (s.G b).toNat / 2 ^ 32
    let far (x : Word) : Prop := regionOf x = none ∨ regionOf x = some .remote
    let syncOk (x : Word) : Prop := x = 0 ∨ (x.toNat % 8 = 0 ∧ regionOf x = some .remote)
    let free : Prop := s.regionBusy s.cur h = false ∧ s.me.xfers.length < 64
    let still : Prop := hd.st ≠ .filling ∧ hd.st ≠ .draining
    let withHandle (x : Handle) : State := s.onCore s.cur.core (fun k => k.setHandle h x)
    let queued (s : State) (n : Nat) (x : Xfer) : Host.Outcome State Fault Refusal := .next (s.onMe (fun c =>
      { c with xfers := c.xfers ++ [{ x with id := s.me.freshId, order := s.me.issued }], issued := c.issued + 1, cp := c.cp + 1
               pc := s.pc + BitVec.ofNat 64 n, waiting := false }))
    (names → off + cnt ≤ 64 * hd.sizeb.toNat → far (s.G a) →
      ((hd.st = .free ∨ hd.st = .spent) → free → exec (.copy d a b h) s =
        queued (withHandle { hd with st := .filling, left := hd.st }) 4 { Xfer.blank .copy s.pc with
          handle := some h, pips := (s.G d).truncate 16, src := s.G a, count := cnt, off := off }) ∧
      (¬(hd.st = .free ∨ hd.st = .spent) → exec (.copy d a b h) s = waits s)) ∧
    (∀ p ∈ [(Instr.drain d a b h, XferOp.drain), (.drainR d a b h, .drainR)],
      names → off + cnt ≤ 64 * hd.sizeb.toNat → far (s.G a) → syncOk (s.G d) →
      (still → free → exec p.1 s = queued (withHandle { hd with st := .draining, left := hd.st }) 4
        { Xfer.blank p.2 s.pc with handle := some h, dst := s.G a, count := cnt, off := off, sync := s.G d }) ∧
      (¬still → exec p.1 s = waits s)) ∧
    (far (s.G a) → far (s.G b) → syncOk (s.G e) → s.me.xfers.length < 64 →
      exec (.copyl a b c e sc) s = queued (s.onMe (ordered s sc)) 8 { Xfer.blank .copyl s.pc with
        sc := sc, dst := s.G a, src := s.G b, count := (s.G c).toNat % 2 ^ 40, sync := s.G e }) ∧
    (names → still → exec (.hwait d h) s = wroteG s d (match hd.st with | .full => 2 | .spent => 4 | _ => 0)) ∧
    (names → ¬still → exec (.hwait d h) s = waits s ∧ exec (.hrel d h) s = waits s ∧ exec (.hrelP b h) s = waits s) ∧
    exec (.hstat d h) s = wroteG s d (if hd.buf = none ∨ hd.ten ≠ s.me.tenant then 0 else BitVec.ofNat 64
      ((if hd.unl then 0 else hd.pips.toNat) * 2 ^ 48 + (match hd.buf with | some .w => 1 | some .a => 2 | some .c => 3 | none => 0) * 2 ^ 43
        + (match hd.st with | .free => 0 | .filling => 1 | .full => 2 | .draining => 3 | .spent => 4) * 2 ^ 40
        + (if hd.unl then 2 ^ 39 else 0) + hd.offb.toNat * 2 ^ 24 + hd.sizeb.toNat * 2 ^ 9)) ∧
    (names → still →
      let n := if hd.st = .full ∧ hd.unl = false then hd.pips.toNat else 0
      let gone := withHandle { hd with st := .free, pips := 0, unl := false }
      let after (c : Ctx) : Ctx := let k := c.setG d (BitVec.ofNat 64 n); if n = 0 then k else { k with status := k.status ||| 2#5 }
      ((n = 0 ∨ s.me.pue = false) → exec (.hrel d h) s = wentOn gone after) ∧
      (n ≠ 0 → s.me.pue = true → s.txs = [] → exec (.hrel d h) s = .next ((gone.onMe after).takeTrap s.cur
        ⟨10, BitVec.ofNat 64 n, s.pc, s.pc + 4, true, false, 0, [], []⟩))) ∧
    (names → (hd.st = .free ∨ hd.st = .spent) → s.regionBusy s.cur h = false →
      let p : BitVec 16 := (s.G b).truncate 16
      exec (.hrelP b h) s = wentOn (withHandle { hd with st := .full, pips := p, unl := p == 0 }) id) ∧
    (∀ (n : Fin 8) (o : Nat), (s.G a).toNat % 8 = 0 → regionOf (s.G a) = some .tile → s.me.tilePlace (s.G a) = some (n, o) →
      s.me.dataWaits n o 8 = false →
      let w := leNat (s.tileBytes s.cur n o 8)
      exec (.sinit d a b) s = .next ((s.onTile s.cur n (fun k =>
          k.put o (leBytes 8 (w / 2 ^ 56 * 2 ^ 56 + (s.G b).toNat % 2 ^ 28)))).onMe (fun c =>
        { c.setG d (BitVec.ofNat 64 w) with pc := s.pc + 4, waiting := false })) ∧
      (if w / 2 ^ 56 ≠ (s.G b).toNat % 2 ^ 8 ∨ w % 2 ^ 28 < w / 2 ^ 28 % 2 ^ 28
        then exec (.swait d a b) s = wroteG s d (BitVec.ofNat 64 w) else exec (.swait d a b) s = waits s))

/-- R301, R303, R304, R319, R320: `pfill` reserves each of its lines as pending with its pips for its group, takes it from
every L1, opens the group and queues the fill. A line that does not translate for writing, is homed on a host, or is pending or
live pipped already (PAGE or PERM), or that the quota rule refuses (PIPFULL), stops it there with a kind 6 record, resuming at the
next instruction: the lines below stay pending and have their own fill. `pclose` closes a group none of whose fills is under way,
counts the lines it closes into G(d), and sets PUR, and then traps PIPUNDER when PUE is set, if there are any. What memory held before
the reservation is kept for a drop of the line (DEDUCED, log 19). -/
def Obligations.PipFillsAndClosings : Prop :=
  ∀ (s : State) (d a b : BitVec 5) (g : BitVec 4), s.me.txa = false → DirSorted s →
    let ga := s.G a
    let gd := (s.G d).toNat
    let pips := gd % 2 ^ 8
    let cnt := gd / 2 ^ 12 % 2 ^ 16
    let grp (c : Ctx) (g : BitVec 4) : PipGroup := c.groups[g.toNat]'(g.isLt)
    (ga.toNat % 128 = 0 → (pips = 0 ∨ cnt = 0) → exec (.pfill d a b) s = wentOn s id) ∧
    (∀ l : Nat → Nat, ga.toNat % 128 = 0 → pips ≠ 0 → cnt ≠ 0 → s.txs = [] → s.me.xfers.length < 64 →
      (regionOf (s.G b) = none ∨ regionOf (s.G b) = some .remote) →
      let va (i : Nat) : Word := ga + BitVec.ofNat 64 (128 * i)
      let walks (i : Nat) : Prop := ∀ m ∈ s.walkLines s.me.tenant (va i), LineFree s m
      let leaf (i : Nat) (host : Bool) : Prop :=
        ∃ f, s.translate s.me.tenant (va i) .write = .ok f ∧ lineOf f.pa = l i ∧ foreign f.pa = host
      let fresh (i : Nat) : Prop := s.pipped (l i) = false ∧ ∀ j < i, l j ≠ l i
      let before (i : Nat) : Nat := (List.range i).countP (fun j => homeCore (l j * 128) == homeCore (l i * 128))
      let room (i : Nat) : Prop := s.pipsAt s.cur (homeCore (l i * 128)) + before i < s.me.quota.toNat ∧
        s.pinnedAt (homeCore (l i * 128)) + before i < 8192
      let good (i : Nat) : Prop := regionOf (va i) = none ∧ walks i ∧ leaf i false ∧ fresh i ∧ LineFree s (l i) ∧ room i
      let reserved (t : State) (n : Nat) : Prop := t.mem = s.mem ∧ (grp t.me (BitVec.ofNat 4 (gd / 2 ^ 8))).isOpen = true ∧
        (0 < n → t.me.xfers = s.me.xfers ++ [{ Xfer.blank .fill s.pc with
          id := s.me.freshId, order := s.me.issued, dst := ga, src := s.G b, count := 128 * n, pips := BitVec.ofNat 16 pips,
          group := BitVec.ofNat 4 (gd / 2 ^ 8), lines := (List.range n).map l }] ∧ t.me.cp = s.me.cp + 1) ∧
        (n = 0 → t.me.xfers = s.me.xfers ∧ t.me.cp = s.me.cp) ∧
        ∀ i < n, (t.dirOf (l i)).st = .pipped ∧ (t.dirOf (l i)).pending = true ∧ (t.dirOf (l i)).pips = BitVec.ofNat 8 pips ∧
          (t.dirOf (l i)).saved = s.bytes (128 * l i) 128 ∧ (∀ q, (t.core q).hasLine (l i) = false)
      ((∀ i < cnt, good i) → ∃ t, exec (.pfill d a b) s = .next t ∧ t.pc = s.pc + 4 ∧ reserved t cnt) ∧
      ∀ n < cnt, (∀ i < n, good i) →
        let stops (cause : Nat) : Prop := ∃ t, reserved t n ∧ t.pc = s.pc ∧ exec (.pfill d a b) s =
          .next (t.takeTrap s.cur ⟨cause, va n, s.pc, s.pc + 4, true, false, 6,
            padTo 64 (leBytes 4 n ++ leBytes 4 0 ++ leBytes 8 ga.toNat ++ leBytes 8 (s.G b).toNat ++ leBytes 8 gd), []⟩)
        ((regionOf (va n)).isSome = true → stops 4) ∧
        (regionOf (va n) = none → walks n →
          (∀ e, s.translate s.me.tenant (va n) .write = .error e → stops e.num) ∧
          (leaf n true → stops 4) ∧
          (leaf n false → ¬fresh n → stops 4) ∧
          (leaf n false → fresh n → LineFree s (l n) → ¬room n → stops 9))) ∧
    (s.me.fillsGroup g = true → exec (.pclose d g) s = waits s) ∧
    (s.me.fillsGroup g = false →
      let n := if (grp s.me g).isOpen then (s.groupLines s.cur g).length + (grp s.me g).flipped else 0
      let closed (t : State) : Prop := t.G d = (if d = 0 then 0 else BitVec.ofNat 64 n) ∧
        (n ≠ 0 → t.me.status = s.me.status ||| 2#5) ∧
        ((grp s.me g).isOpen = true → (grp t.me g).isOpen = false ∧
          (∀ p ∈ s.groupLines s.cur g, Tbl.find t.dir p.1 = none ∧
            (p.2.pending = false → t.bytes (128 * p.1) 128 = s.bytes (128 * p.1) 128)))
      ((n = 0 ∨ s.me.pue = false) → ∃ t, exec (.pclose d g) s = .next t ∧ t.pc = s.pc + 4 ∧ closed t) ∧
      (n ≠ 0 → s.me.pue = true → s.txs = [] → ∃ t, closed t ∧ t.pc = s.pc ∧ exec (.pclose d g) s = .next (t.takeTrap s.cur
        ⟨10, BitVec.ofNat 64 n, s.pc, s.pc + 4, true, false, 0, [], []⟩)))

/-! ### Launches and queues (R10 to R41) -/

/-- R15 to R18: a launch that reaches a final state keeps it in its slot with its queues empty, or, with AUTOFREE, leaves the slot free
under the next generation; every HELD launch of its job that its successor list names is counted down once for each time it is
named; no other launch changes. -/
def Sys2Proof.Finalized (s t : State) (k : Nat) (l : Launch) (x : LaunchState) : Prop :=
  (l.flags.getLsbD 0 = true → t.launchAt k = none ∧ (t.slot k).gen = (s.slot k).gen + 1) ∧
  (l.flags.getLsbD 0 = false → ∃ m, t.launchAt k = some m ∧ m.state = x ∧ m.retired = l.retired ∧ m.stages = l.stages ∧
    (t.slot k).gen = (s.slot k).gen ∧ ∀ y ∈ m.queues, y.chip = [] ∧ y.waiting = [] ∧ y.spilled = 0 ∧ y.reserved = 0 ∧ y.heldStores = []) ∧
  ∀ j h, j ≠ k → s.launchAt j = some h →
    let named := (l.succ.filter (fun i => decide (i.toNat % 1024 = j ∧ i.toNat / 1024 = (s.slot j).gen.toNat))).length
    t.launchAt j = some (if h.state = .held ∧ h.job = l.job then { h with waitcnt := h.waitcnt - named } else h)

/-- R20, R21, R30, R32 to R41: `launch` accepts a readable record into the lowest free slot; `qpush` adds an entry, waits on a
blocked queue, traps STREAM on a CLOSED one, or is discarded by a cancel; `qpop` takes the reserved or the head entry, or reports
why there is none; `retire` and `yield` end the instance: its pip groups are closed, its context is free, its stage has one instance
fewer, its launch one retired more, and an entry it reserved is consumed; `qclose` makes the queue CLOSED; `cancel` and `cwait` act on
the launches an identifier names: a cancel makes a HELD one CANCELLED, and empties the queues of a RUNNING one and sets `cancel` and
`yreq` in its instances; a queue
port shows its queue's status, closes it, and takes 16-byte entries, counting one store in `st` while back-pressure holds it. A queue outside `outmask` and an instruction outside an
instance trap PERM, the latter with a tval that is a free value (DESIGN CHOICE, log 4). The model's own: with PUE set, an instance
that ends with a residue of its pip groups ends first and then traps PIPUNDER (DEDUCED, log 25); a push waits while an older entry
has still to be spilled (DEDUCED, log 13); a push to a CLOSED queue of a cancelled launch is discarded, and a later cancel starts the
100,000 ticks again (DESIGN CHOICE, log 62); the successor list is the one read when the launch was accepted (DESIGN CHOICE, log 14). -/
def Obligations.WorkQueueInstructions : Prop :=
  ∀ (s : State) (d a b q : BitVec 5) (lv : BitVec 2), s.me.txa = false →
    let ga := s.G a
    let idle : Prop := s.me.ld = 0 ∧ s.me.st = 0 ∧ s.me.cp = 0 ∧ s.me.mx = 0 ∧ s.me.fx = 0
    let left := (s.closeAllGroups s.cur).2
    let retires (i : Instr) : Prop :=
      (idle → (left = 0 ∨ s.me.pue = false) → exec i s = .next ((s.closeGroups s.cur).endInstance s.cur)) ∧
      (idle → left ≠ 0 → s.me.pue = true → let t := ((s.closeGroups s.cur).endInstance s.cur).onMe (fun c => { c with run := .running })
        exec i s = .next (t.raise t.cur ⟨10, BitVec.ofNat 64 left, s.pc, s.pc + 4, true, false, 0, [], []⟩)) ∧
      (¬idle → exec i s = waits s)
    let popped (s : State) (lo hi : Word) (st : Word) : Host.Outcome State Fault Refusal :=
      wentOn s (fun c => ((c.setG d lo).setG a hi).setG b st)
    (ga.toNat % 128 = 0 →
      ((∀ n < 1024, s.launchAt n ≠ none) → exec (.launch d a) s = wroteG s d (BitVec.allOnes 64)) ∧
      (∀ n r s0 s1 sc, n < 1024 → s.launchAt n = none → (∀ m < n, s.launchAt m ≠ none) →
        s.readRecord (some s.cur) s.me.tenant ga = .done (s0, r) → s0.readSucc (some s.cur) s.me.tenant r.head = .done (s1, sc) →
        (s1.recordFault s.me.tenant ga r = none ∨ s1.noticeWaits (dieOf s.cur.core ++ 0#4) = none) →
        let t := s1.acceptLaunch n ga s.me.tenant (dieOf s.cur.core) r sc
        exec (.launch d a) s = wroteG t d (BitVec.ofNat 64 ((s.slot n).gen.toNat * 2 ^ 10 + n)) ∧
        (s1.recordFault s.me.tenant ga r = none → ∃ L, t.launchAt n = some L ∧ L.state = .held ∧ L.record = ga ∧
          L.tenant = s.me.tenant ∧ L.die = dieOf s.cur.core ∧ L.stages.length = Min.min r.stages.length r.binds.length))) ∧
    (∀ i l st, s.me.inst = some i → s.launchAt i.slot.toNat = some l → l.stages[i.stage]? = some st →
      let n := i.slot.toNat
      (st.outmask.getLsbD q.toNat = false → ∀ j ∈ [Instr.qpush a b q, .qclose q],
        exec j s = .next (s.raise s.cur (trapAt s 4 (q.zeroExtend 64) false))) ∧
      (∀ x, st.outmask.getLsbD q.toNat = true → l.queue q.toNat = some x →
        let stays : Prop := s.me.pushWait = false ∨ s.me.cancel = false
        let held (t : State) : Host.Outcome State Fault Refusal := waits (t.onMe (fun c => { c with pushWait := true }))
        (¬stays → retires (.qpush a b q)) ∧
        (stays → l.cancelling = true → exec (.qpush a b q) s = wentOn s id) ∧
        (stays → l.cancelling = false → x.closed = true → x.faulted = false →
          exec (.qpush a b q) s = .next (s.raise s.cur (trapAt s 15 (q.zeroExtend 64) false))) ∧
        (stays → l.cancelling = false → (x.closed = false ∨ x.faulted = true) → x.blocked = true →
          (s.me.cancel = false → exec (.qpush a b q) s = held s) ∧ (s.me.cancel = true → retires (.qpush a b q))) ∧
        (∀ s1, stays → l.cancelling = false → x.closed = false → x.blocked = false → s.qfullWaits n q.toNat = some s1 →
          exec (.qpush a b q) s = held (s.holdFrom s1)) ∧
        (stays → l.cancelling = false → x.closed = false → x.blocked = false → s.qfullWaits n q.toNat = none → exec (.qpush a b q) s =
          wentOn (s.putQueue n q.toNat (if x.spilled = 0 ∧ x.chip.length + x.reserved < x.onchip
            then { x with chip := x.chip ++ [s.G b ++ s.G a] } else { x with waiting := x.waiting ++ [s.G b ++ s.G a] })) id) ∧
        exec (.qclose q) s = wentOn (s.closeQueue n q.toNat) id ∧
        ∀ m, (s.closeQueue n q.toNat).launchAt n = some m → m.state.isFinal = false → m.queue q.toNat = some { x with closed := true }) ∧
      (i.gen = (s.slot n).gen → l.state = .running → l.cancelling = false → 2 ≤ st.running → let t := s.endInstance s.cur
        t.me.run = .free ∧ t.me.inst = none ∧ (∀ u, u ≠ s.cur → (t.ctx u).run = (s.ctx u).run ∧ (t.ctx u).inst = (s.ctx u).inst) ∧
        ∃ m, t.launchAt n = some m ∧ m.state = .running ∧ m.retired = l.retired + 1 ∧
          m.stages[i.stage]? = some { st with running := st.running - 1 } ∧
          (∀ k z, k ≠ i.stage → l.stages[k]? = some z → m.stages[k]? = some z) ∧
          ∀ x, l.queue st.inq = some x → (i.reserved.isSome = true → 1 ≤ x.reserved) →
            ∃ y, m.queue st.inq = some y ∧ y.held + (if i.reserved.isSome then 1 else 0) = x.held) ∧
      (∀ x, l.queue st.inq = some x → i.robbed = false →
        (∀ e, i.reserved = some e →
          let t := ((s.onMe (fun c => { c with inst := some { i with reserved := none } })).putQueue n st.inq
            { x with reserved := x.reserved - 1 }.refill).settleLaunch n
          exec (.qpop d a b) s = popped t (e.truncate 64) (e.extractLsb' 64 64) 1 ∧
          exec (.qpopNw d a b) s = popped t (e.truncate 64) (e.extractLsb' 64 64) 1) ∧
        (∀ e es y, i.reserved = none →
          (x.chip = e :: es ∧ y = { x with chip := es } ∨
            x.chip = [] ∧ x.spilled = 0 ∧ x.waiting = e :: es ∧ y = { x with waiting := es }) →
          let t := (s.putQueue n st.inq y.refill).settleLaunch n
          exec (.qpop d a b) s = popped t (e.truncate 64) (e.extractLsb' 64 64) 1 ∧
          exec (.qpopNw d a b) s = popped t (e.truncate 64) (e.extractLsb' 64 64) 1) ∧
        (i.reserved = none → x.chip = [] → (x.waiting = [] ∨ x.spilled ≠ 0) →
          (s.me.cancel = true → exec (.qpopNw d a b) s = popped s 0 0 2) ∧
          (x.drained = true → exec (.qpop d a b) s = popped s 0 0 0 ∧
            (s.me.cancel = false → exec (.qpopNw d a b) s = popped s 0 0 0)) ∧
          (x.drained = false → s.me.cancel = false → exec (.qpop d a b) s = waits s ∧
            (x.spilled = 0 → exec (.qpopNw d a b) s = popped s 0 0 2) ∧ (x.spilled ≠ 0 → exec (.qpopNw d a b) s = waits s)) ∧
          (x.drained = false → s.me.cancel = true → retires (.qpop d a b)))) ∧
      (i.robbed = true → retires (.qpop d a b)) ∧
      retires .retire ∧
      ((s.me.yreq || s.me.cancel) = true → retires .yield) ∧
      ((s.me.yreq || s.me.cancel) = false → exec .yield s = wentOn s id)) ∧
    (s.me.inst = none → s.txs = [] → ∀ j ∈ [Instr.qpush a b q, .qpop d a b, .qpopNw d a b, .qclose q, .retire, .yield], ∃ v,
      exec j s = .next ({ s with freeCtr := s.freeCtr + 1 }.takeTrap s.cur (trapAt s 4 v false))) ∧
    (let t := s.closeGroups s.cur
     (∀ g : Fin 16, (t.me.groups[g]).isOpen = false) ∧ t.me.status = (if left = 0 then s.me.status else s.me.status ||| 2#5) ∧
     (DirSorted s → left = ((List.finRange 16).map (fun k => if (s.me.groups[k]).isOpen
       then (s.groupLines s.cur (BitVec.ofNat 4 k.val)).length + (s.me.groups[k]).flipped else 0)).sum)) ∧
    (∀ k l x, s.launchAt k = some l → Finalized s (s.finalize k x) k l x) ∧
    (∀ k l, s.launchAt k = some l → let t : State := s.cancelLaunch k;
      (l.state.isFinal = true → t = s) ∧ (l.state = .held → Finalized s t k l .cancelled) ∧
      (l.state = .running →
        (∀ u, let c := s.ctx u
          let e := t.ctx u
          (u ∈ s.instances k → e.cancel = true ∧ e.yreq = true ∧ e.inst = c.inst.map (fun i => { i with
            robbed := i.robbed || i.reserved.isSome, reserved := none, cancelAt := some s.clock.toNat })) ∧
          (u ∉ s.instances k → e.cancel = c.cancel ∧ e.yreq = c.yreq ∧ e.inst = c.inst)) ∧
        ((∃ st ∈ l.stages, st.running ≠ 0) → ∃ m, t.launchAt k = some m ∧ m.state = .running ∧ m.cancelling = true ∧
          m.stages = l.stages ∧ m.queues = l.queues.map (fun y => { y with
            chip := [], waiting := [], spilled := 0, reserved := 0, heldStores := [] })) ∧
        ((∀ st ∈ l.stages, st.running = 0) → l.flags.getLsbD 0 = false → ∃ m, t.launchAt k = some m ∧ m.state = .cancelled))) ∧
    (∀ k, k ∈ s.openLaunches lv ga ↔ ∃ z l, (k, z) ∈ s.slots ∧ z.launch = some l ∧ l.state.isFinal = false ∧
      (lv = 0 → (s.named ga).isSome = true ∧ k = ga.toNat % 1024) ∧
      (lv ≠ 0 → l.job.toNat = ga.toNat / 2 ^ 56) ∧
      (lv = 1 ∨ lv = 2 → l.phase.toNat = ga.toNat / 2 ^ 40 % 2 ^ 16) ∧ (lv = 1 → l.graph.toNat = ga.toNat / 2 ^ 24 % 2 ^ 16)) ∧
    (s.foreignObject lv ga s.me.tenant = true → ∀ i ∈ [Instr.cancel d a lv, .cwait d a lv, .cwaitNw d a lv], s.txs = [] →
      exec i s = .next (s.takeTrap s.cur (trapAt s 4 ga false))) ∧
    (s.foreignObject lv ga s.me.tenant = false →
      let w := s.levelStatus lv ga
      let code := w.toNat % 8
      let freed : State := if lv = 0 ∧ 1 ≤ code ∧ code ≤ 3 then s.freeSlot (ga.toNat % 1024) else s
      exec (.cancel d a lv) s = wroteG ((s.openLaunches lv ga).foldl State.cancelLaunch s) d w ∧
      (code = 0 → exec (.cwait d a lv) s = waits s) ∧
      (code ≠ 0 → exec (.cwait d a lv) s = wroteG freed d w) ∧
      exec (.cwaitNw d a lv) s = wroteG freed d w ∧
      (lv = 0 → ∀ l, s.launchAt (ga.toNat % 1024) = some l → (s.slot (ga.toNat % 1024)).gen.toNat = ga.toNat / 2 ^ 10 % 2 ^ 22 →
        w = BitVec.ofNat 64 (l.retired.toNat * 2 ^ 32 +
          match l.state with | .held => 0 | .running => 0 | .complete => 1 | .cancelled => 2 | .faulted => 3))) ∧
    (∀ (i : BitVec 13) (l : Launch) (x : Queue),
      let va := ga + i.signExtend 64
      let o := va.toNat % 2 ^ 40
      let slot := o / 0x10000
      let qn := o / 0x800 % 32
      regionOf va = some .queue → o < 0x4000000 → s.launchAt slot = some l → l.tenant = s.me.tenant → l.queue qn = some x →
      l.state.isFinal = false →
      (va.toNat % 8 = 0 → exec (.ld d a 6 i) s = wroteG s d (if o % 0x800 = 0x7F0 then BitVec.ofNat 64
        ((if x.faulted then 3 else if x.closed && x.chip.isEmpty && x.waiting.isEmpty && x.spilled == 0 && x.reserved == 0 then 2
          else if x.closed then 1 else 0) * 2 ^ 60 + x.dropped.toNat * 2 ^ 32 +
          Min.min (x.chip.length + x.waiting.length + x.spilled + x.reserved) (2 ^ 32 - 1)) else 0)) ∧
      (va.toNat % 8 = 0 → o % 0x800 = 0x7F0 → s.G d = 1 →
        exec (.st d a 6 i) s = wentOn (s.closeQueue slot qn) id) ∧
      (i = 0 → va.toNat % 16 = 0 → s.me.group d = true → s.me.vstart = 0 → s.me.vl.toNat * (s.me.ew / 8) = 16 →
        o % 0x800 + 16 ≤ 0x7F0 → s.me.st < 65535 →
        let t := s.portEntry (.thread s.cur) slot qn (BitVec.ofNat 128 (leNat ((List.range s.me.vl.toNat).flatMap
          (fun k => leBytes (s.me.ew / 8) (s.me.el s.me.ew d.toNat k)))))
        exec (.vst d a 0 0) s = .next (t.onMe (fun c => { c with
          st := if t.holdsStore (.thread s.cur) then c.st + 1 else c.st
          vstart := 0, resumed := none, pc := s.pc + 4, waiting := false }))))

/-! ### The board (R183 to R258) -/

/-- n bytes at a virtual address of a tenant lie from pa upward, and the transfer unit may reach them at once (R308). -/
def Sys2Proof.Lies (s : State) (ten : BitVec 5) (va : Word) (n : Nat) (k : Need) (pa : Nat) : Prop :=
  regionOf va = none ∧ (∀ m ∈ s.walkLines ten va, LineFree s m) ∧ (∃ l, s.translate ten va k = .ok l ∧ l.pa = pa) ∧ BytesFree s pa n ∧
  (k = .read → s.poisoned pa n = false)

/-- R228, R231 to R235, R250 to R258: `fx`, `fxl`, `fxload`, `fxdrop`, `fxsave` and `fxrest` wait while an invocation of the context
runs; otherwise they load, save, restore and drop positions, and start an invocation of a bound slot whose image is resident,
counted in `fx`, with the input groups as they stand at issue. `fxdrop` empties pieces, skid buffers, output registers and FIFO tiles,
and keeps BUF contents and the position; after `fxsave`, which writes the image of R249, no position is resident, and after `fxrest`
the image's is, with its held invocation. What R249 leaves to the stepping is the model's (DESIGN CHOICE, log 8). `fxbind`, `fxunbind` and `fxstat` bind and unbind slots and report a
slot's state at any time, a running invocation included: that they do not wait is the model's reading of R235 and R256 (DEDUCED,
log 37). A read of the entry word that meets a fault traps as step 4 of R234 states (DEDUCED, log 38). -/
def Obligations.BoardInstructions : Prop :=
  ∀ (s : State) (d a b c e f : BitVec 5) (m : BitVec 3) (slot en : BitVec 4), s.me.txa = false →
    let me := s.me
    let ga := s.G a
    let runs : Prop := ∃ v, me.inv = some v ∧ v.held = false
    let held : Prop := ∃ v, me.inv = some v ∧ v.held = true
    let bound := me.slots[slot.toNat]'(slot.isLt)
    let fx : List (Instr × Nat × List (Option (BitVec 5))) :=
      [(.fx slot d a b m, 4, [some a, some b, none, some d, none, none]),
       (.fxl d a b c e f m slot, 8, [some a, some b, some c, some d, some e, some f])]
    (ga.toNat % 128 = 0 → exec (.fxbind a en slot) s = wentOn s (fun c =>
      { c with slots := c.slots.set slot.toNat (some ⟨ga, en⟩) slot.isLt })) ∧
    exec (.fxunbind slot) s = wentOn s (fun c => { c with slots := c.slots.set slot.toNat none slot.isLt }) ∧
    exec (.fxstat d slot) s = wroteG s d (BitVec.ofNat 64 (me.lchk.toNat % 256 * 2 ^ 32
      + (bound.elim 0 (fun b => b.entry.toNat)) * 2 ^ 24
      + (match me.board, me.inv with
          | none, _ => 0
          | some _, some v => if v.held then 4 else 3
          | some p, none => if p.coming = [] then 2 else 1) * 2 ^ 16
      + (match bound, me.board with | some b, some p => if p.addr = b.image then 2 else 0 | _, _ => 0)
      + if bound.isSome then 1 else 0)) ∧
    (runs → ∀ i ∈ [Instr.fx slot d a b m, .fxl d a b c e f m slot, .fxload d a, .fxdrop, .fxsave a, .fxrest a],
      exec i s = waits s) ∧
    (¬runs →
      (¬held → exec .fxdrop s = wentOn s id) ∧
      (held → let keep := me.xfers.filter (fun x => !x.declined)
        ∃ t, exec .fxdrop s = .next t ∧ t = s.setCtx s.cur t.me ∧ t.me = { me with
          inv := none
          board := me.board.map (fun p => { p with
            pieces := p.image.pieces.map (fun r =>
              (r.num, ⟨Vector.replicate 4 ⟨[], false⟩, Vector.replicate 2 ⟨none, false⟩, .plain, false⟩))
            tiles := p.tiles.map (fun z => { z with fifo := [], inp := ⟨[], false⟩, out := ⟨none, false⟩ }) })
          xfers := keep.map (fun x => { x with xreq := false }), cp := me.cp - (me.xfers.length - keep.length)
          pc := s.pc + 4, waiting := false }) ∧
      (ga.toNat % 128 = 0 → held → exec (.fxload d a) s = wroteG s d 14) ∧
      (∀ s1 code, ga.toNat % 128 = 0 → ¬held → s.loadPosition s.cur ga = .done (s1, code) →
        exec (.fxload d a) s = wroteG s1 d (BitVec.ofNat 64 code) ∧
        (code = 0 → ∃ p, s1.me.board = some p ∧ p.addr = ga ∧ p.arrived = 0) ∧
        (code ≠ 0 → s1.me.board = me.board ∧ s1.me.lchk = BitVec.ofNat 16 code)) ∧
      (∀ s1, ga.toNat % 128 = 0 → (∀ x ∈ me.xfers, x.xreq = true → x.declined = true) → s.saveBoard s.cur ga = .done s1 →
        exec (.fxsave a) s = wentOn (s1.onMe (fun c => let keep := c.xfers.filter (fun x => !x.declined)
          { c with xfers := keep, cp := c.cp - (c.xfers.length - keep.length) })) id ∧ s1.me.board = none ∧ s1.me.inv = none ∧
        ∃ s2, s.imageWrite me.tenant (me.saveImage.length / 128 + 2) ga me.saveImage = .done s2 ∧ s1.mem = s2.mem) ∧
      (∀ pa, me.board = none → ga.toNat % 128 = 0 → Lies s me.tenant ga 128 .write pa → Memory.wf memDefault s.mem = true →
        ∃ s1, s.saveBoard s.cur ga = .done s1 ∧ Stored s s1 pa me.saveImage) ∧
      (let bs := me.saveImage
       let f (o n : Nat) := numAt bs o n
       f 0 4 = 0x53564C4D ∧ f 4 2 = 1 ∧ f 7 1 = 1 ∧
       (me.board = none → bs.length = 128 ∧ f 6 1 = 0 ∧ f 8 8 = 0 ∧ f 0x14 4 = 128 ∧ f 0x18 104 = 0) ∧
       (∀ p, me.board = some p → f 8 8 = p.addr.toNat ∧ f 0x10 4 = p.image.crc.toNat ∧ f 0x14 4 = bs.length ∧
         bs.length = 0xB080 + p.image.savedTiles.length * 131136 ∧ f 6 1 = (if me.inv.isSome then 1 else 0) ∧
         (∀ v, me.inv = some v → v.fields.length = 6 → f 0x18 1 = v.slot.toNat ∧ f 0x19 1 = v.entry.toNat ∧
           f 0x20 8 = v.vtype.toNat ∧ f 0x2E 1 = v.mreg.toNat ∧
           (∀ j g, v.fields[j]? = some g → f (0x28 + j) 1 = (match g with | some g => g.toNat | none => 0xFF)) ∧
           ∀ q, v.cut = some q → bytesAt bs 0x40 64 = progressRecord p v q) ∧
         (∀ n q, n < 44 → Tbl.find p.pieces n = some q → (∀ j : Fin 4, q.ins[j].skid.length ≤ 2) → let o := 0x80 + 0x400 * n
           (∀ (j : Fin 4) (k : Nat) (x : Tok), q.ins[j].skid[k]? = some x → f (o + 8 * j.val + 4 * k) 4 = x.toNat) ∧
           f (o + 0x20) 1 = q.ins[0].skid.length + 4 * q.ins[1].skid.length + 16 * q.ins[2].skid.length + 64 * q.ins[3].skid.length ∧
           f (o + 0x21) 1 = (if q.outs[0].reg.isSome then 1 else 0) + (if q.outs[1].reg.isSome then 2 else 0) ∧
           (∀ (j : Fin 2) (x : Tok), q.outs[j].reg = some x → f (o + 0x24 + 4 * j.val) 4 = x.toNat)) ∧
         ∀ (i : Nat) (n : Fin 8), p.image.savedTiles[i]? = some n → let o := 0xB080 + 131136 * i
           f o 1 = n.val ∧ f (o + 1) 1 = p.image.role n.val ∧
           (p.image.role n.val = 1 → f (o + 2) 62 = 0 ∧
             bytesAt bs (o + 64) 131072 = Memory.readBytes zeroByte (p.tile n).mem 0 131072) ∧
           (p.image.role n.val = 2 → (p.image.srtOf n.val).isNone → (p.tile n).fifo.length ≤ 32768 →
             f (o + 4) 4 = 0 ∧ f (o + 8) 4 = (p.tile n).fifo.length ∧
             ∀ (k : Nat) (x : Tok), (p.tile n).fifo[k]? = some x → f (o + 64 + 4 * k) 4 = x.toNat))) ∧
      (∀ s1 code, ga.toNat % 128 = 0 → ¬held → s.restoreBoard s.cur ga false = .done (s1, code) →
        (code = 0 → exec (.fxrest a) s = wentOn s1 id ∧ ∀ s0 h, s.imageBytes me.tenant ga 128 = .done (s0, h) →
          (numAt h 8 8 = 0 → s1.me.board = none ∧ s1.me.inv = none) ∧
          (numAt h 8 8 ≠ 0 → ∃ (p : Position) (s2 s3 : State) (bs : List Byte), s1.me.board = some p ∧ p.addr = BitVec.ofNat 64 (numAt h 8 8) ∧
            p.image.crc.toNat = numAt h 0x10 4 ∧ s2.mem = s.mem ∧ s2.imageBytes me.tenant ga (numAt h 0x14 4) = .done (s3, bs) ∧
            (numAt bs 6 1 = 0 → s1.me.inv = none) ∧
            (numAt bs 6 1 = 1 → ∃ v, s1.me.inv = some v ∧ v.held = true ∧ v.slot.toNat = numAt bs 0x18 1 % 16 ∧
              v.entry.toNat = numAt bs 0x19 1 % 16 ∧ v.vtype.toNat = numAt bs 0x20 8 % 16 ∧ v.mreg.toNat = numAt bs 0x2E 1 % 8 ∧
              v.fields = (List.range 6).map (fun j =>
                if numAt bs (0x28 + j) 1 < 32 then some (BitVec.ofNat 5 (numAt bs (0x28 + j) 1)) else none)))) ∧
        (code ≠ 0 → exec (.fxrest a) s = .next (s1.raise s1.cur (trapAt s1 15 (BitVec.ofNat 64 (0x10000 + code)) false)))) ∧
      (∀ x ∈ fx, me.vstart = 0 → me.maskOk m = true → ¬held →
        (bound = none → exec x.1 s = .next (s.raise s.cur (trapAt s 15 (BitVec.ofNat 64 (0x400 + slot.toNat)) false))) ∧
        (∀ (b : Binding) (k : Cause) (va : Word), bound = some b → (∀ p, me.board = some p → p.addr ≠ b.image) →
          s.imageBytes me.tenant (b.image + BitVec.ofNat 64 (0x40 + 4 * b.entry.toNat)) 4 = .fault k va →
          ∃ res, exec x.1 s = .next (s.raise s.cur (trapAt s k.num va res))) ∧
        (∀ (b : Binding) (p : Position) (w : BitVec 32), bound = some b → me.board = some p → p.addr = b.image → 8 ≤ p.arrived →
          w = p.image.entries.getD b.entry.toNat 0 →
          (w.getLsbD 31 = true → ∀ j < 6, ∀ g, boundReg w x.2.2 j = some g → g.toNat % me.gf = 0) →
          (w.getLsbD 31 = false → exec x.1 s = .next (s.raise s.cur (trapAt s 15 (BitVec.ofNat 64 (0x400 + slot.toNat)) false))) ∧
          (w.getLsbD 31 = true → p.image.fieldsBad w x.2.2 = false → me.countsBad p.image w x.2.2 = none →
            ∃ (q : Position) (v : Invocation), q.addr = p.addr ∧ q.image = p.image ∧ v.slot = slot ∧ v.entry = b.entry ∧
              v.fields = x.2.2 ∧ v.mask = me.M m ∧ v.vtype = me.vtype ∧ v.held = false ∧ v.cut = none ∧ v.flags = 0 ∧
              (∀ (j : Fin 4) (g : BitVec 5), boundReg w x.2.2 j.val = some g →
                v.ins[j].group = (List.range me.gf).map (fun k => me.vreg (g.toNat + k))) ∧
              exec x.1 s = .next (s.onMe (fun c => { c with
                board := some q, inv := some v, fx := c.fx + 1, pc := s.pc + BitVec.ofNat 64 x.2.1, waiting := false }))))))

/-- What a firing of a piece leaves: the inputs consumed, the tokens written by output, the piece's new state, its flags. -/
def Sys2Proof.firing (take : List Nat) (outs : List (Nat × Tok)) (k : KindState) (fl : FpFlags := 0) : Fired :=
  ⟨take, outs, k, false, fl, none, false⟩

/-- The element index of loop level k of a nest of counts at access el (R211). -/
def Sys2Proof.loopIndex (counts : List Nat) (el k : Nat) : Nat := el / (counts.drop (k + 1)).prod % counts.getD k 1

/-- R190 to R193, R198, R200 to R209, R211, R215: in a fabric cycle a token leaves an output register exactly when every
destination is ready, and enters the skid buffers of all of them, last; an output whose end is raised ends its destinations' inputs; a
FIFO tile takes a token while its depth allows and gives the oldest to a free output. A lockstep piece fires exactly when every bound
input has a head and every output room, consumes one token of each, and writes the value of its kind; uneven ends trap STREAM
0x0200 + n; once its inputs have ended and nothing is held it finishes. MRG merges, SRT sorts stably, TBL looks up and probes, XREQ
gathers packets of four, and an AGEN issues its accesses at the addresses of its loop nest or index. That cycles are steps of their own
is the model's (DEDUCED, log 31), and so is that an exclusive SCN raises the flags of an addition that it never writes (DESIGN CHOICE,
log 62). -/
def Obligations.BoardFirings : Prop :=
  (∀ (b b0 : Board) (rs : List (OutId × InId)) (o : OutId) (t : Tok),
    let ds := destsOf rs o
    let depth (n : Fin 8) : Nat := (b0.pos.image.tiles[n.val]?.elim 0 TileRec.depth)
    (b0.departs rs o = true ↔ (b0.outp o).reg.isSome = true ∧ ∀ i ∈ ds, b0.pos.armed i = true ∧ (b0.inp i).skid.length ≤ 1 ∧
      (∀ n, i = .tile n → (b0.pos.tile n).fifo.length < depth n) ∧ (i = .svc → b0.inv.svc.outstanding < 4)) ∧
    (b0.hasRoom rs o = true ↔ (b0.outp o).reg = none ∨ b0.departs rs o = true) ∧
    ((b0.outp o).reg = some t → ds.Nodup →
      (∀ i ∈ ds, match i with | .piece n j => j < 4 ∧ (Tbl.find b.pos.pieces n).isSome = true | _ => True) →
      ∀ i ∈ ds, ((b.depart b0 rs [o]).inp i) = { b.inp i with skid := (b.inp i).skid ++ [t] }) ∧
    (∀ gone : OutId → Bool, o ∈ b.pos.image.outputs → (b0.outp o).ended = true → ∀ i ∈ ds, b0.pos.armed i = true →
      (match i with | .piece n j => j < 4 ∧ (Tbl.find b.pos.pieces n).isSome = true | _ => True) →
      ((b.ends b0 rs gone).inp i).ended = true)) ∧
  (∀ (c : Cyc) (b0 : Board) (rs : List (OutId × InId)) (n : Fin 8), b0.pos.image.role n.val = 2 → b0.pos.armed (.tile n) = true →
    c.brd = b0 →
    let q := (b0.pos.tile n).fifo ++ (if (b0.pos.tile n).fifo.length < b0.pos.image.tiles[n.val]?.elim 0 TileRec.depth
      then (b0.pos.tile n).inp.skid.take 1 else [])
    (b0.hasRoom rs (.tile n) = true → ∀ x xs, q = x :: xs →
      ((c.fifo b0 rs n).brd.pos.tile n).fifo = xs ∧ (c.fifo b0 rs n).news = c.news ++ [(.tile n, x)]) ∧
    ((b0.hasRoom rs (.tile n) = false ∨ q = []) →
      ((c.fifo b0 rs n).brd.pos.tile n).fifo = q ∧ (c.fifo b0 rs n).news = c.news)) ∧
  (∀ (c : Cyc) (b0 : Board) (rs : List (OutId × InId)) (waits : Nat → Bool) (r : PieceRec) (p : Piece),
    Tbl.find b0.pos.pieces r.num = some p → p.finished = false → b0.pos.armed (.piece r.num 0) = true → b0.inv.cut = none →
    kindOf r.num ∉ [.agen, .tbl, .xreq] →
    let f := stepPlain r (b0.pos.image.srtCap r) p.kind (b0.viewOf rs r)
    c.piece b0 rs waits r = c.fire r f ∧ (c.fire r f).brd.inv.flags = c.brd.inv.flags ||| f.flags ∧
    (c.fire r f).news = c.news ++ f.outs.map (fun x => (.piece r.num x.1, x.2)) ∧
    ((Tbl.find c.brd.pos.pieces r.num).isSome = true → ∃ q, Tbl.find (c.fire r f).brd.pos.pieces r.num = some q ∧
      q.kind = f.kind ∧ (f.finished = true → q.finished = true)) ∧
    (∀ code, f.stop = some code → c.stop = none → (c.fire r f).stop = some code)) ∧
  (∀ (r : PieceRec) (cap : Nat) (v : View),
    let n := r.num
    let h (j : Nat) : Tok := (v.head j).getD 0
    let roomy := v.room.all id = true
    let val (w hi lo : Nat) : Nat := r.pf w hi lo
    let key (ord : Nat) (x : Tok) : Int := if ord = 0 then x.toNat else if ord = 1 then x.toInt
      else if x.getLsbD 31 then (x ^^^ 0xFFFFFFFF#32).toNat else (x ^^^ 0x80000000#32).toNat
    -- the lockstep kinds
    (∀ k : KindState, (kindOf n ∈ [.map, .cmp, .sel] ∧ k = .plain) ∨ (kindOf n = .unq ∧ ∃ run, k = .unq run) ∨
        (kindOf n ∈ [.scn, .red] ∧ ∃ g, k = .seg g) ∨ (kindOf n = .exp ∧ ∃ m, k = .exp m) →
      let bs := r.boundIns
      let even : Prop := ∀ i ∈ bs, ∀ j ∈ bs, v.done i = true → v.head j = none
      let fires : Prop := bs ≠ [] ∧ (∀ j ∈ bs, (v.head j).isSome = true) ∧ roomy ∧ even
      let does (k' : KindState) (outs : List (Nat × Tok)) (fl : FpFlags) : Prop := stepPlain r cap k v = firing bs outs k' fl
      (¬even → stepPlain r cap k v = { Fired.idle k with stop := some (0x200 + n) }) ∧
      (even → (∀ j ∈ bs, v.done j = true) →
        (k = .plain ∨ k = .unq none ∨ (kindOf n = .unq ∧ val 0 0 0 = 0) ∨ kindOf n ∈ [.scn, .exp] ∨ k = .seg ⟨0, none⟩) →
        stepPlain r cap k v = { Fired.idle k with finished := true }) ∧
      (even → (∃ j ∈ bs, v.done j = false) → (¬roomy ∨ ∃ j ∈ bs, v.head j = none) → stepPlain r cap k v = Fired.idle k) ∧
      (fires → kindOf n = .map →
        let a := h 0
        let b := if val 0 20 20 = 1 then r.pw 1 else h 1
        let op := val 0 7 0
        let ty := val 0 11 8
        let signed : Prop := ty = 4
        (∀ x ∈ [(0, a), (1, a + b), (2, a - b), (3, a * b),
            (4, if signed then (if a.toInt < b.toInt then a else b) else if a.toNat < b.toNat then a else b),
            (5, if signed then (if b.toInt < a.toInt then a else b) else if b.toNat < a.toNat then a else b),
            (6, a &&& b), (7, a ||| b), (8, a ^^^ b), (9, a <<< (b.toNat % 32)),
            (0xA, if signed then a.sshiftRight (b.toNat % 32) else a >>> (b.toNat % 32)), (0xB, 0 - a)],
          op = x.1 → does k [(0, x.2)] 0) ∧
        (∀ f w, (ty = 0xA ∧ f = bf16 ∧ w = 16) ∨ (ty = 0xB ∧ f = fp32 ∧ w = 32) →
          let x := a.toNat % 2 ^ w
          let y := b.toNat % 2 ^ w
          let rm := val 0 19 18
          ∀ z ∈ [(0x20, f.add rm x y), (0x21, f.sub rm x y), (0x22, f.mul rm x y), (0x23, f.min x y), (0x24, f.max x y)],
            op = z.1 → does k [(0, BitVec.ofNat 32 z.2.1)] z.2.2) ∧
        (op = 0x10 → let dst := val 0 15 12
          let s8 : Int := (BitVec.ofNat 8 (val 1 7 0)).toInt
          let z := convert dst ty (val 0 19 18) s8 (a.toNat % 2 ^ codeWidth ty)
          does k [(0, if dst = 0 then (BitVec.ofNat 8 z.1).signExtend 32 else if dst = 2 then (BitVec.ofNat 16 z.1).signExtend 32
            else BitVec.ofNat 32 z.1)] z.2)) ∧
      (fires → kindOf n = .cmp →
        let a := h 0
        let b := if val 0 8 8 = 1 then r.pw 1 else h 1
        let bit (p : Bool) : List (Nat × Tok) := [(0, if p then 1 else 0)]
        let x := a.toNat
        let y := b.toNat
        (∀ p ∈ [(0, a == b), (1, a != b), (2, decide (a.toInt < b.toInt)), (3, decide (a.toInt ≤ b.toInt)),
            (4, decide (b.toInt < a.toInt)), (5, decide (b.toInt ≤ a.toInt)), (6, decide (x < y)), (7, decide (x ≤ y)),
            (8, decide (y < x)), (9, decide (y ≤ x))], val 0 7 0 = p.1 → does k (bit p.2) 0) ∧
        (∀ p ∈ [(0x10, fp32.cmpEq x y), (0x11, (!(fp32.cmpEq x y).1, (fp32.cmpEq x y).2)), (0x12, fp32.cmpLt x y),
            (0x13, fp32.cmpLe x y), (0x14, fp32.cmpLt y x), (0x15, fp32.cmpLe y x)],
          val 0 7 0 = p.1 → does k (bit p.2.1) p.2.2)) ∧
      (fires → kindOf n = .sel →
        does k (if (val 0 0 0 = 0 ∧ h 1 ≠ 0) ∨ (val 0 0 0 = 1 ∧ h 1 = 0) then [(0, h 0)] else []) 0) ∧
      (∀ run, fires → kindOf n = .unq → k = .unq run →
        let again : Prop := ∃ m, run = some (h 0, m)
        (∀ m, run = some (h 0, m) → does (.unq (some (h 0, m + 1))) [] 0) ∧
        (¬again → val 0 0 0 = 0 →
          does (.unq (some (h 0, 1))) (if r.bound 1 then [(0, h 0), (1, h 1)] else [(0, h 0)]) 0) ∧
        (¬again → val 0 0 0 = 1 → does (.unq (some (h 0, 1)))
          (match run with | some (x, m) => [(0, x), (1, BitVec.ofNat 32 m)] | none => []) 0)) ∧
      (∀ x m, (∀ j ∈ bs, v.done j = true) → even → roomy → kindOf n = .unq → k = .unq (some (x, m)) → val 0 0 0 = 1 →
        stepPlain r cap k v = firing [] [(0, x), (1, BitVec.ofNat 32 m)] (.unq none)) ∧
      (∀ g, kindOf n ∈ [.scn, .red] → k = .seg g →
        let ty := val 0 7 4
        let rm := val 0 10 9
        let op := if kindOf n = .scn then val 0 1 0 else val 0 3 0
        let fold (a x : Tok) : Tok × FpFlags :=
          if op = 6 then (a, 0)
          else if ty = 0xB then
            let z := if op = 0 then fp32.add rm a.toNat x.toNat else if op = 1 then fp32.max a.toNat x.toNat else fp32.min a.toNat x.toNat
            (BitVec.ofNat 32 z.1, z.2)
          else (match op with
            | 0 => a + x
            | 1 => if ty = 4 then (if x.toInt < a.toInt then a else x) else if x.toNat < a.toNat then a else x
            | 2 => if ty = 4 then (if a.toInt < x.toInt then a else x) else if a.toNat < x.toNat then a else x
            | 3 => a &&& x
            | 4 => a ||| x
            | _ => a ^^^ x, 0)
        let acc : Tok × FpFlags := match g.acc with | none => (h 0, 0) | some a => fold a (h 0)
        let ends : Prop := if val 1 31 0 = 0 then h 1 ≠ 0 else g.count + 1 = val 1 31 0
        let least : Tok := if ty = 4 then 0x80000000#32 else if ty = 5 then 0 else 0xFF800000#32
        let most : Tok := if ty = 4 then 0x7FFFFFFF#32 else if ty = 5 then 0xFFFFFFFF#32 else 0x7F800000#32
        let result : Tok := if op = 6 then BitVec.ofNat 32 (g.count + 1) else acc.1
        let next : KindState := if ends then .seg ⟨0, none⟩ else .seg ⟨g.count + 1, some acc.1⟩
        (fires → kindOf n = .scn → op < 3 → does next [(0, if val 0 8 8 = 1
          then g.acc.getD (if op = 0 then 0 else if op = 1 then least else most) else acc.1)] acc.2) ∧
        (fires → kindOf n = .red → does next (if ends then [(0, result)] else []) acc.2) ∧
        ((∀ j ∈ bs, v.done j = true) → even → roomy → kindOf n = .red → 0 < g.count → stepPlain r cap k v =
          firing [] [(0, if op = 6 then BitVec.ofNat 32 g.count else g.acc.getD 0)] (.seg ⟨0, none⟩))) ∧
      (∀ m, fires → kindOf n = .exp → k = .exp m →
        let y := h 0 + BitVec.ofNat 32 m * r.pw 1
        (h 1 = 0 → does (.exp 0) [] 0) ∧
        (h 1 ≠ 0 → (h 1).toNat ≤ m + 1 → does (.exp 0) [(0, y)] 0) ∧
        (m + 1 < (h 1).toNat → stepPlain r cap k v = firing [] [(0, y)] (.exp (m + 1))))) ∧
    -- MRG
    (∀ ia ib la lb, kindOf n = .mrg →
      let k : KindState := .mrg ia ib la lb false
      let op := val 0 1 0
      let ord := val 0 5 4
      let has (s t : Nat) : Prop := (v.head s).isSome = true ∧ (r.bound t = true → (v.head t).isSome = true)
      let even : Prop := ∀ p ∈ [(0, 2), (2, 0), (1, 3), (3, 1)], r.bound (Max.max p.1 p.2) = true → v.done p.1 = true → v.head p.2 = none
      let falls (x : Option Tok) (l : Option Tok) : Prop := ∃ y z, x = some y ∧ l = some z ∧ key ord y < key ord z
      let sorted : Prop := val 0 6 6 = 0 ∨ (¬falls (v.head 0) la ∧ ¬falls (v.head 1) lb)
      let side (s t : Nat) : List Nat := if r.bound t then [s, t] else [s]
      let does (ta tb : Bool) (from_ : Option Nat) : Prop :=
        stepPlain r cap k v = firing ((if ta then side 0 2 else []) ++ (if tb then side 1 3 else []))
          (match from_ with
            | none => []
            | some e =>
              if val 0 3 2 = 0 then [(0, h e)] else if val 0 3 2 = 1 then [(0, h e), (1, h (e + 2))]
              else if val 0 3 2 = 2 then [(0, if ta then BitVec.ofNat 32 ia else 0xFFFFFFFF#32),
                (1, if tb then BitVec.ofNat 32 ib else 0xFFFFFFFF#32)]
              else [(0, h 2), (1, h 3)])
          (.mrg (if ta then ia + 1 else ia) (if tb then ib + 1 else ib) (if ta then v.head 0 else la)
            (if tb then v.head 1 else lb) false)
      (¬even → stepPlain r cap k v = { Fired.idle k with stop := some (0x200 + n) }) ∧
      (even → v.done 0 = true → v.done 1 = true →
        let over_ : Prop := (r.bound 2 = true → v.done 2 = true) ∧ (r.bound 3 = true → v.done 3 = true)
        (over_ → stepPlain r cap k v = { Fired.idle k with finished := true }) ∧ (¬over_ → stepPlain r cap k v = Fired.idle k)) ∧
      (even → ¬(v.done 0 = true ∧ v.done 1 = true) → ((op = 0 ∧ (v.done 0 = true ∨ v.done 1 = true)) ∨ (op = 2 ∧ v.done 0 = true)) →
        stepPlain r cap k v = Fired.idle (.mrg ia ib la lb true)) ∧
      (even → v.done 0 = false → v.done 1 = false → ¬sorted → stepPlain r cap k v = { Fired.idle k with stop := some (0x100 + n) }) ∧
      (even → roomy → sorted → v.done 0 = false → v.done 1 = false → has 0 2 → has 1 3 →
        let x := key ord (h 0)
        let y := key ord (h 1)
        (x < y → does true false (if op = 0 then none else some 0)) ∧
        (y < x → does false true (if op = 1 ∨ op = 3 then some 1 else none)) ∧
        (x = y → (op = 0 ∨ op = 1 → does true true (some 0)) ∧ (op = 2 → does true true none) ∧ (op = 3 → does true false (some 0)))) ∧
      (even → roomy → sorted → v.done 0 = true → v.done 1 = false → (op = 1 ∨ op = 3) → has 1 3 → does false true (some 1)) ∧
      (even → roomy → sorted → v.done 1 = true → v.done 0 = false → op ≠ 0 → has 0 2 → does true false (some 0))) ∧
    -- SRT
    (∀ g, kindOf n = .srt → v.done 0 = false → v.done 1 = false → (v.head 0).isSome = true → ((v.head 1).isSome = true ↔ r.bound 1 = true) →
      r.bound 0 = true →
      let win := val 0 6 0
      let g' := g ++ [(h 0, h 1)]
      let before (x y : Tok × Tok) : Prop := if val 0 7 7 = 1 then key (val 0 9 8) y.1 ≤ key (val 0 9 8) x.1
        else key (val 0 9 8) x.1 ≤ key (val 0 9 8) y.1
      (win = 0 → cap ≤ g.length → stepPlain r cap (.srt g []) v = { Fired.idle (.srt g []) with stop := some (0x100 + n) }) ∧
      (roomy → (win = 0 → g.length < cap) → g.length + 1 ≠ win →
        stepPlain r cap (.srt g []) v = firing r.boundIns [] (.srt g' [])) ∧
      (¬roomy → (win = 0 → g.length < cap) → stepPlain r cap (.srt g []) v = Fired.idle (.srt g [])) ∧
      (roomy → g.length + 1 = win → ∃ l, stepPlain r cap (.srt g []) v = firing r.boundIns [] (.srt [] l) ∧ l.Perm g' ∧
        l.Pairwise before ∧ ∀ x, l.filter (fun y => key (val 0 9 8) y.1 = x) = g'.filter (fun y => key (val 0 9 8) y.1 = x))) ∧
    (∀ x l, kindOf n = .srt → roomy → r.boundIns.all v.done = true → (∀ j ∈ r.boundIns, v.head j = none) →
      stepPlain r cap (.srt [] (x :: l)) v = firing [] (if r.bound 1 then [(0, x.1), (1, x.2)] else [(0, x.1)]) (.srt [] l)) ∧
    -- TBL
    (∀ (word : Nat → Option Tok) (x : Tok), v.head 0 = some x → v.free 0 = true →
      let base := val 1 31 0
      let len := val 2 31 0
      let result (y : Tok) (w : Option (Nat × Tok)) (m : Option (Tok × Nat)) : Prop :=
        stepTbl r word (.tbl m []) v = (firing [0] [] (.tbl none [y]), w)
      let stops (m : Option (Tok × Nat)) : Prop := stepTbl r word (.tbl m []) v = ({ Fired.idle (.tbl m []) with stop := some (0x100 + n) }, none)
      (val 0 1 0 = 0 → (x.toNat < len → ∀ y, word (base + 4 * x.toNat) = some y → result y none none) ∧
        (len ≤ x.toNat → (val 0 5 5 = 0 → result (r.pw 3) none none) ∧ (val 0 5 5 = 1 → stops none))) ∧
      (val 0 1 0 = 1 ∨ val 0 1 0 = 2 → ∀ m < 2 ^ len, x ≠ 0xFFFFFFFF#32 →
        let st : Option (Tok × Nat) := if m = 0 then none else some (x, m)
        let slot := (x.toNat * 0x9C6D1A4B % 2 ^ 32 / 2 ^ (32 - len) + m) % 2 ^ len
        ∀ kw vw, word (base + 8 * slot) = some kw → word (base + 8 * slot + 4) = some vw →
          (kw = x → result (if val 0 1 0 = 1 then vw else BitVec.ofNat 32 slot) none st) ∧
          (kw ≠ x → kw = 0xFFFFFFFF#32 → (val 0 1 0 = 1 → result (r.pw 3) none st) ∧
            (val 0 1 0 = 2 → result (BitVec.ofNat 32 slot) (some (base + 8 * slot, x)) st)) ∧
          (kw ≠ x → kw ≠ 0xFFFFFFFF#32 → stepTbl r word (.tbl st []) v =
            ({ firing [] [] (.tbl (some (x, m + 1)) []) with works := true }, none))) ∧
      (val 0 1 0 = 1 → x = 0xFFFFFFFF#32 → result (r.pw 3) none none) ∧ (val 0 1 0 = 2 → x = 0xFFFFFFFF#32 → stops none)) ∧
    -- XREQ
    (∀ pk i ls, pk.length < 4 → v.free 0 = true →
      (∀ x, v.head 0 = some x → stepXreq r false (.xreq pk i ls []) v = firing [0] [] (.xreq (pk ++ [x]) i ls [])) ∧
      (v.head 0 = none → v.done 0 = true → pk ≠ [] →
        stepXreq r false (.xreq pk i ls []) v = { Fired.idle (.xreq pk i ls []) with stop := some (0x100 + n) }) ∧
      (v.head 0 = none → v.done 0 = true → pk = [] → stepXreq r false (.xreq pk i ls []) v =
        { Fired.idle (.xreq pk i ls []) with finished := true })) ∧
    -- AGEN
    (∀ a : AgenState, a.accs = [] → a.blocked = false → a.sent = false → r.bound 2 = false → r.bound 3 = false →
      let mode := val 0 1 0
      let total := a.counts.prod
      let x : Access := ⟨a.next, if mode < 2
          then a.base + ((List.range a.counts.length).map (fun k =>
            BitVec.ofNat 64 (loopIndex a.counts a.next k) * ((r.spb.getD k 0).extractLsb' 0 32).signExtend 64)).sum
          else a.base + (h 0).zeroExtend 64 <<< val 0 19 18,
        if mode = 1 ∨ mode = 3 then v.head 1 else none, .issued⟩
      let issues (take : List Nat) : Prop := (stepAgen r none false a v).fired =
        { firing take [] (.agen { a with accs := [x], next := a.next + 1 }) with works := true }
      (mode = 0 → a.next < total → a.counts.length = r.spb.length → issues []) ∧
      (mode = 1 → a.next < total → a.counts.length = r.spb.length → (v.head 1).isSome = true → v.done 1 = false → issues [1]) ∧
      (mode = 2 → (v.head 0).isSome = true → v.done 0 = false → issues [0]) ∧
      (mode = 3 → (v.head 0).isSome = true → (v.head 1).isSome = true → v.done 0 = false → v.done 1 = false → issues [0, 1]) ∧
      (mode = 1 → (total ≤ a.next ∧ (v.head 1).isSome = true) ∨ (a.next < total ∧ v.done 1 = true) →
        (stepAgen r none false a v).fired = { Fired.idle (.agen a) with stop := some (0x100 + n) }) ∧
      (mode = 3 → (v.done 0 = true ∧ (v.head 1).isSome = true) ∨ (v.done 1 = true ∧ (v.head 0).isSome = true) →
        (stepAgen r none false a v).fired = { Fired.idle (.agen a) with stop := some (0x200 + n) })))

/-- R184, R190, R211, R212, R218, R226, R233, R236, R238, R241, R242, R246: the steps of a board: a configuration packet arrives, the
fabric moves on one cycle, an AGEN performs an access, diverts it or stops, a stalled fabric or an unanswered request stops the
invocation, a cut holds it, and a finished invocation completes, takes one from `fx` and raises its flags. While U's invocation
holds the board, nothing of N's position moves. That a fabric cycle is one synchronous step and each of the others an event of its
own is the model's (DEDUCED, log 31); so are the order of an AGEN's checks (DEDUCED, log 34), which elements count as late (DEDUCED, log 35), and the code of a service stop, a free
value (DESIGN CHOICE, log 4). -/
def Obligations.BoardSteps : Prop :=
  ∀ (s : State) (core : BitVec 6) (cx : Cx) (n : BitVec 3) (p : Position) (v : Invocation),
    let u : Tid := ⟨core, cx⟩
    let c := s.ctx u
    (∀ q bs l, c.board = some q → q.coming = bs :: l → ∃ t, exec (.configurationPacket core cx) s = .next t ∧
      t = s.setCtx u { c with board := (t.ctx u).board } ∧
      ∃ r, (t.ctx u).board = some r ∧ r.coming = l ∧ r.arrived = q.arrived + 1 ∧ r.image = q.image ∧ r.addr = q.addr) ∧
    (c.board = none → exec (.configurationPacket core cx) s = .next s) ∧
    (c.board = some p → c.inv = some v → v.held = false →
      (let moved := c.fabricCycle (s.noticeWaits core).isNone p v
       (cx = .u ∨ (s.core core).ctxU.invRunning = false) →
        (moved.2 = none → exec (.fabricCycle core) s = .next ((s.setCtx u moved.1).issueXreqs u p)) ∧
        (∀ q, moved.2 = some q → exec (.fabricCycle core) s =
          .next (((s.setCtx u moved.1).serviceNotices u q).issueXreqs u p)) ∧
        ∀ r k x, p.image.piece (34 + n.toNat) = some r → p.agen (34 + n.toNat) = some k → k.candidate = some x →
          let step := exec (.agenAccessPerformed core cx n) s
          let w := 2 ^ r.pf 0 3 2
          let sx (y : Nat) : Tok := if r.pf 0 4 4 = 1 then BitVec.ofInt 32 (signedOf w y) else BitVec.ofNat 32 y
          let performed (t : State) (y : Tok) : Prop := ∃ a, step = .next (t.setAgen u r.num a) ∧ a.performed = k.performed + 1 ∧
            a.blocked = false ∧ a.accs = (if x.data.isSome then k.accs.filter (fun z => z.idx != x.idx)
              else k.accs.map (fun z => if z.idx = x.idx then { z with st := .ready y } else z))
          let tile := Fin.ofNat 8 (r.pf 0 11 9)
          let at_ := x.addr.toNat
          let room : Bool := k.segmentRoom ((p.image.lateFor p.image.routes r.num).map (·.2)) x.idx
          r.num = 34 + n.toNat →
          step = .next (s.agenStep u p v r k x) ∧
          (at_ % w ≠ 0 → ∃ t, step = .next (t.stopInv u ⟨2, x.addr, v.tpc, true, n.toNat, [], []⟩) ∧ t = s.setCtx u (t.ctx u)) ∧
          (at_ % w = 0 → r.pf 0 6 5 = 2 → at_ + w ≤ 131072 → p.dataWaits tile.val at_ w = false →
            (x.data = none → performed s (sx (leNat (s.tileBytes u tile at_ w)))) ∧
            (∀ y, x.data = some y → performed (s.onTile u tile (fun z => z.put at_ (leBytes w y.toNat))) 0)) ∧
          (at_ % w = 0 → r.pf 0 6 5 = 2 → 131072 < at_ + w → ∃ t, t = s.setCtx u (t.ctx u) ∧
            step = .next (t.stopInv u ⟨15, BitVec.ofNat 64 (0x122 + n.toNat), v.tpc, false, n.toNat, [], []⟩)) ∧
          (∀ pa unc, at_ % w = 0 → r.pf 0 6 5 = 0 → regionOf x.addr = none → c.resident x.addr w x.data.isSome = .ok (pa, unc) →
            BytesFree s pa w → Memory.wf memDefault s.mem = true →
            (x.data = none → s.poisoned pa w = false → ∃ t, OnlyCaches s t ∧ performed t (sx (s.num pa w))) ∧
            (∀ y, x.data = some y → ∃ t, Stored s t pa (leBytes w y.toNat) ∧ performed t 0)) ∧
          (∀ e, at_ % w = 0 → r.pf 0 6 5 = 0 → regionOf x.addr = none → c.resident x.addr w x.data.isSome = .error e →
            p.spills < 16 → room = true → s.noticeWaits core = none → step = .next ((s.setAgen u r.num { k with
              blocked := false, page := none
              accs := k.accs.map (fun z => if z.idx = x.idx then { z with st := .spilled e.num } else z) }).notify core
                (s.threadNotice u 4 (BitVec.ofNat 64 n.toNat) (BitVec.ofNat 64 x.idx) x.addr (leBytes 1 e.num)))) ∧
          (∀ e, at_ % w = 0 → r.pf 0 6 5 = 0 → regionOf x.addr = none → c.resident x.addr w x.data.isSome = .error e →
            (16 ≤ p.spills ∨ room = false) → step = .next (s.setAgen u r.num { k with blocked := true }))) ∧
      (cx = .n → (s.core core).ctxU.invRunning = true → exec (.agenAccessPerformed core cx n) s = .next s) ∧
      (65536 ≤ v.stall → ∃ t, exec (.fabstall core cx) s = .next t ∧ t = s.stopInv u ⟨14, 0, v.tpc, false, 0xFF, [], []⟩) ∧
      (v.stall < 65536 → exec (.fabstall core cx) s = .next s) ∧
      (∀ q, v.cut = some q → 16 ≤ v.quiet → p.cutWaits = false → ∃ t, exec (.markerCutTimeout core cx) s = .next t ∧
        t = s.setCtx u (c.holdInv p v q) ∧ (t.ctx u).isHeld = true ∧ (t.ctx u).fx = c.fx - 1 ∧
        (q.cause = 0 → (t.ctx u).fcsr = c.fcsr ∧ (t.ctx u).fabStop = c.fabStop ∧ (t.ctx u).inv.map Invocation.flags = some v.flags) ∧
        (q.cause ≠ 0 → (t.ctx u).fcsr = c.fcsr ||| (v.flags ++ 0#2) ∧ (t.ctx u).fabStop = some { q with prog := progressRecord p v q })) ∧
      ((∀ q, v.cut = some q → q.cause = 0) → c.invDone p v = true → ∃ t, exec (.invocationComplete core cx) s = .next t ∧
        t = s.setCtx u (t.ctx u) ∧ (t.ctx u).inv = none ∧ (t.ctx u).fx = c.fx - 1 ∧ (t.ctx u).vstart = 0 ∧
        (t.ctx u).fcsr = c.fcsr ||| (v.flags ++ 0#2) ∧ (t.ctx u).g = c.g ∧ (t.ctx u).v = c.v ∧ (t.ctx u).m = c.m ∧
        (v.newVl = none → (t.ctx u).vl = c.vl) ∧ (∀ k, v.newVl = some k → (t.ctx u).vl.toNat = Min.min k c.vlmax)) ∧
      (c.invDone p v = false → exec (.invocationComplete core cx) s = .next s) ∧
      (v.svc.outstanding ≠ 0 → ∃ t w, exec (.serviceStreamStop core cx) s = .next t ∧
        t.freeCtr = s.freeCtr + 1 ∧ ∃ svc, t = ({ s with freeCtr := t.freeCtr }.onCtx u (fun c =>
          { c with inv := some { v with svc := svc } })).stopInv u ⟨15, w, v.tpc, false, 0xFF, [], []⟩)) ∧
    (∀ k x, c.board.bind (fun p => p.agen (34 + n.toNat)) = some k → k.relatch = some x →
      (∀ y ∈ k.accs, x ≤ y.idx ∨ y.value.isSome = true) →
      exec (.relatchToken core cx n) s = .next (s.setAgen u (34 + n.toNat) { k with page := none, relatch := none }))

/-! ### The memory system, the transfer unit and the bank (R291 to R293, R301, R309, R310, R321, R343, R386) -/

/-- The n bytes at a virtual address, at most a line of them, which may touch two lines, that the transfer unit reads at once. -/
def Sys2Proof.SourceBytes (s : State) (ten : BitVec 5) (va : Word) (n : Nat) (bs : List Byte) : Prop :=
  let k := Min.min n (128 - va.toNat % 128)
  ∃ pa, Lies s ten va k .read pa ∧ (n ≤ k → bs = s.bytes pa k) ∧
    (k < n → ∃ pb, Lies s ten (va + BitVec.ofNat 64 k) (n - k) .read pb ∧ bs = s.bytes pa k ++ s.bytes pb (n - k))

/-- A sync word w after an increment of n bytes (R306). -/
def Sys2Proof.bumped (w n : Nat) : Nat :=
  let gen := w / 2 ^ 56
  let count := w / 2 ^ 28 % 2 ^ 28
  let target := w % 2 ^ 28
  let word (g c : Nat) : Nat := g * 2 ^ 56 + c * 2 ^ 28 + target
  if target < count then word gen (Min.min (count + n) (2 ^ 28 - 1))
  else if count + n = target then word ((gen + 1) % 256) 0
  else if count + n < target then word gen (count + n)
  else word gen (Min.min (count + n) (2 ^ 28 - 1))

/-- From s to t, n bytes of transfer x of thread u have been delivered, in memory at most: its bytes done have grown, its sync word,
where it names one, is incremented by n, and no register, buffer, handle or other tile has changed (R306, R309). -/
def Sys2Proof.Delivered (s t : State) (u : Tid) (x : Xfer) (n : Nat) : Prop :=
  let grown (w : Tid) : Ctx := if w = u then (s.ctx u).setXfer { x with done := x.done + n } else s.ctx w
  OnlyMemory s t ∧
  (x.sync = 0 → ∀ w, t.ctx w = grown w) ∧
  (∀ c tile off o, x.sync ≠ 0 → remotePlace x.sync = some (c, tile, off) → s.remoteOwner c tile (s.ctx u).tenant = some o →
    let w : Tid := ⟨c, o⟩
    (∀ v, v ≠ w → t.ctx v = grown v) ∧ t.ctx w = { grown w with board := (s.ctx w).board.map (fun p => p.onTile tile (fun k =>
      k.put off (leBytes 8 (bumped (leNat (s.tileBytes w tile off 8)) n)))) })

/-- R291 to R293, R295, R298, R301, R303, R306, R309, R310, R313 to R315, R319, R321, R340, R343, R386: the steps of the memory system and of the
transfer unit, where they are enabled; a step whose line is another's leaves it alone. A block of a copy, of at most a line of the
destination, brings the bytes of the source to the destination and leaves all other bytes; its sync word is incremented by their
number; a transfer with every byte delivered completes, its handle moves, and the copy counter falls; one that meets a fault keeps
its bytes done and is notified. A line of a pip fill becomes live with its bytes. The order and the addresses in which
bank entries move to and from their memory list are the model's (log 48); a transfer performed block by block, each with its
increment, is log 17, which line a cache gives up within R295's limits is log 18, a line no longer pending when its fill data arrives
is log 9, and a refill from poisoned memory that does nothing is log 48 (DESIGN CHOICE). -/
def Obligations.MemorySystemSteps : Prop :=
  ∀ (s : State) (core : BitVec 6) (cx : Cx) (pa : BitVec 52) (data : List (BitVec 8)) (die : BitVec 2) (ten : BitVec 5)
    (cls : BitVec 4) (base : BitVec 64) (cap id : Nat) (lim : Bool),
    let u : Tid := ⟨core, cx⟩
    let line := pa.toNat / 128
    let e := s.dirOf line
    let k := s.core core
    (DirSorted s → mapped pa.toNat 1 = true → s.txs = [] → LineFree s line → e.st ≠ .pipped → s.ownReq line = none →
      (k.hasLine line = false → ∃ t, exec (.readMiss core pa) s = .next t ∧ OnlyCaches s t ∧
        t.dirOf line = e.addReader core ∧ (t.core core).hasLine line = true) ∧
      (∀ q ∈ e.named, q ≠ core → exec (.ownershipRequest core pa data) s = .next { s with owning := s.owning ++
        [⟨core, e.named.filter (· != core), pa.toNat, data.take (128 - pa.toNat % 128)⟩] }) ∧
      ((∀ q ∈ e.named, q = core) → Memory.wf memDefault s.mem = true → ∃ t, exec (.ownershipRequest core pa data) s = .next t ∧
        t.dirOf line = DirEntry.ownedBy core ∧ Wrote s t (laid pa.toNat (data.take (128 - pa.toNat % 128))))) ∧
    (∀ r, s.ownReq line = some r → core ∈ r.acks → ∃ t, exec (.invalidationAck core pa) s = .next t ∧
      ((∃ q ∈ r.acks, q ≠ core) → t.mem = s.mem ∧ (t.core core).hasLine line = false ∧
        t.ownReq line = some { r with acks := r.acks.filter (· != core) }) ∧
      ((∀ q ∈ r.acks, q = core) → t.ownReq line = none ∧ (DirSorted s → e.st ≠ .pipped → Memory.wf memDefault s.mem = true →
        t.dirOf line = DirEntry.ownedBy r.writer ∧ Wrote s t (laid r.pa r.data)))) ∧
    ((s.over1 u = true ∨ ∀ m ∈ k.l1, s.over1 ⟨core, m.cx⟩ = true → Config.l1Set m.line ≠ Config.l1Set line) →
      (⟨line, false, cx⟩ ∈ k.l1 → s.invalidating line core = false → exec (.evictionNotice core pa) s =
        .next ((s.onCore core (fun k => k.dropLine line)).setDir line (e.evicted core))) ∧
      (⟨line, true, cx⟩ ∈ k.l1 → e.st ≠ .pipped → exec (.l1WriteBack core pa) s =
        .next ((s.onCore core (fun k => k.dropLine line)).setDir line DirEntry.none))) ∧
    ((∀ m ∈ k.l1, m.line = line → s.over1 ⟨core, m.cx⟩ = false) →
      (∃ m ∈ k.l1, s.over1 ⟨core, m.cx⟩ = true ∧ Config.l1Set m.line = Config.l1Set line) →
      exec (.evictionNotice core pa) s = .next s ∧ exec (.l1WriteBack core pa) s = .next s) ∧
    (∀ x, DirSorted s → Tbl.find s.l2 line = some x → e.st ≠ .pipped → s.owningLine line = false →
      ((s.over2 x.who = true ∨ ∀ m ∈ s.l2, s.over2 m.2.who = true → s.pipped m.1 = false → homeCore (m.1 * 128) = homeCore (line * 128) →
          Config.l2Set m.1 % 1024 ≠ Config.l2Set line % 1024) →
        let t := s.l2Evict line
        t.l2 = Tbl.drop s.l2 line ∧ t.dirOf line = DirEntry.none ∧ (∀ c, (t.core c).hasLine line = false) ∧ t.mem = s.mem ∧
          ∀ m, m ≠ line → t.dirOf m = s.dirOf m)) ∧
    (∀ x, s.txOf u = some x → exec (.transactionConflictTimeout core cx) s = .next (if x.blocks then s.abortTx u 1 0 else s)) ∧
    (populated pa.toNat = true → ∃ t, exec (.eccUncorrectableError pa) s = .next t ∧ t = { s with poison := t.poison } ∧
      t.poisoned pa.toNat 1 = true ∧ ∀ g ∈ s.poison, g ∈ t.poison) ∧
    (∀ x, (s.ctx u).xfer id = some x → x.faulted = none → s.noticeWaits core = none →
      let ten := (s.ctx u).tenant
      let at_ (a : Word) : Word := a + BitVec.ofNat 64 x.done
      let n (d : Nat) : Nat := Min.min (128 - (d + x.done) % 128) (x.count - x.done)
      (x.op ≠ .fill → exec (.syncWordIncrement core cx id) s = .next (s.xferStep u x)) ∧
      (x.op ≠ .fill → x.count ≤ x.done → exec (.syncWordIncrement core cx id) s = .next s) ∧
      (x.done < x.count → (x.done = 0 → s.syncOk ten x = true) → s.syncWaits ten x = false → Memory.wf memDefault s.mem = true →
        (x.op = .copyl → ∀ bs pa, SourceBytes s ten (at_ x.src) (n x.dst.toNat) bs → Lies s ten (at_ x.dst) (n x.dst.toNat) .write pa →
          ∃ t, exec (.syncWordIncrement core cx id) s = .next t ∧ Stored s t pa bs ∧ Delivered s t u x (n x.dst.toNat)) ∧
        (∀ h, x.handle = some h → let hd := k.handle h
          let start := hd.off + x.off + x.done
          (x.op = .copy → ∀ bs, SourceBytes s ten (at_ x.src) (n (hd.off + x.off)) bs →
            ∃ t, exec (.syncWordIncrement core cx id) s = .next t ∧ t.mem = s.mem ∧ t.poison = s.poison ∧
              (∀ w, t.ctx w = if w = u then (s.ctx u).setXfer { x with done := x.done + n (hd.off + x.off) } else s.ctx w) ∧
              (∀ j, (t.core core).handle j = k.handle j) ∧ (∀ c b, c ≠ core → (t.core c).buf b = (s.core c).buf b) ∧
              ∀ b p, Memory.wf zeroByte (k.buf b) = true → (t.core core).bufBytes b p 1 =
                if hd.buf = some b ∧ start ≤ p ∧ p < start + bs.length then [bs.getD (p - start) 0] else k.bufBytes b p 1) ∧
          (x.op = .drain ∨ x.op = .drainR → ∀ pa, Lies s ten (at_ x.dst) (n x.dst.toNat) .write pa →
            (k.regionBytes hd (x.off + x.done) (n x.dst.toNat)).length = n x.dst.toNat →
            ∃ t, exec (.syncWordIncrement core cx id) s = .next t ∧
              Stored s t pa (k.regionBytes hd (x.off + x.done) (n x.dst.toNat)) ∧ Delivered s t u x (n x.dst.toNat)))) ∧
      (x.done < x.count → x.done = 0 → s.syncOk ten x = false → exec (.copyFault core cx id) s = .next (s.faultXfer u x 0 .perm x.sync)) ∧
      (∀ s1, s.xferRun u x x.fuel = .all s1 → exec (.copyComplete core cx id) s = .next (s1.xferDone u x) ∧
        exec (.copyFault core cx id) s = .next s) ∧
      (x.count ≤ x.done → x.xreq = false → ∃ t, exec (.copyComplete core cx id) s = .next t ∧
        t.ctx u = { s.ctx u with xfers := (s.ctx u).xfers.filter (fun y => decide (y.id ≠ id)), cp := (s.ctx u).cp - 1 } ∧
        (∀ w, w ≠ u → t.ctx w = s.ctx w) ∧ t.mem = s.mem ∧ (∀ b, (t.core core).buf b = k.buf b) ∧
        ∀ j, (t.core core).handle j = if x.handle = some j then (match x.op with
          | .copy => { k.handle j with st := .full, pips := x.pips, unl := decide (x.pips = 0) }
          | .drain => { k.handle j with st := (k.handle j).left }
          | .drainR => { k.handle j with st := .free }
          | _ => k.handle j) else k.handle j) ∧
      (∀ s1 n c va, s.xferRun u x x.fuel = .fault s1 n c va → exec (.copyComplete core cx id) s = .next s ∧
        let y : Xfer := { x with done := n, faulted := some (c.num, va), notice := some (s1.core core).nseq }
        exec (.copyFault core cx id) s = .next ((s1.onCtx u (fun c => c.setXfer y)).notify core
          (s1.threadNotice u 5 va (BitVec.ofNat 64 n) x.sync ((y.record c.num).take 32)))) ∧
      (x.op = .fill → (∃ t, exec (.pipFillArrival core cx id) s = .next t) ∧
        ∀ ln, x.done < x.count → x.sync = 0 → x.lines[x.done / 128]? = some ln → let d := s.dirOf ln
          let arrived (t : State) : State :=
            let y : Xfer := { x with done := x.done + 128 }
            let t1 := t.onCtx u (fun c => c.setXfer y)
            if x.count ≤ x.done + 128 then t1.xferDone u y else t1
          (¬(d.st = .pipped ∧ d.pending = true) → exec (.pipFillArrival core cx id) s = .next (arrived s)) ∧
          (d.st = .pipped → d.pending = true →
            (∀ n, Lies s ten (at_ x.src) n .read (ln * 128) →
              exec (.pipFillArrival core cx id) s = .next (arrived (s.setDir ln { d with pending := false }))) ∧
            (∀ pa bs, SourceBytes s ten (at_ x.src) 128 bs → (∃ l, s.translate ten (at_ x.src) .read = .ok l ∧ l.pa = pa) →
              pa ≠ ln * 128 → Memory.wf memDefault s.mem = true → DirSorted s →
              ∃ t, exec (.pipFillArrival core cx id) s = .next (arrived t) ∧ OnlyMemory s t ∧ Stored s t (ln * 128) bs ∧
                (∀ w, t.ctx w = s.ctx w) ∧ t.dirOf ln = { d with pending := false, dirty := true })))) ∧
    (let b := s.bank die ten cls
     (b.chip.length < 64 → 0 < b.used →
       s.poisoned (b.base.toNat + 8 * (b.used - Min.min 128 b.used)) (8 * Min.min 128 b.used) = true →
       exec (.bankRefill die ten cls) s = .next s) ∧
     (b.chip.length < 64 → 0 < b.used →
       s.poisoned (b.base.toNat + 8 * (b.used - Min.min 128 b.used)) (8 * Min.min 128 b.used) = false → ∀ s1 bs,
       s.agentRead (b.base.toNat + 8 * (b.used - Min.min 128 b.used)) (8 * Min.min 128 b.used) = (s1, some bs) →
       exec (.bankRefill die ten cls) s = .next (s1.setBank die ten cls { b with
         used := b.used - Min.min 128 b.used
         chip := b.chip ++ ((List.range (Min.min 128 b.used)).map
           (fun j => BitVec.ofNat 64 (leNat ((bs.drop (8 * j)).take 8)))).reverse })) ∧
     (192 < b.chip.length → b.used < b.cap → let n := Min.min 128 (b.cap - b.used)
       let out := (b.chip.drop (b.chip.length - n)).reverse
       ∀ s1, s.agentWrite (b.base.toNat + 8 * b.used) (out.flatMap (fun x => leBytes 8 x.toNat)) = (s1, true) →
         exec (.bankSpill die ten cls) s = .next (s1.setBank die ten cls
           { b with chip := b.chip.take (b.chip.length - n), used := b.used + n })) ∧
     (s.plat.stuck = false → ten.toNat ≤ 16 → listPlace base cap = true → exec (.setBankMemoryList die ten cls base cap) s =
       .next (s.setBank die ten cls { b with base := base, cap := cap, used := 0 }))) ∧
    (s.plat.stuck = false → ten.toNat ≤ 16 → ∃ t, exec (.tenantScopeLimit ten lim) s = .next t ∧ t = { s with limited := t.limited } ∧
      ∀ j < 17, t.limited.getLsbD j = if j = ten.toNat then lim else s.limited.getLsbD j)

/-! ### Schedulers and queues (R14 to R30, R40, R125) -/

/-- R14, R15, R21 to R30, R40, R125, R347, R359: the steps of the stage schedulers, of queues and of time limits, where they
are enabled. A launch runs once it is ready, no launch accepted before it on its die waits for queue SRAM, and its queues fit. The
scheduler reads what it needs to place stages, as far as it can be read now, and grants the best candidate: class A first, then the
highest effective priority, then the first index at or after the pointer of that priority, which moves past it. A grant starts the instance with its reserved entry, on chip or read from the spill area, at the stage's entry with
the registers R27 gives it; it keeps the board of a context of the tenant, and every binding is its bind list's. A spill write or
read that faults leaves the queue FAULTED. The spill area as a ring of 16-byte places is the model's (log 62), and so are a
reason-2 PREEMPT that may be asked for again (log 62), aging and placement at any time (log 11), an entry that waits for its
spill write blocking pushes (log 13), where a vector instruction or an `mmab` that leaves its wait for an asynchronous trap restarts
(DEDUCED, log 42), and, beside a kind 1 record, the note of the element at which its instruction was issued (DEDUCED, log 7). -/
def Obligations.SchedulerSteps : Prop :=
  ∀ (s : State) (slot : BitVec 10) (stage : BitVec 4) (q : BitVec 5) (die : BitVec 2) (core : BitVec 6) (cx : Cx) (l : Launch),
    let n := slot.toNat
    let s0 := s
    let u : Tid := ⟨core, cx⟩
    let c := s.ctx u
    let counter (k : Nat) : Nat := if k = 8192 then c.vl.toNat else k
    (s.launchAt n = some l →
      (s.mayRun l = true → exec (.launchRun slot) s =
        .next ((s.onLaunch n (fun l => { l with state := .running })).settleLaunch n)) ∧
      (s.mayRun l = false → exec (.launchRun slot) s = .next s) ∧
      (let ready (k : Launch) : Prop := k.state = .held ∧ k.waitcnt = 0 ∧ k.phase = (s.job k.job).phase
       let used := ((s.launches.filter (fun k => k.die == l.die && k.state == .running)).map
         (fun k => (k.queues.map Queue.onchip).sum)).sum
       s.mayRun l = true ↔ ready l ∧ (∀ k ∈ s.launches, k.die = l.die → k.order < l.order → ¬ready k) ∧
         used + (l.queues.map Queue.onchip).sum ≤ 32768)) ∧
    (∀ st : Stage, l.eligible st = true ↔ l.state = .running ∧ l.cancelling = false ∧
      (∃ x, l.queue st.inq = some x ∧ 0 < x.chip.length + x.waiting.length + x.spilled) ∧
      (∀ i x, l.queues[i]? = some x → st.outmask.getLsbD i = true →
        x.chip.length + x.waiting.length + x.spilled + x.reserved < x.hwm) ∧
      st.running < st.maxctx) ∧
    (∀ k : Candidate, k ∈ s.candidates die ↔ ∃ sl x, (k.slot, sl) ∈ s.slots ∧ sl.launch = some k.launch ∧
      k.launch.stages[k.num]? = some k.stage ∧ k.index = k.slot * 16 + k.num ∧ k.launch.eligible k.stage = true ∧
      k.launch.queue k.stage.inq = some x ∧ (x.head ≠ none ∨ x.faulted = false) ∧
      (∃ i ∈ List.range 64, i / 16 = die.toNat ∧ (s.ctx ⟨BitVec.ofNat 6 i, if k.stage.urgent then .u else .n⟩).run = .free) ∧
      (k.stage.offered = true ∨ k.launch.pmap = [] ∨ ∃ e, s.firstEntry k.launch.tenant x = some e ∧
        let a := e.toNat % 2 ^ 64
        ∀ p, k.launch.pmap.find? (fun p => decide (p.base.toNat ≤ a ∧ a < p.base.toNat + 4096 * p.pages)) = some p →
          p.die = die)) ∧
    (∀ (cs : List Candidate), (leastRank s die cs = none ↔ cs = []) ∧ ∀ k, leastRank s die cs = some k → k ∈ cs ∧
      let classA (j : Candidate) : Prop := j.stage.running < j.stage.minctx
      let level (j : Candidate) : Nat := Min.min 3 (j.stage.prio.toNat + j.stage.aged)
      let past (j : Candidate) : Nat := (j.index + 16384 - (s.rr.toList.getD (die.toNat * 4 + level j) 0).toNat) % 16384
      ∀ j ∈ cs, (classA k ∨ ¬classA j) ∧ ((classA k ↔ classA j) → level j ≤ level k ∧ (level j = level k → past k ≤ past j))) ∧
    (∀ x t, s.freeCtx die x = some t → t.cx = x ∧ t.core.toNat / 16 = die.toNat ∧ (s.ctx t).run = .free ∧
      ∀ i : BitVec 6, i.toNat / 16 = die.toNat → i.toNat < t.core.toNat → (s.ctx ⟨i, x⟩).run ≠ .free) ∧
    ((∀ p ∈ s.slots, ∀ l, p.2.launch = some l → ∀ st ∈ l.stages, l.pmap = [] ∨ st.offered = true ∨
      (∀ x, l.queue st.inq = some x → x.head ≠ none)) → s.lookAll die = s) ∧
    (∀ k t e x y s1 s2, let s := s.lookAll die
      leastRank s die (s.candidates die) = some k → s.freeCtx die k.stage.cx = some t →
      k.launch.queue k.stage.inq = some x →
      ((s1 = s ∧ x.head = some e ∧ y = x.behead) ∨ (x.head = none ∧ ∃ bs ps,
        s.unitReads k.launch.tenant (x.spill + BitVec.ofNat 64 (16 * (x.spillPos % x.spillcap))) 16 true = .done (s1, bs, ps) ∧
        e = BitVec.ofNat 128 (leNat bs) ∧
        y = { x with spilled := x.spilled - 1, spillPos := (x.spillPos + 1) % x.spillcap })) →
      s1.vacate t k.launch.tenant = some s2 → ∃ r, exec (.stageGrant die) s0 = .next r ∧
        r.rr.toList.getD (die.toNat * 4 + Min.min 3 (k.stage.prio.toNat + k.stage.aged)) 0 = BitVec.ofNat 14 (k.index + 1) ∧
        (let d := r.ctx t
         d.run = .running ∧ d.pc = k.stage.entry ∧ d.tenant = k.launch.tenant ∧ d.vl = 0 ∧ d.vtype = 0 ∧ d.vstart = 0 ∧
         d.fcsr = 0 ∧ d.status = 0 ∧ d.tstat = 0 ∧ d.tcause = 0 ∧ d.tpc = 0 ∧ d.tval = 0 ∧ d.yreq = false ∧ d.cancel = false ∧
         d.G 1 = BitVec.ofNat 64 ((s2.slot k.slot).gen.toNat * 2 ^ 10 + k.slot % 2 ^ 10) ∧
         d.G 2 = BitVec.ofNat 64 k.num ∧ d.G 3 = k.launch.arg ∧ d.G 4 = k.launch.record ∧
         (∀ j : BitVec 5, 4 < j.toNat → d.G j = 0) ∧ (∀ j : Fin 32, d.v[j] = 0 ∧ d.fill[j] = 0) ∧ (∀ j : Fin 8, d.m[j] = 0) ∧
         (∀ j : Fin 16, d.slots[j] = (k.stage.binds.reverse.find? (fun b => decide (b.slot.toNat = j.val))).map
           (fun b => Binding.mk b.image b.entry)) ∧
         d.board = (if (s2.ctx t).tenant = k.launch.tenant then (s2.ctx t).dropHeld.board else none) ∧ d.isHeld = false ∧
         d.tframe = (s2.ctx t).tframe ∧ d.lim1 = (s2.ctx t).lim1 ∧ d.lim2 = (s2.ctx t).lim2 ∧
         d.inst = some ⟨BitVec.ofNat 10 k.slot, (s2.slot k.slot).gen, k.num, some e, false, none⟩) ∧
        (∀ w, w ≠ t → r.ctx w = s2.ctx w) ∧
        (s2.launchAt k.slot = some k.launch → k.launch.stages[k.num]? = some k.stage → ∃ m, r.launchAt k.slot = some m ∧
          m.queue k.stage.inq = some { y with reserved := y.reserved + 1 } ∧
          m.stages[k.num]? = some { k.stage with running := k.stage.running + 1, aged := 0, offered := false })) ∧
    (∀ st, s.launchAt n = some l → l.stages[stage.toNat]? = some st → l.eligible st = true →
      (let aged : Stage := { st with aged := Min.min 3 (st.aged + 1) }
       exec (.priorityAging slot stage) s = .next (s.onLaunch n (fun l => { l with stages := l.stages.set stage.toNat aged }))) ∧
      ((s.placed l st).isSome = true → let moved : Stage := { st with offered := true }
       exec (.placementTimeout slot stage) s = .next (s.onLaunch n (fun l => { l with stages := l.stages.set stage.toNat moved })))) ∧
    (∀ x, s.launchAt n = some l → l.queue q.toNat = some x →
      let put (t : State) (y : Queue) : State := t.onLaunch n (fun l => { l with queues := l.queues.set q.toNat y })
      let slotOf (i : Nat) : Word := x.spill + BitVec.ofNat 64 (16 * (i % x.spillcap))
      let faulted (va : Word) : State := (put s { x with faulted := true }).dieNotify l.die l.tenant 7
        ((launchId (s.slot n).gen n).zeroExtend 64) (BitVec.ofNat 64 q.toNat) va []
      (∀ e es, x.waiting = e :: es → x.faulted = false → x.spilled < x.spillcap →
        (∀ s1, s.unitWrite l.tenant (slotOf (x.spillPos + x.spilled)) (leBytes 16 e.toNat) = .done s1 →
          exec (.spillWrite slot q) s = .next (put s1 { x with waiting := es, spilled := x.spilled + 1 })) ∧
        (∀ f a, s.unitWrite l.tenant (slotOf (x.spillPos + x.spilled)) (leBytes 16 e.toNat) = .fault f a →
          s.noticeWaits (l.die ++ 0#4) = none → exec (.spillWrite slot q) s = .next (faulted a))) ∧
      (x.faulted = false → 0 < x.spilled → x.chipRoom = true →
        (∀ s1 bs ps, s.unitReads l.tenant (slotOf x.spillPos) 16 true = .done (s1, bs, ps) →
          exec (.spillRead slot q) s = .next (put s1 { x with
            chip := x.chip ++ [BitVec.ofNat 128 (leNat bs)], spilled := x.spilled - 1
            spillPos := (x.spillPos + 1) % x.spillcap }.refill)) ∧
        (∀ f a, s.unitReads l.tenant (slotOf x.spillPos) 16 true = .fault f a → s.noticeWaits (l.die ++ 0#4) = none →
          exec (.spillRead slot q) s = .next (faulted a))) ∧
      (∀ e dl who es, x.heldStores = (e, dl, who) :: es →
        (x.closed = true → x.faulted = false →
          exec (.queuePortPush slot q) s = .next ((put s { x with heldStores := es }.drop).storeDone who)) ∧
        (x.closed = false → x.blocked = false → l.state.isFinal = false → l.cancelling = false → s.qfullWaits n q.toNat = none →
          exec (.queuePortPush slot q) s = .next (((put s { x with heldStores := es }).pushEntry n q.toNat e).storeDone who)) ∧
        (dl ≤ s.clock.toNat → s.noticeWaits (l.die ++ 0#4) = none → exec (.queuePortTimeout slot q) s =
          .next (((put s { x with heldStores := es }.drop).qfull n q.toNat l).storeDone who)))) ∧
    (∀ i at_, c.inst = some i → i.cancelAt = some at_ → c.run = .running → c.preempt = none → at_ + 100000 ≤ s.clock.toNat →
      exec (.cancelTimeout core cx) s = .next (s.onCtx u (fun c => { c with preempt := some 2 }))) ∧
    (∀ dl, c.wfi = some (some dl) → c.run = .running → dl ≤ s.clock.toNat →
      exec (.wfiTimeout core cx) s = .next (s.onCtx u (fun c => { c with
        wfi := none, wake := false, waiting := false, pc := c.pc + 4
        stepFx := if c.estep then some c.pc else c.stepFx }))) ∧
    (c.run = .running → c.pendTrap = none →
      (∀ x, c.resumed = none → c.fabStop = some x → (s.txOf u).isSome = false → exec (.asynchronousTrap core cx) s =
        .next ((s.onCtx u (fun c => { c with fabStop := none, stepFx := none })).takeTrap u
          ⟨x.cause, x.tval, x.tpc, if c.wfi.isSome then c.pc + 4 else c.pc, x.res, true, 2, x.prog, x.aux⟩)) ∧
      (∀ x xs, c.resumed = none → c.fabStop = none → c.declined = x :: xs → (s.txOf u).isSome = false →
        exec (.asynchronousTrap core cx) s = .next ((s.onCtx u (fun c => { c with declined := xs })).takeTrap u
          ⟨x.cause, x.addr, x.xfer.tpc, if c.wfi.isSome then c.pc + 4 else c.pc, true, true, 4, x.xfer.record 0, []⟩)) ∧
      (∀ x at_ a e es, c.resumed = some (.vector at_ a (e :: es)) → (at_ = .waits ∨ at_ = .inside) → c.fabStop = some x →
        (s.txOf u).isSome = false →
        let whole : Bool := match s.atPc u with
          | some (.vldff ..) | some (.vldt ..) => true
          | _ => false
        exec (.asynchronousTrap core cx) s = .next ((s.onCtx u (fun c => { c with
            resumed := none, vstart := BitVec.ofNat 13 (if whole then a else (es.map counter).foldl Min.min (counter e))
            fabStop := none, stepFx := none })).takeTrap u
          ⟨x.cause, x.tval, x.tpc, if c.wfi.isSome then c.pc + 4 else c.pc, x.res, true, 2, x.prog, x.aux⟩)) ∧
      (∀ x k tag pip, c.resumed = some (.matrix .given k tag pip) → c.fabStop = some x → (s.txOf u).isSome = false →
        exec (.asynchronousTrap core cx) s = .next ((s.onCtx u (fun c => { c with
            resumed := none, leftRows := Tbl.put c.leftRows c.tframe.toNat (c.pc, k, tag, pip)
            fabStop := none, stepFx := none })).takeTrap u
          ⟨x.cause, x.tval, x.tpc, if c.wfi.isSome then c.pc + 4 else c.pc, x.res, true, 2, x.prog, x.aux⟩)) ∧
      (∀ r, c.preempt = some r → c.mxJobs = [] → c.ld = 0 → c.st = 0 → c.inv = none → (s.txOf u).isSome = false →
        let s1 := s.disownTiles u
        (c.fabStop = none → c.declined = [] → c.resumed = none →
          exec (.preempt core cx) s = .next ((s1.onCtx u (fun c => { c with preempt := none })).takeTrap u
            ⟨23, BitVec.ofNat 64 r, c.pc, if c.wfi.isSome then c.pc + 4 else c.pc, true, false, 0, [], []⟩)) ∧
        (∀ at_ a e es, c.resumed = some (.vector at_ a (e :: es)) →
          (at_ = .paused ∨ (at_ = .waits ∧ c.fabStop = none ∧ c.declined = [])) →
          exec (.preempt core cx) s = .next ((s1.onCtx u (fun c => { c with
              preempt := none, resumed := none, vstart := BitVec.ofNat 13 ((es.map counter).foldl Min.min (counter e))
              issuedAt := Tbl.put c.issuedAt c.tframe.toNat (a, e == 8192, c.cvtSrc), cvtSrc := none })).takeTrap u
            ⟨23, BitVec.ofNat 64 r, c.pc, if c.wfi.isSome then c.pc + 4 else c.pc, true, false, 1,
              padTo 64 ((e :: es).flatMap (fun k => leBytes 2 (counter k)) ++ s1.wordsAt u), []⟩)) ∧
        (∀ at_ k tag pip, c.resumed = some (.matrix at_ k tag pip) → (at_ = .paused ∨ at_ = .waits) →
          exec (.preempt core cx) s = .next ((s1.onCtx u (fun c => { c with preempt := none, resumed := none })).takeTrap u
            ⟨23, BitVec.ofNat 64 r, c.pc, if c.wfi.isSome then c.pc + 4 else c.pc, true, false, 3,
              padTo 64 (padTo 16 (leBytes 4 k ++ leBytes 2 tag.toNat ++ [if pip then 1 else 0]) ++ s1.wordsAt u), []⟩))))

/-! ### The executive's commands (R353, R377 to R380) -/

/-- The state in which a core's command port has taken a command for a context (R377). -/
def Sys2Proof.taken (s : State) (core : BitVec 6) (cx : Cx) (args : List (Fin 4 × Word)) : State :=
  s.onCore core (fun k => { k with args := args.foldl (fun v a => v.set a.1 a.2) k.args, cmdCx := cx, busy := none })

/-- The answer to a command that is carried out: STAT holds the operation (R377). -/
def Sys2Proof.carried (t : State) (core : BitVec 6) (op : Nat) : Host.Outcome State Fault Refusal :=
  .next (t.onCore core (fun k => { k with stat := BitVec.ofNat 64 op }))

/-- The answer to a command that is refused: STAT holds the operation and the refusal, and nothing else is done (R353). -/
def Sys2Proof.turnedAway (s : State) (core : BitVec 6) (cx : Cx) (args : List (Fin 4 × Word)) (op : Nat) :
    Host.Outcome State Fault Refusal :=
  .next ((taken s core cx args).onCore core (fun k => { k with stat := BitVec.ofNat 64 (2 ^ 62 + op) }))

/-- The state after the executive has set item n of what it sets before hosts and launches are admitted (R381): n is the core for
its ring, 64 + 2 × core, and 1 more for context U, for a `tframe`, 192 for the bias table and 193 for the orphan area. -/
def Sys2Proof.wasSet (s : State) (n : Nat) : State := { s with plat := { s.plat with toSet := s.plat.toSet.filter (· != n) } }

/-- R125, R240, R241, R309, R351, R353, R358 to R363, R377: the commands that act on a context. A write while the port is busy
does nothing yet; a command whose thread is in the wrong state is refused, a RESTORE into a context that is not free among them,
and so is a RESTORE of an image of another core or kind. RESUME gives back what the frame of each kind records, as `tret` does. SAVE
writes the image of R361, after the board's to its own area where there is one, and RESTORE gives a context what an image and the
board's image hold. A held thread as stopped is the model's (log 43), and so are what SAVE and END wait for (log 44), what the scheduler keeps of a saved instance (log 45), which malformed arguments are
refused (log 46), WAKE without a `wfi` (log 24), bits 1:0 of a resume PC cleared and the rows of an `mmab` that left its wait (log 42),
what a kind 1 record leaves unsaid (log 7), an INVALIDATE that waits for open transactions (log 46), and TXA clear after a RESTORE of
an image that has it set (DEDUCED, log 45). -/
def Obligations.ContextCommands : Prop :=
  ∀ (s : State) (core : BitVec 6) (cx : Cx) (a0 a1 a2 a3 : BitVec 64),
    let u : Tid := ⟨core, cx⟩
    let c := s.ctx u
    let stopped : Prop := c.run = .suspended ∨ c.run = .held
    let one (op : Nat) : Host.Outcome State Fault Refusal := turnedAway s core cx [(0, a0)] op
    ((s.plat.stuck = true ∨ s.portBusy core = true ∧ ∀ op, (s.core core).busy ≠ some (.command op)) →
      ∀ i ∈ [Instr.resume core cx, .redirect core cx a0, .save core cx a0 a1, .restore core cx a0,
      .endInstance core cx, .wake core cx, .agenResume core cx a0, .agenDecline core cx a0, .copyResume core cx a0,
      .copyDecline core cx a0, .stop core cx a0, .invalidate core a0 a1 a2 a3, .reply core cx a0], exec i s = .next s) ∧
    (s.plat.stuck = false → s.portBusy core = false →
      (¬stopped → exec (.resume core cx) s = turnedAway s core cx [] 1 ∧ exec (.redirect core cx a0) s = one 2 ∧
        exec (.save core cx a0 a1) s = turnedAway s core cx [(0, a0), (1, a1)] 3 ∧
        exec (.endInstance core cx) s = turnedAway s core cx [] 5) ∧
      (c.run ≠ .free ∨ a0.toNat % 256 ≠ 0 → exec (.restore core cx a0) s = one 4) ∧
      (stopped → a0.toNat % 256 ≠ 0 ∨ (c.board.isSome = true ∧ a1.toNat % 128 ≠ 0) →
        exec (.save core cx a0 a1) s = turnedAway s core cx [(0, a0), (1, a1)] 3) ∧
      (∀ pa, stopped → Memory.wf memDefault s.mem = true →
        let s0 : State := { taken s core cx [] with cur := u }
        frameFree s0 pa → GivesBack s0 pa
          (fun f => ∃ t, exec (.resume core cx) s = carried t core 1 ∧ t.ctx u = f c ∧ t.cur = s.cur ∧
            (∀ w, w ≠ u → t.ctx w = s.ctx w) ∧ (∀ p, p ≠ pa + 0x20 → t.byte p = s.byte p) ∧
            t.byte (pa + 0x20) = s.byte (pa + 0x20) &&& 0xFE#8)
          (fun q => exec (.resume core cx) s = carried ((taken s core cx []).takeTrap u q) core 1)) ∧
      (stopped → c.heldBare = false → exec (.redirect core cx a0) s = carried ((taken s core cx [(0, a0)]).onCtx u (fun c =>
        { c with pc := a0 &&& ~~~(3#64), run := .running, waiting := false, wfi := none, resumed := none })) core 2) ∧
      (stopped → a0.toNat % 256 = 0 → c.ld = 0 → c.st = 0 → c.mxJobs = [] → c.invRunning = false →
        let s0 := taken s core cx [(0, a0), (1, a1)]
        let board : Word := if c.board.isSome then a1 else 0
        ∀ s1 s2, (c.board = none ∧ s1 = s0.disownTiles u ∨ c.board.isSome = true ∧ a1.toNat % 128 = 0 ∧
            (s0.disownTiles u).saveBoard u a1 = .done s1) → s1.frameReadWaits u = none →
          let bs := contextImage s1 u (s0.frameRpc u) board
          s1.imageWrite c.tenant (bs.length / 128 + 2) a0 bs = .done s2 → ∃ t, exec (.save core cx a0 a1) s = carried t core 3 ∧
            t = s2.setCtx u (t.ctx u) ∧ (t.ctx u).run = .free ∧ (t.ctx u).xfers = [] ∧ (t.ctx u).board = none ∧
            ∃ p ∈ (t.ctx u).parked, p.area = a0 ∧ p.tenant = c.tenant ∧ p.inst = c.inst ∧ p.yreq = c.yreq ∧ p.cancel = c.cancel ∧ p.tpcs = c.xfers.map Xfer.tpc) ∧
      (∀ rpc board, c.xfers.length ≤ 64 → (∀ r, c.fillOf r ≤ 512) → let bs := contextImage s u rpc board
        bs.length = 22016 ∧ (∀ r : BitVec 5, numAt bs (8 * r.toNat) 8 = (c.G r).toNat ∧ numAt bs (0x300 + 2 * r.toNat) 2 = c.fillOf r.toNat) ∧
        (∀ r : BitVec 3, numAt bs (0x100 + 64 * r.toNat) 64 = (c.M r).toNat) ∧
        (∀ f ∈ [(0x340, rpc), (0x348, c.vl.zeroExtend 64), (0x350, c.vtype.zeroExtend 64), (0x358, c.vstart.zeroExtend 64),
          (0x360, c.fcsr.zeroExtend 64), (0x368, c.status.zeroExtend 64), (0x370, c.tstat), (0x378, s.occl u), (0x388, board),
          (0x390, c.tframe)], numAt bs f.1 8 = f.2.toNat) ∧
        numAt bs 0x380 8 = core.toNat + (if cx = .u then 256 else 0) + c.tenant.toNat * 65536 ∧ numAt bs 0x398 8 = c.xfers.length ∧
        numAt bs 0x3A0 96 = 0 ∧ numAt bs 0x500 256 = 0 ∧
        (∀ n : Fin 16, bytesAt bs (0x400 + 16 * n.val) 16 = (match c.slots[n] with
          | some b => leBytes 8 b.image.toNat ++ leBytes 1 b.entry.toNat ++ leBytes 1 1 ++ leBytes 6 0
          | none => leBytes 16 0)) ∧
        (∀ i x, c.xfers[i]? = some x → bytesAt bs (0x600 + 64 * i) 64 = x.record 0) ∧
        ∀ r : Fin 32, numAt bs (0x1600 + 512 * r.val) 512 = c.v[r].toNat) ∧
      (c.run = .free → a0.toNat % 256 = 0 → let s0 := taken s core cx [(0, a0)]
        let p := c.parkedIn a0
        ∀ s1 b, s0.imageBytes p.tenant a0 0x5600 = .done (s1, b) →
          let ours : Prop := numAt b 0x380 1 = core.toNat ∧ numAt b 0x381 1 = (match cx with | .n => 0 | .u => 1)
          (¬ours → exec (.restore core cx a0) s = one 4) ∧
          let n := numAt b 0x398 8
          let at_ : Word := BitVec.ofNat 64 (numAt b 0x388 8)
          let table := (List.range n).map (fun i => xferOfRecord (bytesAt b (0x600 + 64 * i) 64) (p.tpcs.getD i 0))
          let s3 := ((s1.emptyWays u).getD s1 |>.onCtx u (fun c => c.reload b)).reissueTable u b p.tpcs 0 n
          ours → numAt b 0x382 1 = p.tenant.toNat → n ≤ 64 → p.tpcs.length = n → c.xfers = [] → (∀ x ∈ table, x.op ≠ .fill) →
          (∀ l ∈ s1.lentLines u, s1.owningLine l = false) →
          (∀ s4 code, at_ ≠ 0 → code ≠ 0 → s3.restoreBoard u at_ true = .done (s4, code) → exec (.restore core cx a0) s = one 4) ∧
          ∀ s4, (at_ = 0 ∧ s4 = s3 ∨ at_ ≠ 0 ∧ s3.restoreBoard u at_ true = .done (s4, 0)) → s4.frameReadWaits u = none →
          p.rerun = false →
          ∃ t, exec (.restore core cx a0) s = carried t core 4 ∧
            let d := t.ctx u
            d.run = .suspended ∧ d.board = (s4.ctx u).board ∧ d.inv = (s4.ctx u).inv ∧ (at_ = 0 → d.board = none ∧ d.inv = none) ∧
            (at_ = 0 → d.xfers.map (fun x => { x with id := 0, order := 0 }) = table.map (fun x => { x with id := 0, order := 0 })) ∧
            d.yreq = p.yreq ∧ d.cancel = p.cancel ∧ d.inst = p.inst ∧ d.tenant = p.tenant ∧ VlBounded d ∧
            (∀ r : Fin 32, d.fill[r] = Nat.min 512 (numAt b (0x300 + 2 * r.val) 2)) ∧
            (∀ r : Fin 16, d.slots[r] = if numAt b (0x409 + 16 * r.val) 1 = 1
              then some ⟨BitVec.ofNat 64 (numAt b (0x400 + 16 * r.val) 8), BitVec.ofNat 4 (numAt b (0x408 + 16 * r.val) 1)⟩ else none) ∧
            (∀ r : Fin 32, r.val ≠ 0 → d.g[r] = BitVec.ofNat 64 (numAt b (8 * r.val) 8)) ∧
            (∀ r : Fin 32, d.v[r] = BitVec.ofNat 4096 (numAt b (0x1600 + 512 * r.val) 512)) ∧
            d.pc = BitVec.ofNat 64 (numAt b 0x340 8) &&& ~~~(3#64) ∧
            d.txa = false ∧ d.tstat.toNat < 2 ^ 24 ∧ d.tframe.toNat % 256 = 0 ∧ d.fcsr = BitVec.ofNat 7 (numAt b 0x360 8) ∧ d.vtype = BitVec.ofNat 4 (numAt b 0x350 8) ∧
            (∀ pa, t.framePlace u = some pa → d.tcause = t.dword pa &&& 0x18FFF#64 ∧ d.tpc = t.dword (pa + 8) ∧ d.tval = t.dword (pa + 16))) ∧
      (stopped → c.mxJobs = [] → c.inv = none → ∃ t, exec (.endInstance core cx) s = carried t core 5 ∧ (t.ctx u).run = .free ∧
        (t.ctx u).inst = none ∧ (t.ctx u).xfers = [] ∧ (t.ctx u).ld = 0 ∧ (t.ctx u).st = 0 ∧ (t.ctx u).cp = 0 ∧
        (t.ctx u).mx = 0 ∧ (t.ctx u).fx = 0) ∧
      (stopped → c.mxJobs ≠ [] → ∃ t, exec (.endInstance core cx) s = .next t ∧ (t.ctx u).run = c.run ∧ (t.ctx u).inst = c.inst ∧
        (t.core core).busy = some (.command 5)) ∧
      ((c.run = .running ∧ c.wfi.isSome = true) → exec (.wake core cx) s =
        carried ((taken s core cx []).onCtx u (fun c => { c with wake := true })) core 6) ∧
      (¬(c.run = .running ∧ c.wfi.isSome = true) → exec (.wake core cx) s = turnedAway s core cx [] 6) ∧
      (c.oldestSpill a0 = none → exec (.agenResume core cx a0) s = one 7 ∧ exec (.agenDecline core cx a0) s = one 8) ∧
      (∀ n va k v, c.oldestSpill a0 = some (n, va, k) → c.inv = some v →
        exec (.agenResume core cx a0) s = carried ((taken s core cx [(0, a0)]).onCtx u (fun c =>
          { c with board := c.board.map (fun p => p.reissueOne (34 + n)) })) core 7 ∧
        exec (.agenDecline core cx a0) s =
          carried ((taken s core cx [(0, a0)]).stopInv u ⟨k, va, v.tpc, true, n, [], []⟩) core 8) ∧
      (c.noticed a0 = none → exec (.copyResume core cx a0) s = one 9 ∧ exec (.copyDecline core cx a0) s = one 10) ∧
      (∀ x k va, c.noticed a0 = some x → x.faulted = some (k, va) →
        exec (.copyResume core cx a0) s = carried ((taken s core cx [(0, a0)]).onCtx u (fun c =>
          c.setXfer { x with faulted := none, notice := none })) core 9 ∧
        exec (.copyDecline core cx a0) s = carried ((taken s core cx [(0, a0)]).declineXfer u x k va) core 10) ∧
      ((c.run = .free ∨ a0.toNat < 1 ∨ 3 < a0.toNat) → exec (.stop core cx a0) s = one 11) ∧
      (c.run = .running → 1 ≤ a0.toNat → a0.toNat ≤ 3 → exec (.stop core cx a0) s = carried (((taken s core cx [(0, a0)]).onCtx u
        (fun c => { c with preempt := some (c.preempt.getD a0.toNat) })).onCore core (fun k =>
          { k with busy := some (.stop cx) })) core 11) ∧
      (stopped → 1 ≤ a0.toNat → a0.toNat ≤ 3 → exec (.stop core cx a0) s =
        carried ((((taken s core cx [(0, a0)]).disownTiles u).cutFor u).onCore core (fun k =>
          { k with busy := some (.stop cx) })) core 11) ∧
      (let args := [((0 : Fin 4), a0), (1, a1), (2, a2), (3, a3)]
       (16 < a2.toNat → exec (.invalidate core a0 a1 a2 a3) s = turnedAway s core .n args 16) ∧
       let ten : BitVec 5 := a2.truncate 5
       let still (p : Tid × Tx) : Bool := (s.ctx p.1).tenant == ten && !p.2.writes.isEmpty
       let noted : State := { taken s core .n args with
         txs := s.txs.map (fun p => if still p then (p.1, { p.2 with old := true }) else p) }
       let waits := carried (noted.onCore core (fun k => { k with busy := some (.invalidate ten) })) core 16
       (a2.toNat ≤ 16 → a3.getLsbD 0 = false → (∀ p ∈ s.txs, still p = false ∧ p.2.old = false) →
         exec (.invalidate core a0 a1 a2 a3) s = carried (taken s core .n args) core 16) ∧
       (a2.toNat ≤ 16 → a3.getLsbD 0 = false → (∃ p ∈ s.txs, still p = true) → exec (.invalidate core a0 a1 a2 a3) s = waits) ∧
       (a2.toNat ≤ 16 → a3.getLsbD 0 = true → (∀ t : Tid, (s.ctx t).board = none) →
         exec (.invalidate core a0 a1 a2 a3) s = waits)) ∧
      (∀ v n ds s1 bs, c.inv = some v → v.svc.due = n :: ds → (n ≠ 0 → devPlace a0.toNat (4 * n) = true ∧ s.poisoned a0.toNat (4 * n) = false) →
        (taken s core cx [(0, a0)]).agentRead a0.toNat (4 * n) = (s1, some bs) → exec (.reply core cx a0) s =
          carried (s1.onCtx u (fun c => { c with inv := some { v with svc := { v.svc with
            due := ds, replies := v.svc.replies ++
              [(List.range n).map (fun j => BitVec.ofNat 32 (leNat ((bs.drop (4 * j)).take 4)))] } } })) core 21) ∧
      ((∀ v, c.inv = some v → v.svc.due = []) → exec (.reply core cx a0) s = one 21))

/-- R17, R30, R292, R294, R304, R348, R352, R355, R356, R371, R375, R377 to R379: the commands that set a register or a table of
the device, what each refuses (a bias table base while a page has host bias or a flip is under way, a job with a launch that is not
final, a queue that is not FAULTED or does not exist, and malformed arguments), the read of COMPL, and how a service core reaches the
port. What is refused for a malformed argument, READ_DIRECTORY_ENTRY away from the line's home and a write of an argument that waits while the port is busy are the
model's (DESIGN CHOICE, log 46), and so are a resumed queue that is OPEN whatever closed it (DESIGN CHOICE, log 62), the bias table that the device keeps (log 49) and which settings hosts and launches
wait for after a reset (DESIGN CHOICE, log 2). -/
def Obligations.SettingCommands : Prop :=
  ∀ (s : State) (core : BitVec 6) (cx : Cx) (a0 a1 a2 : BitVec 64),
    let u : Tid := ⟨core, cx⟩
    let k := s.core core
    ((s.plat.stuck = true ∨ s.portBusy core = true ∧ ∀ op, k.busy ≠ some (.command op)) → ∀ i ∈ [Instr.setTframe core cx a0, .writeHandleEntry core a0 a1,
      .writeResidentEntry core cx a0 a1, .setPipqQuota core cx a0, .setOcclLimits core cx a0, .readDirectoryEntry core a0,
      .advanceNoticeHead core a0, .setTvec core a0, .clearOrphanMarks core a0, .setPageTableRoot core a0 a2,
      .setBiasTableBase core a0, .setOrphanArea core a0 a1, .assignJob core a0 a2, .resumeQueue core a0 a1],
      exec i s = .next s) ∧
    (s.portBusy core = true → exec (.compl core) s = .next s ∧ (∀ o ∈ [0x08, 0x10, 0x18, 0x20], s.writePort core o a0 = s)) ∧
    (s.readPort core 0x28).host.data = leBytes 8 (k.stat ||| (if s.portBusy core then 0x8000000000000000#64 else 0)).toNat ∧
    (∀ w : Word, w.getLsbD 8 = decide (cx = .u) → (w.toNat % 256 = 0x11 → exec (.setTframe core cx k.args[0]) s = .next (s.writePort core 0 w)) ∧
      (w.toNat % 256 = 0x1F → cx = .n → exec (.resumeQueue core k.args[0] k.args[1]) s = .next (s.writePort core 0 w))) ∧
    (s.plat.stuck = false → s.portBusy core = false →
      (∀ w : Word, w.toNat % 256 = 0x1F → w.getLsbD 8 = true → ∃ t, exec (.resumeQueue core k.args[0] k.args[1]) s = .next t ∧
        s.writePort core 0 w = t.onCore core (fun k => { k with cmdCx := .u })) ∧
      s.writePort core 0x08 a0 = s.onCore core (fun k => { k with args := k.args.set 0 a0 }) ∧
      s.writePort core 0x10 a0 = s.onCore core (fun k => { k with args := k.args.set 1 a0 }) ∧
      s.writePort core 0x18 a0 = s.onCore core (fun k => { k with args := k.args.set 2 a0 }) ∧
      s.writePort core 0x20 a0 = s.onCore core (fun k => { k with args := k.args.set 3 a0 }) ∧
      (let t := taken s core cx [(0, a0)]
       exec (.setTframe core cx a0) s = carried (wasSet (t.onCtx u (fun c =>
         { c with tframe := BitVec.ofNat 64 (a0.toNat / 256 * 256) })) (64 + 2 * core.toNat + if cx = .u then 1 else 0)) core 0x11 ∧
       exec (.setPipqQuota core cx a0) s = carried (t.onCtx u (fun c => { c with quota := a0.truncate 16 })) core 0x14 ∧
       exec (.setOcclLimits core cx a0) s = carried (t.onCtx u (fun c =>
         { c with lim2 := BitVec.ofNat 16 (a0.toNat / 2 ^ 48), lim1 := BitVec.ofNat 8 (a0.toNat / 2 ^ 24) })) core 0x1B) ∧
      (let args := [((0 : Fin 4), a0), (1, a1)]
       let h : BitVec 6 := a0.truncate 6
       let st := (k.handle h).st
       let size := a1.toNat / 2 ^ 9 % 2 ^ 15
       let offb := a1.toNat / 2 ^ 24 % 2 ^ 14
       let ten := a1.toNat / 2 ^ 48 % 2 ^ 5
       let code := a1.toNat / 2 ^ 43 % 4
       let ok (b : Buf) : Prop := code = (match b with | .w => 1 | .a => 2 | .c => 3) ∧ 1 ≤ size ∧ size ≤ 16384 ∧ ten ≤ 16 ∧
         64 * (offb + size) ≤ bufSize b
       (st ≠ .free → st ≠ .spent → exec (.writeHandleEntry core a0 a1) s = turnedAway s core .n args 0x12) ∧
       (a1.getLsbD 63 = true → (∀ b, ¬ok b) → exec (.writeHandleEntry core a0 a1) s = turnedAway s core .n args 0x12) ∧
       ((taken s core .n args).handleNamed core h = true → exec (.writeHandleEntry core a0 a1) s = turnedAway s core .n args 0x12) ∧
       ((st = .free ∨ st = .spent) → (taken s core .n args).handleNamed core h = false →
         (a1.getLsbD 63 = false → exec (.writeHandleEntry core a0 a1) s =
           carried ((taken s core .n args).onCore core (fun k => k.setHandle h Handle.reset)) core 0x12) ∧
         (∀ b, a1.getLsbD 63 = true → ok b → exec (.writeHandleEntry core a0 a1) s =
           carried ((taken s core .n args).onCore core (fun k => k.setHandle h { Handle.reset with
             buf := some b, offb := BitVec.ofNat 14 offb, sizeb := BitVec.ofNat 15 size, ten := BitVec.ofNat 5 ten })) core 0x12)) ∧
       (let args := [((0 : Fin 4), a0), (1, a1)]
        ((8192 ≤ a0.toNat ∨ a1.toNat / 2 ^ 52 % 2 ^ 8 ≠ 0) → exec (.writeResidentEntry core cx a0 a1) s =
          turnedAway s core cx args 0x13) ∧
        (a0.toNat < 8192 → a1.toNat / 2 ^ 52 % 2 ^ 8 = 0 → ∃ t, exec (.writeResidentEntry core cx a0 a1) s = carried t core 0x13 ∧
          t = (taken s core cx args).onCtx u (fun c => { c with vrt := (t.ctx u).vrt }) ∧
          ((s.ctx u).vrt.Pairwise (fun p q => p.1 < q.1) → ∀ j, Tbl.getD (t.ctx u).vrt j 0 =
            if j = a0.toNat then BitVec.ofNat 64 (a1.toNat / 2 ^ 26 * 2 ^ 26) else Tbl.getD (s.ctx u).vrt j 0)))) ∧
      exec (.readDirectoryEntry core a0) s = carried ((taken s core .n [(0, a0)]).onCore core (fun k =>
        { k with args := k.args.set 1 (if homeCore a0.toNat = core then (s.dirOf (a0.toNat / 128)).word else 0) })) core 0x16 ∧
      (let h : BitVec 32 := a0.truncate 32
       ((k.tail - k.head).toNat < (h - k.head).toNat → exec (.advanceNoticeHead core a0) s = turnedAway s core .n [(0, a0)] 0x17) ∧
       ((h - k.head).toNat ≤ (k.tail - k.head).toNat → k.notices = [] → exec (.advanceNoticeHead core a0) s =
         carried ((taken s core .n [(0, a0)]).onCore core (fun k => { k with head := h, notices := [] })) core 0x17)) ∧
      (let ok : Prop := a0.toNat % 0x10000 = 0 ∧ populated a0.toNat = true ∧ populated (a0.toNat + 0xFFFF) = true
       (¬ok → exec (.setTvec core a0) s = turnedAway s core .n [(0, a0)] 0x1A) ∧
       (ok → k.notices = [] → exec (.setTvec core a0) s = carried (wasSet ((taken s core .n [(0, a0)]).onCore core (fun k =>
         { k with tvec := a0, tail := 0, head := 0, notices := [] })) core.toNat) core 0x1A)) ∧
      ((1 < a0.toNat → exec (.clearOrphanMarks core a0) s = turnedAway s core .n [(0, a0)] 0x18) ∧
       (a0.toNat ≤ 1 → ∃ t, exec (.clearOrphanMarks core a0) s = carried t core 0x18 ∧
         t = { taken s core .n [(0, a0)] with host := { s.host with orphans := t.host.orphans } } ∧
         ∀ l, l ∈ t.host.orphans ↔ l ∈ s.host.orphans ∧ hostPortOf (l * 128) ≠ some (a0.truncate 1))) ∧
      (let args := [((0 : Fin 4), a0), (2, a2)]
       (16 < a2.toNat → exec (.setPageTableRoot core a0 a2) s = turnedAway s core .n args 0x19) ∧
       (16 < a2.toNat ∨ 256 ≤ a0.toNat ∨
           (∃ p ∈ s.slots, ∃ l, p.2.launch = some l ∧ l.job.toNat = a0.toNat ∧ l.state.isFinal = false) →
         exec (.assignJob core a0 a2) s = turnedAway s core .n args 0x1E) ∧
       (∀ h : a2.toNat < 17, exec (.setPageTableRoot core a0 a2) s =
         carried { taken s core .n args with roots := s.roots.set a2.toNat a0 h } core 0x19) ∧
       (a2.toNat ≤ 16 → (∀ p ∈ s.slots, ∀ l, p.2.launch = some l → l.job.toNat = a0.toNat → l.state.isFinal = true) →
         a0.toNat < 256 → ∃ t, exec (.assignJob core a0 a2) s = carried t core 0x1E ∧
           t.job (a0.truncate 8) = ⟨a2.truncate 5, 0⟩ ∧ t = { taken s core .n args with
             jobs := t.jobs, graphs := t.graphs, phases := t.phases, jobObjs := t.jobObjs })) ∧
      (s.host.flips = [] → s.host.bias = [] →
        a0.toNat % 4096 = 0 → populated a0.toNat = true → exec (.setBiasTableBase core a0) s =
          carried (wasSet { taken s core .n [(0, a0)] with host := { s.host with biasBase := a0 } } 192) core 0x1C) ∧
      (s.host.flips = [] → (∀ p ∈ s.host.bias, p.2.getLsbD 0 = false) → a0.toNat % 4096 = 0 → populated a0.toNat = true →
        ∀ s1, ({ taken s core .n [(0, a0)] with host := { s.host with biasBase := a0 } } : State).writeBias a0.toNat s.host.bias =
          (s1, true) → exec (.setBiasTableBase core a0) s = carried (wasSet s1 192) core 0x1C) ∧
      (s.host.flips ≠ [] ∨ (∃ p ∈ s.host.bias, p.2.getLsbD 0 = true) ∨ a0.toNat % 4096 ≠ 0 ∨ populated a0.toNat = false →
        exec (.setBiasTableBase core a0) s = turnedAway s core .n [(0, a0)] 0x1C) ∧
      (a0.toNat % 4096 ≠ 0 ∨ populated a0.toNat = false ∨ populated (a0.toNat + 0x100 + 256 * a1.toNat - 1) = false →
        exec (.setOrphanArea core a0 a1) s = turnedAway s core .n [(0, a0), (1, a1)] 0x1D) ∧
      (s.named a0 = none ∨ (∃ n l, s.named a0 = some (n, l) ∧ l.queue a1.toNat = none) →
        exec (.resumeQueue core a0 a1) s = turnedAway s core .n [(0, a0), (1, a1)] 0x1F) ∧
      (a0.toNat % 4096 = 0 → populated a0.toNat = true → populated (a0.toNat + 0x100 + 256 * a1.toNat - 1) = true →
        Memory.wf memDefault s.mem = true → BytesFree s a0.toNat 256 →
        ∃ t, exec (.setOrphanArea core a0 a1) s = carried t core 0x1D ∧ t.plat = (wasSet s 193).plat ∧
          t.host = { s.host with orphanBase := a0, orphanCap := a1.toNat } ∧
          Stored s t a0.toNat (leBytes 8 0 ++ leBytes 8 a1.toNat ++ List.replicate 240 0)) ∧
      (∀ n l q, s.named a0 = some (n, l) → l.queue a1.toNat = some q →
        (q.faulted = false → exec (.resumeQueue core a0 a1) s = turnedAway s core .n [(0, a0), (1, a1)] 0x1F) ∧
        (q.faulted = true → exec (.resumeQueue core a0 a1) s = carried (((taken s core .n [(0, a0), (1, a1)]).onLaunch n (fun l =>
          { l with queues := l.queues.set a1.toNat { q with faulted := false, closed := false }.refill })).settleLaunch n) core 0x1F)) ∧
      (let c := s.ctx ⟨core, k.cmdCx⟩
       let partWay : Prop := c.run = .running ∧ ((∃ at_ a e, c.resumed = some (.vector at_ a e) ∧ at_ ≠ .given) ∨
         ∃ at_ n tag pip, c.resumed = some (.matrix at_ n tag pip) ∧ at_ ≠ .given)
       (c.mxJobs = [] ∧ c.xfers = [] ∧ c.inv = none ∧ ¬partWay → exec (.compl core) s =
         .next { s with host := { s.host with data := leBytes 8 k.stat.toNat } }) ∧
       (c.mxJobs ≠ [] ∨ c.xfers ≠ [] ∨ c.invRunning = true ∨ partWay → exec (.compl core) s = .next s)))

/-! ### Hosts and the platform (R366 to R376, R381 to R385) -/

/-- R13, R366 to R376: what hosts and peers do to the module: launches and their results, the semaphore and what it guards,
register and queue-port reads, queue-port writes, inbound accesses, caching under host bias, flips, and links. The posted writes of a
port take effect in the order of their arrival: behind one that back-pressure holds, none of its others does. VF_ENABLE written
by the port that owns SEM is the model's (DESIGN CHOICE, log 52), and so are how a flip waits and a flip to the bias that the page
has (log 49), what a lost link leaves (log 50), of a peer's lines too, which read as the constant again (DESIGN CHOICE, log 3), the
successor list read at acceptance, empty where it faults and counted down with an unreadable record (DESIGN CHOICE, log 14), the
launching tenant as owner of a launch that is faulted at acceptance (DEDUCED, log 28), nothing read of a record at a misaligned
address, so that AUTOFREE is not honoured and no successor counted down (DESIGN CHOICE, log 62), and a line whose orphan record must wait, which stays modified, and its port down, until a later LINK_DOWN has
written it (DESIGN CHOICE, log 50). -/
def Obligations.HostSteps : Prop :=
  ∀ (s : State) (port tgt : BitVec 1) (fn vf : BitVec 5) (die : BitVec 2) (val : BitVec 64) (off : BitVec 26) (pa : BitVec 52)
    (page : BitVec 40) (data : List Byte) (n : BitVec 8) (own : Bool) (g : HxAgent),
    let h := s.host
    let host (f : HostPorts → HostPorts) : State := { s with host := f h }
    let me : BitVec 2 := port.zeroExtend 2 + 1
    let key := fn.toNat * 8 + port.toNat * 4 + die.toNat
    let line := pa.toNat / 128
    let up : Prop := match g with | .host p => h.down.getLsbD p.toNat = false | .peer k => h.peerDown.getLsbD k.toNat = false
    let writesDone : Prop := s.holdsStore (.port port) = false
    (¬writesDone → ∀ i ∈ [Instr.sem port val, .flip port val, .portEnable port g, .vfEnable port ⟨vf, tgt⟩,
      .launchRegister fn port die val, .hostQueuePortWrite ⟨fn, port⟩ off data, .hxWrite (.host port) pa data], exec i s = .next s) ∧
    (s.reaches 0 port = true → writesDone →
      (s.readBar0 0 port 0x100 8).host.data = leBytes 8 ((if h.semErr then 128 else 0) + h.semOwn.toNat) ∧
      (s.readBar0 0 port 0x110 8).host.data =
        leBytes 8 ((if h.flips.any FlipCmd.commanded then 2 ^ 63 else 0) + h.flipped.toNat) ∧
      (val.toNat % 4 = 1 → h.semOwn = 0 → ∃ t, exec (.sem port val) s = .next t ∧ t.host.semOwn = me ∧
        t = host (fun h => { h with semOwn := me, semErr := t.host.semErr })) ∧
      (val.toNat % 4 = 0 → h.semOwn = me → ∃ t, exec (.sem port val) s = .next t ∧ t.host.semOwn = 0) ∧
      (val.getLsbD 7 = true → ∃ t, exec (.sem port val) s = .next t ∧ t.host.semErr = false) ∧
      (h.semOwn ≠ me →
        (∀ i ∈ [Instr.flip port val, .portEnable port g, .vfEnable port ⟨vf, tgt⟩],
          exec i s = .next (host (fun h => { h with semErr := true })))) ∧
      (h.semOwn = me →
        (populated (val.toNat / 2 ^ 12 * 2 ^ 12) = true → exec (.flip port val) s = .next (host (fun h => { h with
          flips := h.flips ++ [⟨val.toNat / 2 ^ 12, val.getLsbD 0, val.getLsbD 1, false, true⟩] }))) ∧
        (populated (val.toNat / 2 ^ 12 * 2 ^ 12) = false →
          exec (.flip port val) s = .next (host (fun h => { h with semErr := true }))) ∧
        (∀ b : vf.toNat < 17, vf ≠ 0 →
          exec (.vfEnable port ⟨vf, tgt⟩) s = .next (host (fun h => { h with vfPort := h.vfPort.set vf.toNat (some tgt) b }))) ∧
        (∀ p, g = .host p → let left : Prop := ∃ l ∈ h.modified, behind g l = true
          (¬left ∨ h.down.getLsbD p.toNat = false →
            ∃ t, exec (.portEnable port g) s = .next t ∧ t.host.down.getLsbD p.toNat = false) ∧
          (left → h.down.getLsbD p.toNat = true → exec (.portEnable port g) s = .next s)))) ∧
    (s.reaches fn port = true → writesDone → let r := Tbl.getD h.lres key []
      let id (k : Nat) : Word := BitVec.ofNat 64 (2 ^ 32 + (s.slot k).gen.toNat * 2 ^ 10 + k)
      (16 ≤ r.length → ∃ t, exec (.launchRegister fn port die val) s = .next t ∧ t.slots = s.slots ∧
        Tbl.getD t.host.errlog fn.toNat 0 = Tbl.getD h.errlog fn.toNat 0 + 1) ∧
      (r.length < 16 → s.freeLaunchSlot = none → exec (.launchRegister fn port die val) s =
        .next (host (fun h => { h with lres := Tbl.put h.lres key (r ++ [BitVec.allOnes 64]) }))) ∧
      (∀ k, r.length < 16 → s.freeLaunchSlot = some k → val.toNat % 128 = 0 →
        (∀ s0 b s1 sc, s.readRecord none fn val = .done (s0, b) → s0.readSucc none fn b.head = .done (s1, sc) →
          (s1.recordFault fn val b = none ∨ s1.noticeWaits (die ++ 0#4) = none) →
          exec (.launchRegister fn port die val) s = .next ((s1.acceptLaunch k val fn die b sc).pushResult key (id k))) ∧
        (∀ f a l, s.readRecord none fn val = .fault f a → s.unreadLaunch val fn die = .done l → l.die = die →
          s.noticeWaits (die ++ 0#4) = none → exec (.launchRegister fn port die val) s =
            .next ((s.faultLaunch k l 2 a).pushResult key (id k)))) ∧
      (∀ k, r.length < 16 → s.freeLaunchSlot = some k → val.toNat % 128 ≠ 0 → s.noticeWaits (die ++ 0#4) = none →
        exec (.launchRegister fn port die val) s =
          .next ((s.faultLaunch k (Launch.bare val fn die s.accepts) 1 val).pushResult key (id k))) ∧
      (r = [] → exec (.lres fn port die) s = .next (host (fun h => { h with data := leBytes 8 0 }))) ∧
      (∀ w ws, r = w :: ws → exec (.lres fn port die) s =
        .next (host (fun h => { h with lres := Tbl.put h.lres key ws, data := leBytes 8 w.toNat }))) ∧
      (∀ l q, s.launchAt (off.toNat / 0x10000) = some l → l.tenant = fn → l.queue (off.toNat / 0x800 % 32) = some q →
        (off.toNat % 0x800 = 0x7F0 → (s.readBar2 fn port off.toNat 8).host.data = leBytes 8 q.status.toNat) ∧
        (l.state.isFinal = false →
          (off.toNat % 0x800 = 0x7F0 → data.length = 8 → leNat data = 1 → exec (.hostQueuePortWrite ⟨fn, port⟩ off data) s =
            .next (s.closeQueue (off.toNat / 0x10000) (off.toNat / 0x800 % 32))) ∧
          (off.toNat % 0x800 % 16 = 0 → off.toNat % 0x800 + 16 ≤ 0x7F0 → data.length = 16 →
            exec (.hostQueuePortWrite ⟨fn, port⟩ off data) s =
              .next (s.portEntry (.port port) (off.toNat / 0x10000) (off.toNat / 0x800 % 32) (BitVec.ofNat 128 (leNat data)))))) ∧
      (s.launchAt (off.toNat / 0x10000) = none → ∃ t, exec (.hostQueuePortWrite ⟨fn, port⟩ off data) s = .next t ∧
        t.slots = s.slots ∧ Tbl.getD t.host.errlog fn.toNat 0 = Tbl.getD h.errlog fn.toNat 0 + 1)) ∧
    (up → s.plat.admits = true →
      (deviceBytes pa.toNat data.length = true → (∀ q, g = .host q → s.holdsStore (.port q) = false) → BytesFree s pa.toNat data.length → Memory.wf memDefault s.mem = true →
        ∃ t, exec (.hxWrite g pa data) s = .next t ∧ Stored s t pa.toNat data) ∧
      (deviceBytes pa.toNat n.toNat = true → BytesFree s pa.toNat n.toNat →
        exec (.hxRead g pa n) s = .next (host (fun h => { h with data := s.bytes pa.toNat n.toNat })))) ∧
    (h.down.getLsbD port.toNat = false → s.plat.admits = true → populated pa.toNat = true → s.flipping (pa.toNat / 4096) = false →
      (s.biasOf (pa.toNat / 4096)).getLsbD 0 = true → s.owningLine line = false → h.snoops.contains line = false →
      s.rivals none line own = [] →
      (Tbl.find h.lines line = none ∨ (∃ x, Tbl.find h.lines line = some x ∧ x.granted = true) →
        ∃ t, exec (.hostCacheRequest port pa own) s = .next t ∧ t.mem = s.mem ∧ t.host.data = s.bytes (128 * line) 128 ∧
          Tbl.find t.host.lines line = some ⟨port, own, false, false⟩ ∧ (own = true → ∀ c, (t.core c).hasLine line = true →
            (s.dirOf line).st = .pipped)) ∧
      (∀ x, Tbl.find h.lines line = some x → x.granted = false → x.port ≠ port →
        exec (.hostCacheRequest port pa own) s = .next (s.snoop line true))) ∧
    (∀ x, Tbl.find h.lines line = some x → h.snoops.contains line = true → ∃ t, exec (.backInvalidationResponse pa data) s = .next t ∧
      (x.owned = false → t.mem = s.mem) ∧
      (x.owned = true → Memory.wf memDefault s.mem = true → Wrote s t (laid (line * 128) (data.take 128))) ∧
      (s.flipping (line / 32) = false → Tbl.find t.host.lines line =
        some (if h.snoopInv.contains line then { x with owned := false, granted := true }
          else { x with owned := false, shared := true }))) ∧
    (∀ f, s.flipOf page.toNat = some f → (let b := (h.biasBase.toNat + page.toNat / 4) / 128
        LineFree s b ∧ ∀ e ∈ s.txs, b ∉ e.2.rset ∧ b ∉ e.2.wset) →
      (f.bias = true → (∀ l < 32, s.owningLine (32 * page.toNat + l) = false ∧
          ((s.dirOf (32 * page.toNat + l)).st = .pipped → (s.dirOf (32 * page.toNat + l)).pending = false)) →
        ∃ t, exec (.flipDeviceToHost page) s = .next t ∧ t.biasOf page.toNat = (if f.auto then 3 else 1) ∧
          t.host.flipped = h.flipped + 1 ∧
          (DirSorted s → ∀ l < 32, (t.dirOf (32 * page.toNat + l)).st ≠ .pipped) ∧
          ∀ e ∈ t.txs, ∀ l < 32, 32 * page.toNat + l ∉ e.2.rset ∧ 32 * page.toNat + l ∉ e.2.wset) ∧
      (f.bias = false → (∀ l < 32, s.owningLine (32 * page.toNat + l) = false ∧
          Tbl.find h.lines (32 * page.toNat + l) = none) → (f.auto = true ∨ h.bias.Pairwise (fun p q => p.1 < q.1)) →
        ∃ t, exec (.flipHostToDevice page) s = .next t ∧ t.biasOf page.toNat = (if f.auto then 2 else 0) ∧
          t.host.flipped = h.flipped + 1)) ∧
    (∃ t, exec (.linkDown g) s = .next t ∧
      (∀ r ∈ t.owning, behind g (r.pa / 128) = false) ∧ (match g with
      | .host p => t.host.down.getLsbD p.toNat = true ∧ t.host.semOwn ≠ p.zeroExtend 2 + 1 ∧
          (∀ e ∈ t.host.lines, e.2.port ≠ p) ∧
          (h.modified.filter (behind g) = [] → t.mem = s.mem ∧ ∀ l ∈ t.host.modified, behind g l = false) ∧
          (∀ l, h.modified.filter (behind g) = [l] → let b := h.orphanBase.toNat
            let k := s.num b 8
            (k < h.orphanCap → l ∈ t.host.orphans) ∧ (h.orphanCap ≤ k → l ∉ t.host.orphans) ∧
            (s.txs = [] → (∀ m ∈ linesOf b 256 ++ linesOf (b + 0x100 + 256 * k) 256, LineFree s m ∧ foreign (m * 128) = false) →
              ∀ m ∈ t.host.modified, behind g m = false))
      | .peer k => t.host.peerDown.getLsbD k.toNat = true ∧ (∀ l ∈ t.host.modified, behind g l = false) ∧
          (Memory.wf memDefault s.mem = true → ∀ a, t.byte a =
            if a / 128 ∈ h.modified ∧ behind g (a / 128) = true then Config.hostByte a else s.byte a)))

/-- R54, R370, R381 to R385: firmware slots, measurements, quotes, power, the clock and resets. A management write of a port that
does not hold SEM is discarded and sets ERR. The fuses and the signature that a quote carries are free values (DESIGN CHOICE,
log 5); a failed commit that leaves its slot, firmware management without SEM until hosts are admitted, and a QUOTE write that
does nothing during a quote are the model's (DEDUCED, log 51), FWST busy while a slot is open and 0 after an abort too (DESIGN CHOICE,
log 51), PCAP a free value after a write outside 800 to 2,800 (DESIGN CHOICE, log 4), and the values that a reset leaves where the
spec states none are log 2's. A reset of 115 °C and above sets bit 0 of THERM, which survives it, and the device throttles. A
configuration request is answered with Retry Status until hosts are admitted, and accepted then. -/
def Obligations.PlatformSteps : Prop :=
  ∀ (s : State) (port slot : BitVec 1) (key body sig : List Byte) (ver w : Nat) (nonce : BitVec 512) (off : BitVec 16)
    (val : BitVec 64) (cels : BitVec 8) (fn : BitVec 5) (i : Fin 8) (dig : BitVec 512),
    let p := s.plat
    let plat (f : Platform → Platform) : State := { s with plat := f p }
    let posts : Prop := s.posts 0 port = true
    let may : Prop := posts ∧ s.host.semOwn = port.zeroExtend 2 + 1
    let managed : List Instr := [.fwOpenSlot port slot, .fwAbort port slot, .fwCommit port slot key body sig ver, .nonce port nonce,
      .quote port, .registerWrite port 0x218 val]
    (posts → s.host.semOwn ≠ port.zeroExtend 2 + 1 → ∀ i ∈ managed, exec i s = .next { s with host := { s.host with semErr := true } }) ∧
    (¬posts → p.admits = true → ∀ i ∈ managed, exec i s = .next s) ∧
    let x : FwSlot := ⟨key, body, sig, ver⟩
    let fails : Nat := if sha3 key ≠ Config.fuseKeyDigest then 1
      else if mlDsaVerify key (leBytes 64 (sha3 body).toNat) sig = false then 2 else if ver < p.rollback then 3 else 0
    ((p.admits = false ∨ may) →
      exec (.fwOpenSlot port slot) s = .next (plat (fun p => { p with opened := some (slot == 1), fwst := 2 ^ 63 })) ∧
      (p.opened = some (slot == 1) →
        exec (.fwAbort port slot) s = .next (plat (fun p => { p with opened := none, fwst := 0 })) ∧
        exec (.fwCommit port slot key body sig ver) s = .next (plat (fun p =>
          if fails ≠ 0 then { p with opened := none, fwst := BitVec.ofNat 64 fails }
          else { p with
            opened := none, fwst := 0, nextB := slot == 1, slotA := if slot = 1 then p.slotA else x
            slotB := if slot = 1 then x else p.slotB }))) ∧
      (p.opened ≠ some (slot == 1) → exec (.fwAbort port slot) s = .next s ∧
        exec (.fwCommit port slot key body sig ver) s = .next s)) ∧
    (may → p.qbusy = false →
      exec (.nonce port nonce) s = .next (plat (fun p => { p with nonce := nonce })) ∧
      exec (.quote port) s = .next (plat (fun p => { p with qbusy := true, qdone := false }))) ∧
    (may → p.qbusy = true → exec (.nonce port nonce) s = .next (plat (fun p => { p with nonceNext := some nonce }))) ∧
    (may → p.qbusy = true → exec (.quote port) s = .next s) ∧
    (p.qbusy = true →
      ∃ t, exec .quoteComplete s = .next t ∧ t = plat (fun p => { p with
          qbusy := false, qdone := true, qbuf := t.plat.qbuf, nonce := p.nonceNext.getD p.nonce, nonceNext := none }) ∧
        t.plat.qbuf.take 4 = leBytes 4 4627) ∧
    (p.stuck = false → s.side (.extend i dig) = plat (fun p => { p with
      meas := p.meas.set i.val (sha3 (leBytes 64 (p.meas[i.val]).toNat ++ leBytes 64 dig.toNat)) })) ∧
    (may → 800 ≤ val.toNat → val.toNat ≤ 2800 →
      exec (.registerWrite port 0x218 val) s = .next (plat (fun p => { p with pcap := val.truncate 16 }))) ∧
    (may → (val.toNat < 800 ∨ 2800 < val.toNat) → ∃ t, exec (.registerWrite port 0x218 val) s = .next t ∧
      t = { s with freeCtr := t.freeCtr, plat := { p with pcap := t.plat.pcap } }) ∧
    (off ≠ 0x218 → exec (.registerWrite port off val) s = .next s) ∧
    s.side (.configRequest fn port) = { s with host := { s.host with config := some (if p.admits then .accepted else .retry) } } ∧
    (115 ≤ cels.toNat → ∃ t, exec (.thermalTrip cels) s = .next t ∧ t.plat.celsius = cels ∧ t.plat.tripped = true ∧
      t.plat.withheld = true ∧ (t.bar0Word 0 0x220 = BitVec.ofNat 64 (cels.toNat * 256 + 3))) ∧
    (∀ i ∈ [Instr.powerOnReset, .functionLevelReset 0], ∃ t, exec i s = .next t ∧ t.plat.tripped = false) ∧
    exec (.powerWindow w) s = .next (plat (fun p => { p with withheld := decide (p.pcap.toNat < w) || decide (105 ≤ p.celsius.toNat) })) ∧
    (cels.toNat < 115 → ∃ t, exec (.thermalThrottle cels) s = .next t ∧ t.plat.celsius = cels ∧
      (105 ≤ cels.toNat → t.plat.withheld = true)) ∧
    exec .clockTick s = .next { s with clock := s.clock + 1 } ∧
    (let reset (i : Instr) : Prop := ∃ t, exec i s = .next t ∧ (∀ u : Tid, t.ctx u = State.reset.ctx u) ∧
       (∀ c, t.core c = State.reset.core c) ∧ t.clock = 0 ∧ t.dir = [] ∧ t.l2 = [] ∧ t.owning = [] ∧ t.txs = [] ∧ t.slots = [] ∧
       t.host = State.reset.host ∧ t.plat.admits = false ∧
       t.plat.slotA = p.slotA ∧ t.plat.slotB = p.slotB ∧ t.plat.rollback = p.rollback ∧
       (∀ a, foreign a = false → t.byte a = State.reset.byte a)
     reset .powerOnReset ∧ reset (.functionLevelReset 0) ∧ (115 ≤ cels.toNat → reset (.thermalTrip cels))) ∧
    (let gone : Prop := (∀ u : Tid, ((s.ctx u).tenant = fn → (s.ctx u).run = .free) ∧ (s.ctx u).parked = [] ∧
         ∀ n : Fin 16, ((s.ctx u).groups[n]).tenant = fn → ((s.ctx u).groups[n]).isOpen = false) ∧ s.owning = [] ∧
       ∀ q ∈ s.slots, ∀ l, q.2.launch = some l → l.state.isFinal = true
     let done_ (t : State) : Prop := Tbl.find p.flr fn.toNat = none ∨ p.flr.Pairwise (fun p q => p.1 < q.1) →
       Tbl.find t.plat.flr fn.toNat = none ∧ (∀ u : Tid, (s.ctx u).tenant = fn → (t.ctx u).board = none ∧ (t.ctx u).isHeld = false) ∧
       (∀ (c : BitVec 6) (h : BitVec 6), ((s.core c).handle h).buf.isSome = true → ((s.core c).handle h).ten = fn →
         (t.core c).handle h = Handle.reset) ∧
       (∀ c : BitVec 6, (s.core c).owner = some fn → (t.core c).owner = none ∧ (t.core c).front = ⟨none, none⟩ ∧
         (t.core c).shadow = ⟨none, none⟩) ∧ t.mem = s.mem
     (1 ≤ fn.toNat → fn.toNat ≤ 16 → gone → ∃ t, exec (.functionLevelReset fn) s = .next t ∧ done_ t) ∧
     (∀ at_, Tbl.find p.flr fn.toNat = some at_ → at_ + 100000 ≤ s.clock.toNat → gone →
       ∃ t, exec (.functionLevelResetTimeout fn) s = .next t ∧ done_ t))

/-! ### What every step keeps -/

/-- R52 and the canonical forms of memory: from every safe state, of which memory, buffers and the directory keep their
canonical forms and no context's vl is above VLMAX, a step leads to a safe state. -/
def Obligations.EveryStepKeepsSafe : Prop := ∀ s t : State, Safe s → step s = .next t → Safe t

/-- R381, R52: the state after reset is safe: every context is free, no launch or transaction exists, every handle is FREE and
names no region, every count is 0, every pip group is closed and the directory is empty. That contexts are free and the directory
is empty is the model's (DESIGN CHOICE, log 2), and so are the bytes of memory (log 3). -/
def Obligations.ResetIsSafe : Prop :=
  Safe State.reset ∧ State.reset.clock = 0 ∧ State.reset.txs = [] ∧ State.reset.slots = [] ∧ State.reset.dir = [] ∧
  State.reset.mem = [] ∧ State.reset.l2 = [] ∧
  (∀ c h : BitVec 6, ((State.reset.core c).handle h).st = .free ∧ ((State.reset.core c).handle h).buf = none) ∧
  ∀ u : Tid, let c := State.reset.ctx u
    c.run = .free ∧ c.txa = false ∧ c.vl = 0 ∧ c.ld = 0 ∧ c.st = 0 ∧ c.cp = 0 ∧ c.mx = 0 ∧ c.fx = 0 ∧ c.xfers = [] ∧ c.mxJobs = [] ∧
    c.inv = none ∧ c.board = none ∧ ∀ n : Fin 8, c.groups[n].isOpen = false

end Statements
end

