-- ==== Sys2Proof/Laws/Bits.lean ====
section
/-! SUPPORT. The fields of words that are built by concatenation, and words rebuilt from their fields. -/

namespace Sys2Proof

/-- A field that lies in the low part. -/
theorem ex_lo {n m : Nat} (x : BitVec n) (y : BitVec m) (s l : Nat) (h : s + l ≤ m) :
    (x ++ y).extractLsb' s l = y.extractLsb' s l := BitVec.extractLsb'_append_eq_of_add_le h

/-- A field that lies in the high part. -/
theorem ex_hi {n m : Nat} (x : BitVec n) (y : BitVec m) (s l : Nat) (h : m ≤ s) :
    (x ++ y).extractLsb' s l = x.extractLsb' (s - m) l := BitVec.extractLsb'_append_eq_of_le h

/-- The whole of a vector. -/
theorem ex_all {n : Nat} (x : BitVec n) : x.extractLsb' 0 n = x := by simp

/-- A field of a constant. -/
theorem ex_const {n : Nat} (x s l : Nat) : (BitVec.ofNat n x).extractLsb' s l = BitVec.ofNat l (x % 2 ^ n / 2 ^ s) := by
  apply BitVec.eq_of_toNat_eq
  simp [Nat.shiftRight_eq_div_pow]

/-- A decoder's fields are the answer when the instruction is well formed. -/
theorem decode_of_fields {w w2 : BitVec 32} {i : Instr} (h : decodeFields w w2 = .ok i) (hi : i.ill = none) :
    decode w w2 = .ok i := by
  simp [decode, h, hi]

end Sys2Proof
end

