-- ==== Sys2Proof/Laws/Mem.lean ====
section
/-! SUPPORT. Sparse memories and tables: every operation keeps the canonical form, a read gives what the last write of
its address left, and equal contents are equal data. -/

namespace Sys2Proof.Machine

variable {d : Nat → Byte}

theorem wfAbove_mono {m : Memory} : ∀ {lo lo' : Nat}, lo' ≤ lo → Memory.wfAbove d lo m = true →
    Memory.wfAbove d lo' m = true := by
  intro lo lo' h hw
  cases m with
  | nil => rfl
  | cons p m =>
    simp only [Memory.wfAbove, Bool.and_eq_true, decide_eq_true_eq, bne_iff_ne] at *
    exact ⟨⟨h.trans hw.1.1, hw.1.2⟩, hw.2⟩

/-- An address below every listed one reads as the default. -/
theorem read_below {m : Memory} : ∀ {lo a : Nat}, Memory.wfAbove d lo m = true → a < lo → Memory.read d m a = d a := by
  intro lo a hw ha
  cases m with
  | nil => rfl
  | cons p m =>
    simp only [Memory.wfAbove, Bool.and_eq_true, decide_eq_true_eq] at hw
    simp [Memory.read, Nat.lt_of_lt_of_le ha hw.1.1]

theorem write_wfAbove {m : Memory} (a : Nat) (v : Byte) : ∀ {lo : Nat}, lo ≤ a → Memory.wfAbove d lo m = true →
    Memory.wfAbove d lo (Memory.write d m a v) = true := by
  induction m with
  | nil =>
    intro lo h _
    unfold Memory.write
    split
    · rfl
    · simp_all [Memory.wfAbove]
  | cons p m ih =>
    intro lo h hw
    obtain ⟨k, x⟩ := p
    simp only [Memory.wfAbove, Bool.and_eq_true, decide_eq_true_eq, bne_iff_ne] at hw
    obtain ⟨⟨h1, h2⟩, h3⟩ := hw
    unfold Memory.write
    split
    · rename_i hlt
      split
      · simp [Memory.wfAbove, h1, h2, h3]
      · simp [Memory.wfAbove, *]
    · split
      · subst_vars
        split
        · exact wfAbove_mono (by omega) h3
        · simp [Memory.wfAbove, *]
      · simp only [Memory.wfAbove, Bool.and_eq_true, decide_eq_true_eq, bne_iff_ne]
        exact ⟨⟨h1, h2⟩, ih (by omega) h3⟩

/-- A write of one byte keeps the canonical form. -/
theorem write_wf {m : Memory} (a : Nat) (v : Byte) (h : Memory.wf d m = true) :
    Memory.wf d (Memory.write d m a v) = true := write_wfAbove a v (Nat.zero_le a) h

/-- A write of several bytes keeps the canonical form. -/
theorem writeBytes_wf (bs : List Byte) : ∀ {m : Memory} (a : Nat), Memory.wf d m = true →
    Memory.wf d (Memory.writeBytes d m a bs) = true := by
  induction bs with
  | nil => exact fun _ h => h
  | cons b bs ih => exact fun a h => ih (a + 1) (write_wf a b h)

/-- Clearing a range keeps the canonical form. -/
theorem clear_wf (n : Nat) : ∀ {m : Memory} (a : Nat), Memory.wf d m = true →
    Memory.wf d (Memory.clear d m a n) = true := by
  induction n with
  | zero => exact fun _ h => h
  | succ n ih => exact fun a h => ih (a + 1) (write_wf a (d a) h)

theorem writeNat_wf {m : Memory} (a n x : Nat) (h : Memory.wf d m = true) :
    Memory.wf d (Memory.writeNat d m a n x) = true := writeBytes_wf _ a h

theorem read_write_above {m : Memory} (a : Nat) (v : Byte) : ∀ {lo : Nat}, Memory.wfAbove d lo m = true →
    Memory.read d (Memory.write d m a v) a = v := by
  induction m with
  | nil =>
    intro lo _
    unfold Memory.write
    split
    · simp_all [Memory.read]
    · simp [Memory.read]
  | cons p m ih =>
    intro lo hw
    obtain ⟨k, x⟩ := p
    simp only [Memory.wfAbove, Bool.and_eq_true, decide_eq_true_eq, bne_iff_ne] at hw
    unfold Memory.write
    split
    · rename_i hlt
      split
      · simp_all [Memory.read]
      · simp [Memory.read]
    · split
      · subst_vars
        split
        · rename_i hv
          rw [hv]
          exact read_below hw.2 (Nat.lt_succ_self _)
        · simp [Memory.read]
      · simp only [Memory.read, if_neg, *, not_false_eq_true]
        exact ih hw.2

/-- A read gives the byte last written to its address. -/
theorem read_write_same {m : Memory} (a : Nat) (v : Byte) (h : Memory.wf d m = true) :
    Memory.read d (Memory.write d m a v) a = v := read_write_above a v h

/-- A write leaves every other address alone. -/
theorem read_write_ne {m : Memory} (a b : Nat) (v : Byte) (h : b ≠ a) : ∀ {lo : Nat},
    Memory.wfAbove d lo m = true → Memory.read d (Memory.write d m a v) b = Memory.read d m b := by
  induction m with
  | nil =>
    intro lo _
    unfold Memory.write
    split
    · rfl
    · simp [Memory.read, h]
  | cons p m ih =>
    intro lo hw
    obtain ⟨k, x⟩ := p
    simp only [Memory.wfAbove, Bool.and_eq_true, decide_eq_true_eq, bne_iff_ne] at hw
    unfold Memory.write
    split
    · rename_i hlt
      split
      · rfl
      · simp only [Memory.read]
        by_cases h1 : b < a
        · rw [if_pos h1, if_pos (by omega)]
        · rw [if_neg h1, if_neg h]
    · split
      · subst_vars
        split
        · simp only [Memory.read, if_neg h]
          by_cases h1 : b < k
          · rw [if_pos h1]
            exact read_below hw.2 (by omega)
          · rw [if_neg h1]
        · simp [Memory.read, h]
      · simp only [Memory.read]
        split
        · rfl
        · split
          · rfl
          · exact ih hw.2

/-- Bytes read where bytes have been written, inside and outside. -/
theorem read_writeBytes (bs : List Byte) : ∀ {m : Memory} (a b : Nat), Memory.wf d m = true →
    Memory.read d (Memory.writeBytes d m a bs) b =
      if a ≤ b ∧ b < a + bs.length then bs.getD (b - a) 0 else Memory.read d m b := by
  induction bs with
  | nil => intro m a b _; simp [Memory.writeBytes]
  | cons x bs ih =>
    intro m a b h
    rw [Memory.writeBytes, ih (a + 1) b (write_wf a x h)]
    by_cases hb : b = a
    · subst hb
      rw [if_neg (by omega), if_pos (by simp)]
      simp [read_write_same b x h]
    · rw [read_write_ne a b x hb h]
      by_cases h2 : a ≤ b ∧ b < a + (x :: bs).length
      · have h3 : a + 1 ≤ b ∧ b < a + 1 + bs.length := by simp at h2; omega
        rw [if_pos h2, if_pos h3]
        have : b - a = (b - (a + 1)) + 1 := by omega
        simp [this]
      · have h3 : ¬ (a + 1 ≤ b ∧ b < a + 1 + bs.length) := by simp at h2; omega
        rw [if_neg h2, if_neg h3]

theorem readBytes_length (m : Memory) (n : Nat) : ∀ a, (Memory.readBytes d m a n).length = n := by
  induction n with
  | zero => intro a; rfl
  | succ n ih => intro a; simp [Memory.readBytes, ih]

theorem readBytes_get (m : Memory) (n : Nat) : ∀ a i, i < n →
    (Memory.readBytes d m a n)[i]? = some (Memory.read d m (a + i)) := by
  induction n with
  | zero => intro a i h; omega
  | succ n ih =>
    intro a i h
    cases i with
    | zero => simp [Memory.readBytes]
    | succ i =>
      simp only [Memory.readBytes, List.getElem?_cons_succ]
      rw [ih (a + 1) i (by omega)]
      congr 2
      omega

/-- The bytes read where they have just been written. -/
theorem readBytes_writeBytes (m : Memory) (a : Nat) (bs : List Byte) (h : Memory.wf d m = true) :
    Memory.readBytes d (Memory.writeBytes d m a bs) a bs.length = bs := by
  apply List.ext_getElem?
  intro i
  by_cases hi : i < bs.length
  · rw [readBytes_get _ _ _ _ hi, read_writeBytes bs a (a + i) h, if_pos (by omega)]
    simp [hi]
  · rw [List.getElem?_eq_none (by rw [readBytes_length]; omega), List.getElem?_eq_none (by omega)]

/-- Equal contents are equal data: two memories in canonical form that read alike are the same list. -/
theorem memory_ext {m : Memory} : ∀ {n : Memory} {lo : Nat}, Memory.wfAbove d lo m = true → Memory.wfAbove d lo n = true →
    (∀ a, Memory.read d m a = Memory.read d n a) → m = n := by
  induction m with
  | nil =>
    intro n lo _ hn h
    cases n with
    | nil => rfl
    | cons p n =>
      simp only [Memory.wfAbove, Bool.and_eq_true, decide_eq_true_eq, bne_iff_ne] at hn
      have := h p.1
      simp [Memory.read] at this
      exact absurd this.symm hn.1.2
  | cons p m ih =>
    intro n lo hm hn h
    have hm' := hm
    simp only [Memory.wfAbove, Bool.and_eq_true, decide_eq_true_eq, bne_iff_ne] at hm
    cases n with
    | nil =>
      have := h p.1
      simp [Memory.read] at this
      exact absurd this hm.1.2
    | cons q n =>
      have hn' := hn
      simp only [Memory.wfAbove, Bool.and_eq_true, decide_eq_true_eq, bne_iff_ne] at hn
      obtain ⟨k, x⟩ := p
      obtain ⟨l, y⟩ := q
      have hkl : k = l := by
        rcases Nat.lt_trichotomy k l with hlt | he | hlt
        · have := h k
          simp [Memory.read, hlt] at this
          exact absurd this hm.1.2
        · exact he
        · have := h l
          simp [Memory.read, hlt] at this
          exact absurd this.symm hn.1.2
      subst hkl
      have hxy : x = y := by simpa [Memory.read] using h k
      subst hxy
      congr 1
      refine ih hm.2 hn.2 (fun a => ?_)
      by_cases ha : a ≤ k
      · rw [read_below hm.2 (by omega), read_below hn.2 (by omega)]
      · have := h a
        simpa [Memory.read, show ¬ a < k by omega, show a ≠ k by omega] using this

/-! ### Numbers and bytes -/

theorem leBytes_length (n : Nat) : ∀ x, (leBytes n x).length = n := by
  induction n with
  | zero => intro x; rfl
  | succ n ih => intro x; simp [leBytes, ih]

/-- The number of n bytes of x is x modulo 256^n. -/
theorem leNat_leBytes (n : Nat) : ∀ x, leNat (leBytes n x) = x % 256 ^ n := by
  induction n with
  | zero => intro x; simp [leBytes, leNat, Nat.mod_one]
  | succ n ih =>
    intro x
    have h : 256 ^ (n + 1) = 256 * 256 ^ n := by rw [Nat.pow_succ, Nat.mul_comm]
    rw [h, Nat.mod_mul, leBytes, leNat, ih, BitVec.toNat_ofNat]

theorem leNat_lt (bs : List Byte) : leNat bs < 256 ^ bs.length := by
  induction bs with
  | nil => simp [leNat]
  | cons b bs ih =>
    simp only [leNat, List.length_cons, Nat.pow_succ]
    have := b.isLt
    omega

/-! ### Tables -/

theorem find_put_same {α : Type} (t : Tbl α) (k : Nat) (x : α) : Tbl.find (Tbl.put t k x) k = some x := by
  induction t with
  | nil => simp [Tbl.put, Tbl.find]
  | cons p t ih =>
    obtain ⟨j, y⟩ := p
    simp only [Tbl.put]
    split
    · simp [Tbl.find]
    · split
      · simp [Tbl.find]
      · simp [Tbl.find, *]

theorem find_put_ne {α : Type} (t : Tbl α) {k l : Nat} (x : α) (h : l ≠ k) :
    Tbl.find (Tbl.put t k x) l = Tbl.find t l := by
  induction t with
  | nil => simp [Tbl.put, Tbl.find, h]
  | cons p t ih =>
    obtain ⟨j, y⟩ := p
    simp only [Tbl.put]
    split
    · simp only [Tbl.find, h, if_false]
      by_cases h1 : l < k
      · rw [if_pos h1, if_pos (by omega)]
      · rw [if_neg h1]
    · split
      · subst_vars
        simp [Tbl.find, h]
      · simp only [Tbl.find, ih]

end Sys2Proof.Machine
end

