-- ==== Sys2Proof/Laws/PerInstr.lean ====
section
/-! SUPPORT. The round trip, one lemma per constructor: a well-formed instruction of a thread decodes from its own
words; the steps of the other agents have no words. -/

set_option linter.unusedSimpArgs false
set_option linter.unusedTactic false
set_option linter.unreachableTactic false

namespace Sys2Proof

/-- What the round trip says of one instruction. -/
def Laws.RoundTrip.Statement (i : Instr) : Prop :=
  i.WellFormed →
    match encode i with
    | some w => agentStep i = false ∧ decode w.first w.second = .ok i
    | none => agentStep i = true

theorem Laws.RoundTrip.add (d : BitVec 5) (a : BitVec 5) (b : BitVec 5) : Laws.RoundTrip.Statement (.add d a b) := by
  intro h
  refine ⟨rfl, decode_of_fields ?_ h⟩
  simp (disch := decide) only [decodeFields, Words.first, Words.second, decodeAlu, zeroFields, zeroFieldsThen, fOp, fFn, fD, fA, fB, fImm16, fDisp21, fW, fImm13, fScopeM, fM, fK, fT, fS, ex_lo, ex_hi, ex_all, ex_const, Nat.reduceSub, BitVec.toNat_ofNat, Nat.reducePow, Nat.reduceMod, beq_self_eq_true, Bool.and_self, if_true] <;> rfl
theorem Laws.RoundTrip.sub (d : BitVec 5) (a : BitVec 5) (b : BitVec 5) : Laws.RoundTrip.Statement (.sub d a b) := by
  intro h
  refine ⟨rfl, decode_of_fields ?_ h⟩
  simp (disch := decide) only [decodeFields, Words.first, Words.second, decodeAlu, zeroFields, zeroFieldsThen, fOp, fFn, fD, fA, fB, fImm16, fDisp21, fW, fImm13, fScopeM, fM, fK, fT, fS, ex_lo, ex_hi, ex_all, ex_const, Nat.reduceSub, BitVec.toNat_ofNat, Nat.reducePow, Nat.reduceMod, beq_self_eq_true, Bool.and_self, if_true] <;> rfl
theorem Laws.RoundTrip.and (d : BitVec 5) (a : BitVec 5) (b : BitVec 5) : Laws.RoundTrip.Statement (.and d a b) := by
  intro h
  refine ⟨rfl, decode_of_fields ?_ h⟩
  simp (disch := decide) only [decodeFields, Words.first, Words.second, decodeAlu, zeroFields, zeroFieldsThen, fOp, fFn, fD, fA, fB, fImm16, fDisp21, fW, fImm13, fScopeM, fM, fK, fT, fS, ex_lo, ex_hi, ex_all, ex_const, Nat.reduceSub, BitVec.toNat_ofNat, Nat.reducePow, Nat.reduceMod, beq_self_eq_true, Bool.and_self, if_true] <;> rfl
theorem Laws.RoundTrip.or (d : BitVec 5) (a : BitVec 5) (b : BitVec 5) : Laws.RoundTrip.Statement (.or d a b) := by
  intro h
  refine ⟨rfl, decode_of_fields ?_ h⟩
  simp (disch := decide) only [decodeFields, Words.first, Words.second, decodeAlu, zeroFields, zeroFieldsThen, fOp, fFn, fD, fA, fB, fImm16, fDisp21, fW, fImm13, fScopeM, fM, fK, fT, fS, ex_lo, ex_hi, ex_all, ex_const, Nat.reduceSub, BitVec.toNat_ofNat, Nat.reducePow, Nat.reduceMod, beq_self_eq_true, Bool.and_self, if_true] <;> rfl
theorem Laws.RoundTrip.xor (d : BitVec 5) (a : BitVec 5) (b : BitVec 5) : Laws.RoundTrip.Statement (.xor d a b) := by
  intro h
  refine ⟨rfl, decode_of_fields ?_ h⟩
  simp (disch := decide) only [decodeFields, Words.first, Words.second, decodeAlu, zeroFields, zeroFieldsThen, fOp, fFn, fD, fA, fB, fImm16, fDisp21, fW, fImm13, fScopeM, fM, fK, fT, fS, ex_lo, ex_hi, ex_all, ex_const, Nat.reduceSub, BitVec.toNat_ofNat, Nat.reducePow, Nat.reduceMod, beq_self_eq_true, Bool.and_self, if_true] <;> rfl
theorem Laws.RoundTrip.andn (d : BitVec 5) (a : BitVec 5) (b : BitVec 5) : Laws.RoundTrip.Statement (.andn d a b) := by
  intro h
  refine ⟨rfl, decode_of_fields ?_ h⟩
  simp (disch := decide) only [decodeFields, Words.first, Words.second, decodeAlu, zeroFields, zeroFieldsThen, fOp, fFn, fD, fA, fB, fImm16, fDisp21, fW, fImm13, fScopeM, fM, fK, fT, fS, ex_lo, ex_hi, ex_all, ex_const, Nat.reduceSub, BitVec.toNat_ofNat, Nat.reducePow, Nat.reduceMod, beq_self_eq_true, Bool.and_self, if_true] <;> rfl
theorem Laws.RoundTrip.sll (d : BitVec 5) (a : BitVec 5) (b : BitVec 5) : Laws.RoundTrip.Statement (.sll d a b) := by
  intro h
  refine ⟨rfl, decode_of_fields ?_ h⟩
  simp (disch := decide) only [decodeFields, Words.first, Words.second, decodeAlu, zeroFields, zeroFieldsThen, fOp, fFn, fD, fA, fB, fImm16, fDisp21, fW, fImm13, fScopeM, fM, fK, fT, fS, ex_lo, ex_hi, ex_all, ex_const, Nat.reduceSub, BitVec.toNat_ofNat, Nat.reducePow, Nat.reduceMod, beq_self_eq_true, Bool.and_self, if_true] <;> rfl
theorem Laws.RoundTrip.srl (d : BitVec 5) (a : BitVec 5) (b : BitVec 5) : Laws.RoundTrip.Statement (.srl d a b) := by
  intro h
  refine ⟨rfl, decode_of_fields ?_ h⟩
  simp (disch := decide) only [decodeFields, Words.first, Words.second, decodeAlu, zeroFields, zeroFieldsThen, fOp, fFn, fD, fA, fB, fImm16, fDisp21, fW, fImm13, fScopeM, fM, fK, fT, fS, ex_lo, ex_hi, ex_all, ex_const, Nat.reduceSub, BitVec.toNat_ofNat, Nat.reducePow, Nat.reduceMod, beq_self_eq_true, Bool.and_self, if_true] <;> rfl
theorem Laws.RoundTrip.sra (d : BitVec 5) (a : BitVec 5) (b : BitVec 5) : Laws.RoundTrip.Statement (.sra d a b) := by
  intro h
  refine ⟨rfl, decode_of_fields ?_ h⟩
  simp (disch := decide) only [decodeFields, Words.first, Words.second, decodeAlu, zeroFields, zeroFieldsThen, fOp, fFn, fD, fA, fB, fImm16, fDisp21, fW, fImm13, fScopeM, fM, fK, fT, fS, ex_lo, ex_hi, ex_all, ex_const, Nat.reduceSub, BitVec.toNat_ofNat, Nat.reducePow, Nat.reduceMod, beq_self_eq_true, Bool.and_self, if_true] <;> rfl
theorem Laws.RoundTrip.slt (d : BitVec 5) (a : BitVec 5) (b : BitVec 5) : Laws.RoundTrip.Statement (.slt d a b) := by
  intro h
  refine ⟨rfl, decode_of_fields ?_ h⟩
  simp (disch := decide) only [decodeFields, Words.first, Words.second, decodeAlu, zeroFields, zeroFieldsThen, fOp, fFn, fD, fA, fB, fImm16, fDisp21, fW, fImm13, fScopeM, fM, fK, fT, fS, ex_lo, ex_hi, ex_all, ex_const, Nat.reduceSub, BitVec.toNat_ofNat, Nat.reducePow, Nat.reduceMod, beq_self_eq_true, Bool.and_self, if_true] <;> rfl
theorem Laws.RoundTrip.sltu (d : BitVec 5) (a : BitVec 5) (b : BitVec 5) : Laws.RoundTrip.Statement (.sltu d a b) := by
  intro h
  refine ⟨rfl, decode_of_fields ?_ h⟩
  simp (disch := decide) only [decodeFields, Words.first, Words.second, decodeAlu, zeroFields, zeroFieldsThen, fOp, fFn, fD, fA, fB, fImm16, fDisp21, fW, fImm13, fScopeM, fM, fK, fT, fS, ex_lo, ex_hi, ex_all, ex_const, Nat.reduceSub, BitVec.toNat_ofNat, Nat.reducePow, Nat.reduceMod, beq_self_eq_true, Bool.and_self, if_true] <;> rfl
theorem Laws.RoundTrip.min (d : BitVec 5) (a : BitVec 5) (b : BitVec 5) : Laws.RoundTrip.Statement (.min d a b) := by
  intro h
  refine ⟨rfl, decode_of_fields ?_ h⟩
  simp (disch := decide) only [decodeFields, Words.first, Words.second, decodeAlu, zeroFields, zeroFieldsThen, fOp, fFn, fD, fA, fB, fImm16, fDisp21, fW, fImm13, fScopeM, fM, fK, fT, fS, ex_lo, ex_hi, ex_all, ex_const, Nat.reduceSub, BitVec.toNat_ofNat, Nat.reducePow, Nat.reduceMod, beq_self_eq_true, Bool.and_self, if_true] <;> rfl
theorem Laws.RoundTrip.max (d : BitVec 5) (a : BitVec 5) (b : BitVec 5) : Laws.RoundTrip.Statement (.max d a b) := by
  intro h
  refine ⟨rfl, decode_of_fields ?_ h⟩
  simp (disch := decide) only [decodeFields, Words.first, Words.second, decodeAlu, zeroFields, zeroFieldsThen, fOp, fFn, fD, fA, fB, fImm16, fDisp21, fW, fImm13, fScopeM, fM, fK, fT, fS, ex_lo, ex_hi, ex_all, ex_const, Nat.reduceSub, BitVec.toNat_ofNat, Nat.reducePow, Nat.reduceMod, beq_self_eq_true, Bool.and_self, if_true] <;> rfl
theorem Laws.RoundTrip.minu (d : BitVec 5) (a : BitVec 5) (b : BitVec 5) : Laws.RoundTrip.Statement (.minu d a b) := by
  intro h
  refine ⟨rfl, decode_of_fields ?_ h⟩
  simp (disch := decide) only [decodeFields, Words.first, Words.second, decodeAlu, zeroFields, zeroFieldsThen, fOp, fFn, fD, fA, fB, fImm16, fDisp21, fW, fImm13, fScopeM, fM, fK, fT, fS, ex_lo, ex_hi, ex_all, ex_const, Nat.reduceSub, BitVec.toNat_ofNat, Nat.reducePow, Nat.reduceMod, beq_self_eq_true, Bool.and_self, if_true] <;> rfl
theorem Laws.RoundTrip.maxu (d : BitVec 5) (a : BitVec 5) (b : BitVec 5) : Laws.RoundTrip.Statement (.maxu d a b) := by
  intro h
  refine ⟨rfl, decode_of_fields ?_ h⟩
  simp (disch := decide) only [decodeFields, Words.first, Words.second, decodeAlu, zeroFields, zeroFieldsThen, fOp, fFn, fD, fA, fB, fImm16, fDisp21, fW, fImm13, fScopeM, fM, fK, fT, fS, ex_lo, ex_hi, ex_all, ex_const, Nat.reduceSub, BitVec.toNat_ofNat, Nat.reducePow, Nat.reduceMod, beq_self_eq_true, Bool.and_self, if_true] <;> rfl
theorem Laws.RoundTrip.clz (d : BitVec 5) (a : BitVec 5) : Laws.RoundTrip.Statement (.clz d a) := by
  intro h
  refine ⟨rfl, decode_of_fields ?_ h⟩
  simp (disch := decide) only [decodeFields, Words.first, Words.second, decodeAlu, zeroFields, zeroFieldsThen, fOp, fFn, fD, fA, fB, fImm16, fDisp21, fW, fImm13, fScopeM, fM, fK, fT, fS, ex_lo, ex_hi, ex_all, ex_const, Nat.reduceSub, BitVec.toNat_ofNat, Nat.reducePow, Nat.reduceMod, beq_self_eq_true, Bool.and_self, if_true] <;> rfl
theorem Laws.RoundTrip.ctz (d : BitVec 5) (a : BitVec 5) : Laws.RoundTrip.Statement (.ctz d a) := by
  intro h
  refine ⟨rfl, decode_of_fields ?_ h⟩
  simp (disch := decide) only [decodeFields, Words.first, Words.second, decodeAlu, zeroFields, zeroFieldsThen, fOp, fFn, fD, fA, fB, fImm16, fDisp21, fW, fImm13, fScopeM, fM, fK, fT, fS, ex_lo, ex_hi, ex_all, ex_const, Nat.reduceSub, BitVec.toNat_ofNat, Nat.reducePow, Nat.reduceMod, beq_self_eq_true, Bool.and_self, if_true] <;> rfl
theorem Laws.RoundTrip.pop (d : BitVec 5) (a : BitVec 5) : Laws.RoundTrip.Statement (.pop d a) := by
  intro h
  refine ⟨rfl, decode_of_fields ?_ h⟩
  simp (disch := decide) only [decodeFields, Words.first, Words.second, decodeAlu, zeroFields, zeroFieldsThen, fOp, fFn, fD, fA, fB, fImm16, fDisp21, fW, fImm13, fScopeM, fM, fK, fT, fS, ex_lo, ex_hi, ex_all, ex_const, Nat.reduceSub, BitVec.toNat_ofNat, Nat.reducePow, Nat.reduceMod, beq_self_eq_true, Bool.and_self, if_true] <;> rfl
theorem Laws.RoundTrip.sextB (d : BitVec 5) (a : BitVec 5) : Laws.RoundTrip.Statement (.sextB d a) := by
  intro h
  refine ⟨rfl, decode_of_fields ?_ h⟩
  simp (disch := decide) only [decodeFields, Words.first, Words.second, decodeAlu, zeroFields, zeroFieldsThen, fOp, fFn, fD, fA, fB, fImm16, fDisp21, fW, fImm13, fScopeM, fM, fK, fT, fS, ex_lo, ex_hi, ex_all, ex_const, Nat.reduceSub, BitVec.toNat_ofNat, Nat.reducePow, Nat.reduceMod, beq_self_eq_true, Bool.and_self, if_true] <;> rfl
theorem Laws.RoundTrip.sextH (d : BitVec 5) (a : BitVec 5) : Laws.RoundTrip.Statement (.sextH d a) := by
  intro h
  refine ⟨rfl, decode_of_fields ?_ h⟩
  simp (disch := decide) only [decodeFields, Words.first, Words.second, decodeAlu, zeroFields, zeroFieldsThen, fOp, fFn, fD, fA, fB, fImm16, fDisp21, fW, fImm13, fScopeM, fM, fK, fT, fS, ex_lo, ex_hi, ex_all, ex_const, Nat.reduceSub, BitVec.toNat_ofNat, Nat.reducePow, Nat.reduceMod, beq_self_eq_true, Bool.and_self, if_true] <;> rfl
theorem Laws.RoundTrip.sextW (d : BitVec 5) (a : BitVec 5) : Laws.RoundTrip.Statement (.sextW d a) := by
  intro h
  refine ⟨rfl, decode_of_fields ?_ h⟩
  simp (disch := decide) only [decodeFields, Words.first, Words.second, decodeAlu, zeroFields, zeroFieldsThen, fOp, fFn, fD, fA, fB, fImm16, fDisp21, fW, fImm13, fScopeM, fM, fK, fT, fS, ex_lo, ex_hi, ex_all, ex_const, Nat.reduceSub, BitVec.toNat_ofNat, Nat.reducePow, Nat.reduceMod, beq_self_eq_true, Bool.and_self, if_true] <;> rfl
theorem Laws.RoundTrip.zextW (d : BitVec 5) (a : BitVec 5) : Laws.RoundTrip.Statement (.zextW d a) := by
  intro h
  refine ⟨rfl, decode_of_fields ?_ h⟩
  simp (disch := decide) only [decodeFields, Words.first, Words.second, decodeAlu, zeroFields, zeroFieldsThen, fOp, fFn, fD, fA, fB, fImm16, fDisp21, fW, fImm13, fScopeM, fM, fK, fT, fS, ex_lo, ex_hi, ex_all, ex_const, Nat.reduceSub, BitVec.toNat_ofNat, Nat.reducePow, Nat.reduceMod, beq_self_eq_true, Bool.and_self, if_true] <;> rfl
theorem Laws.RoundTrip.addi (d : BitVec 5) (a : BitVec 5) (i : BitVec 16) : Laws.RoundTrip.Statement (.addi d a i) := by
  intro h
  refine ⟨rfl, decode_of_fields ?_ h⟩
  simp (disch := decide) only [decodeFields, Words.first, Words.second, zeroFields, zeroFieldsThen, fOp, fFn, fD, fA, fB, fImm16, fDisp21, fW, fImm13, fScopeM, fM, fK, fT, fS, ex_lo, ex_hi, ex_all, ex_const, Nat.reduceSub, BitVec.toNat_ofNat, Nat.reducePow, Nat.reduceMod, beq_self_eq_true, Bool.and_self, if_true] <;> rfl
theorem Laws.RoundTrip.andi (d : BitVec 5) (a : BitVec 5) (i : BitVec 16) : Laws.RoundTrip.Statement (.andi d a i) := by
  intro h
  refine ⟨rfl, decode_of_fields ?_ h⟩
  simp (disch := decide) only [decodeFields, Words.first, Words.second, zeroFields, zeroFieldsThen, fOp, fFn, fD, fA, fB, fImm16, fDisp21, fW, fImm13, fScopeM, fM, fK, fT, fS, ex_lo, ex_hi, ex_all, ex_const, Nat.reduceSub, BitVec.toNat_ofNat, Nat.reducePow, Nat.reduceMod, beq_self_eq_true, Bool.and_self, if_true] <;> rfl
theorem Laws.RoundTrip.ori (d : BitVec 5) (a : BitVec 5) (i : BitVec 16) : Laws.RoundTrip.Statement (.ori d a i) := by
  intro h
  refine ⟨rfl, decode_of_fields ?_ h⟩
  have hw : ¬ (0x5#6 ++ d ++ a ++ i : BitVec 32) = 0x14000001#32 := by
    intro e
    have hd := congrArg (fun w => w.extractLsb' 21 5) e
    have ha := congrArg (fun w => w.extractLsb' 16 5) e
    have hi := congrArg (fun w => w.extractLsb' 0 16) e
    simp (disch := decide) only [ex_lo, ex_hi, ex_all, ex_const, Nat.reduceSub] at hd ha hi
    subst hd ha hi
    exact absurd h (by decide)
  simp (disch := decide) only [decodeFields, Words.first, Words.second, fOp, fD, fA, fImm16, ex_lo, ex_hi, ex_all,
    Nat.reduceSub, BitVec.toNat_ofNat, Nat.reducePow, Nat.reduceMod, beq_iff_eq, if_neg hw]
theorem Laws.RoundTrip.xori (d : BitVec 5) (a : BitVec 5) (i : BitVec 16) : Laws.RoundTrip.Statement (.xori d a i) := by
  intro h
  refine ⟨rfl, decode_of_fields ?_ h⟩
  simp (disch := decide) only [decodeFields, Words.first, Words.second, zeroFields, zeroFieldsThen, fOp, fFn, fD, fA, fB, fImm16, fDisp21, fW, fImm13, fScopeM, fM, fK, fT, fS, ex_lo, ex_hi, ex_all, ex_const, Nat.reduceSub, BitVec.toNat_ofNat, Nat.reducePow, Nat.reduceMod, beq_self_eq_true, Bool.and_self, if_true] <;> rfl
theorem Laws.RoundTrip.slti (d : BitVec 5) (a : BitVec 5) (i : BitVec 16) : Laws.RoundTrip.Statement (.slti d a i) := by
  intro h
  refine ⟨rfl, decode_of_fields ?_ h⟩
  simp (disch := decide) only [decodeFields, Words.first, Words.second, zeroFields, zeroFieldsThen, fOp, fFn, fD, fA, fB, fImm16, fDisp21, fW, fImm13, fScopeM, fM, fK, fT, fS, ex_lo, ex_hi, ex_all, ex_const, Nat.reduceSub, BitVec.toNat_ofNat, Nat.reducePow, Nat.reduceMod, beq_self_eq_true, Bool.and_self, if_true] <;> rfl
theorem Laws.RoundTrip.sltiu (d : BitVec 5) (a : BitVec 5) (i : BitVec 16) : Laws.RoundTrip.Statement (.sltiu d a i) := by
  intro h
  refine ⟨rfl, decode_of_fields ?_ h⟩
  simp (disch := decide) only [decodeFields, Words.first, Words.second, zeroFields, zeroFieldsThen, fOp, fFn, fD, fA, fB, fImm16, fDisp21, fW, fImm13, fScopeM, fM, fK, fT, fS, ex_lo, ex_hi, ex_all, ex_const, Nat.reduceSub, BitVec.toNat_ofNat, Nat.reducePow, Nat.reduceMod, beq_self_eq_true, Bool.and_self, if_true] <;> rfl
theorem Laws.RoundTrip.slli (d : BitVec 5) (a : BitVec 5) (n : BitVec 6) : Laws.RoundTrip.Statement (.slli d a n) := by
  intro h
  refine ⟨rfl, decode_of_fields ?_ h⟩
  simp (disch := decide) only [decodeFields, Words.first, Words.second, decodeShift, zeroFields, zeroFieldsThen, fOp, fFn, fD, fA, fB, fImm16, fDisp21, fW, fImm13, fScopeM, fM, fK, fT, fS, ex_lo, ex_hi, ex_all, ex_const, Nat.reduceSub, BitVec.toNat_ofNat, Nat.reducePow, Nat.reduceMod, beq_self_eq_true, Bool.and_self, if_true] <;> rfl
theorem Laws.RoundTrip.srli (d : BitVec 5) (a : BitVec 5) (n : BitVec 6) : Laws.RoundTrip.Statement (.srli d a n) := by
  intro h
  refine ⟨rfl, decode_of_fields ?_ h⟩
  simp (disch := decide) only [decodeFields, Words.first, Words.second, decodeShift, zeroFields, zeroFieldsThen, fOp, fFn, fD, fA, fB, fImm16, fDisp21, fW, fImm13, fScopeM, fM, fK, fT, fS, ex_lo, ex_hi, ex_all, ex_const, Nat.reduceSub, BitVec.toNat_ofNat, Nat.reducePow, Nat.reduceMod, beq_self_eq_true, Bool.and_self, if_true] <;> rfl
theorem Laws.RoundTrip.srai (d : BitVec 5) (a : BitVec 5) (n : BitVec 6) : Laws.RoundTrip.Statement (.srai d a n) := by
  intro h
  refine ⟨rfl, decode_of_fields ?_ h⟩
  simp (disch := decide) only [decodeFields, Words.first, Words.second, decodeShift, zeroFields, zeroFieldsThen, fOp, fFn, fD, fA, fB, fImm16, fDisp21, fW, fImm13, fScopeM, fM, fK, fT, fS, ex_lo, ex_hi, ex_all, ex_const, Nat.reduceSub, BitVec.toNat_ofNat, Nat.reducePow, Nat.reduceMod, beq_self_eq_true, Bool.and_self, if_true] <;> rfl
theorem Laws.RoundTrip.lui (d : BitVec 5) (i : BitVec 16) : Laws.RoundTrip.Statement (.lui d i) := by
  intro h
  refine ⟨rfl, decode_of_fields ?_ h⟩
  simp (disch := decide) only [decodeFields, Words.first, Words.second, zeroFields, zeroFieldsThen, fOp, fFn, fD, fA, fB, fImm16, fDisp21, fW, fImm13, fScopeM, fM, fK, fT, fS, ex_lo, ex_hi, ex_all, ex_const, Nat.reduceSub, BitVec.toNat_ofNat, Nat.reducePow, Nat.reduceMod, beq_self_eq_true, Bool.and_self, if_true] <;> rfl
theorem Laws.RoundTrip.pchi (d : BitVec 5) (i : BitVec 16) : Laws.RoundTrip.Statement (.pchi d i) := by
  intro h
  refine ⟨rfl, decode_of_fields ?_ h⟩
  simp (disch := decide) only [decodeFields, Words.first, Words.second, zeroFields, zeroFieldsThen, fOp, fFn, fD, fA, fB, fImm16, fDisp21, fW, fImm13, fScopeM, fM, fK, fT, fS, ex_lo, ex_hi, ex_all, ex_const, Nat.reduceSub, BitVec.toNat_ofNat, Nat.reducePow, Nat.reduceMod, beq_self_eq_true, Bool.and_self, if_true] <;> rfl
theorem Laws.RoundTrip.mul (d : BitVec 5) (a : BitVec 5) (b : BitVec 5) : Laws.RoundTrip.Statement (.mul d a b) := by
  intro h
  refine ⟨rfl, decode_of_fields ?_ h⟩
  simp (disch := decide) only [decodeFields, Words.first, Words.second, decodeMdv, zeroFields, zeroFieldsThen, fOp, fFn, fD, fA, fB, fImm16, fDisp21, fW, fImm13, fScopeM, fM, fK, fT, fS, ex_lo, ex_hi, ex_all, ex_const, Nat.reduceSub, BitVec.toNat_ofNat, Nat.reducePow, Nat.reduceMod, beq_self_eq_true, Bool.and_self, if_true] <;> rfl
theorem Laws.RoundTrip.mulh (d : BitVec 5) (a : BitVec 5) (b : BitVec 5) : Laws.RoundTrip.Statement (.mulh d a b) := by
  intro h
  refine ⟨rfl, decode_of_fields ?_ h⟩
  simp (disch := decide) only [decodeFields, Words.first, Words.second, decodeMdv, zeroFields, zeroFieldsThen, fOp, fFn, fD, fA, fB, fImm16, fDisp21, fW, fImm13, fScopeM, fM, fK, fT, fS, ex_lo, ex_hi, ex_all, ex_const, Nat.reduceSub, BitVec.toNat_ofNat, Nat.reducePow, Nat.reduceMod, beq_self_eq_true, Bool.and_self, if_true] <;> rfl
theorem Laws.RoundTrip.mulhu (d : BitVec 5) (a : BitVec 5) (b : BitVec 5) : Laws.RoundTrip.Statement (.mulhu d a b) := by
  intro h
  refine ⟨rfl, decode_of_fields ?_ h⟩
  simp (disch := decide) only [decodeFields, Words.first, Words.second, decodeMdv, zeroFields, zeroFieldsThen, fOp, fFn, fD, fA, fB, fImm16, fDisp21, fW, fImm13, fScopeM, fM, fK, fT, fS, ex_lo, ex_hi, ex_all, ex_const, Nat.reduceSub, BitVec.toNat_ofNat, Nat.reducePow, Nat.reduceMod, beq_self_eq_true, Bool.and_self, if_true] <;> rfl
theorem Laws.RoundTrip.mulhsu (d : BitVec 5) (a : BitVec 5) (b : BitVec 5) : Laws.RoundTrip.Statement (.mulhsu d a b) := by
  intro h
  refine ⟨rfl, decode_of_fields ?_ h⟩
  simp (disch := decide) only [decodeFields, Words.first, Words.second, decodeMdv, zeroFields, zeroFieldsThen, fOp, fFn, fD, fA, fB, fImm16, fDisp21, fW, fImm13, fScopeM, fM, fK, fT, fS, ex_lo, ex_hi, ex_all, ex_const, Nat.reduceSub, BitVec.toNat_ofNat, Nat.reducePow, Nat.reduceMod, beq_self_eq_true, Bool.and_self, if_true] <;> rfl
theorem Laws.RoundTrip.div (d : BitVec 5) (a : BitVec 5) (b : BitVec 5) : Laws.RoundTrip.Statement (.div d a b) := by
  intro h
  refine ⟨rfl, decode_of_fields ?_ h⟩
  simp (disch := decide) only [decodeFields, Words.first, Words.second, decodeMdv, zeroFields, zeroFieldsThen, fOp, fFn, fD, fA, fB, fImm16, fDisp21, fW, fImm13, fScopeM, fM, fK, fT, fS, ex_lo, ex_hi, ex_all, ex_const, Nat.reduceSub, BitVec.toNat_ofNat, Nat.reducePow, Nat.reduceMod, beq_self_eq_true, Bool.and_self, if_true] <;> rfl
theorem Laws.RoundTrip.divu (d : BitVec 5) (a : BitVec 5) (b : BitVec 5) : Laws.RoundTrip.Statement (.divu d a b) := by
  intro h
  refine ⟨rfl, decode_of_fields ?_ h⟩
  simp (disch := decide) only [decodeFields, Words.first, Words.second, decodeMdv, zeroFields, zeroFieldsThen, fOp, fFn, fD, fA, fB, fImm16, fDisp21, fW, fImm13, fScopeM, fM, fK, fT, fS, ex_lo, ex_hi, ex_all, ex_const, Nat.reduceSub, BitVec.toNat_ofNat, Nat.reducePow, Nat.reduceMod, beq_self_eq_true, Bool.and_self, if_true] <;> rfl
theorem Laws.RoundTrip.rem (d : BitVec 5) (a : BitVec 5) (b : BitVec 5) : Laws.RoundTrip.Statement (.rem d a b) := by
  intro h
  refine ⟨rfl, decode_of_fields ?_ h⟩
  simp (disch := decide) only [decodeFields, Words.first, Words.second, decodeMdv, zeroFields, zeroFieldsThen, fOp, fFn, fD, fA, fB, fImm16, fDisp21, fW, fImm13, fScopeM, fM, fK, fT, fS, ex_lo, ex_hi, ex_all, ex_const, Nat.reduceSub, BitVec.toNat_ofNat, Nat.reducePow, Nat.reduceMod, beq_self_eq_true, Bool.and_self, if_true] <;> rfl
theorem Laws.RoundTrip.remu (d : BitVec 5) (a : BitVec 5) (b : BitVec 5) : Laws.RoundTrip.Statement (.remu d a b) := by
  intro h
  refine ⟨rfl, decode_of_fields ?_ h⟩
  simp (disch := decide) only [decodeFields, Words.first, Words.second, decodeMdv, zeroFields, zeroFieldsThen, fOp, fFn, fD, fA, fB, fImm16, fDisp21, fW, fImm13, fScopeM, fM, fK, fT, fS, ex_lo, ex_hi, ex_all, ex_const, Nat.reduceSub, BitVec.toNat_ofNat, Nat.reducePow, Nat.reduceMod, beq_self_eq_true, Bool.and_self, if_true] <;> rfl
theorem Laws.RoundTrip.fadd (d : BitVec 5) (a : BitVec 5) (b : BitVec 5) (t : BitVec 3) : Laws.RoundTrip.Statement (.fadd d a b t) := by
  intro h
  refine ⟨rfl, decode_of_fields ?_ h⟩
  simp (disch := decide) only [decodeFields, Words.first, Words.second, decodeFps, zeroFields, zeroFieldsThen, fOp, fFn, fD, fA, fB, fImm16, fDisp21, fW, fImm13, fScopeM, fM, fK, fT, fS, ex_lo, ex_hi, ex_all, ex_const, Nat.reduceSub, BitVec.toNat_ofNat, Nat.reducePow, Nat.reduceMod, beq_self_eq_true, Bool.and_self, if_true] <;> rfl
theorem Laws.RoundTrip.fsub (d : BitVec 5) (a : BitVec 5) (b : BitVec 5) (t : BitVec 3) : Laws.RoundTrip.Statement (.fsub d a b t) := by
  intro h
  refine ⟨rfl, decode_of_fields ?_ h⟩
  simp (disch := decide) only [decodeFields, Words.first, Words.second, decodeFps, zeroFields, zeroFieldsThen, fOp, fFn, fD, fA, fB, fImm16, fDisp21, fW, fImm13, fScopeM, fM, fK, fT, fS, ex_lo, ex_hi, ex_all, ex_const, Nat.reduceSub, BitVec.toNat_ofNat, Nat.reducePow, Nat.reduceMod, beq_self_eq_true, Bool.and_self, if_true] <;> rfl
theorem Laws.RoundTrip.fmul (d : BitVec 5) (a : BitVec 5) (b : BitVec 5) (t : BitVec 3) : Laws.RoundTrip.Statement (.fmul d a b t) := by
  intro h
  refine ⟨rfl, decode_of_fields ?_ h⟩
  simp (disch := decide) only [decodeFields, Words.first, Words.second, decodeFps, zeroFields, zeroFieldsThen, fOp, fFn, fD, fA, fB, fImm16, fDisp21, fW, fImm13, fScopeM, fM, fK, fT, fS, ex_lo, ex_hi, ex_all, ex_const, Nat.reduceSub, BitVec.toNat_ofNat, Nat.reducePow, Nat.reduceMod, beq_self_eq_true, Bool.and_self, if_true] <;> rfl
theorem Laws.RoundTrip.fma (d : BitVec 5) (a : BitVec 5) (b : BitVec 5) (t : BitVec 3) : Laws.RoundTrip.Statement (.fma d a b t) := by
  intro h
  refine ⟨rfl, decode_of_fields ?_ h⟩
  simp (disch := decide) only [decodeFields, Words.first, Words.second, decodeFps, zeroFields, zeroFieldsThen, fOp, fFn, fD, fA, fB, fImm16, fDisp21, fW, fImm13, fScopeM, fM, fK, fT, fS, ex_lo, ex_hi, ex_all, ex_const, Nat.reduceSub, BitVec.toNat_ofNat, Nat.reducePow, Nat.reduceMod, beq_self_eq_true, Bool.and_self, if_true] <;> rfl
theorem Laws.RoundTrip.fdiv (d : BitVec 5) (a : BitVec 5) (b : BitVec 5) (t : BitVec 3) : Laws.RoundTrip.Statement (.fdiv d a b t) := by
  intro h
  refine ⟨rfl, decode_of_fields ?_ h⟩
  simp (disch := decide) only [decodeFields, Words.first, Words.second, decodeFps, zeroFields, zeroFieldsThen, fOp, fFn, fD, fA, fB, fImm16, fDisp21, fW, fImm13, fScopeM, fM, fK, fT, fS, ex_lo, ex_hi, ex_all, ex_const, Nat.reduceSub, BitVec.toNat_ofNat, Nat.reducePow, Nat.reduceMod, beq_self_eq_true, Bool.and_self, if_true] <;> rfl
theorem Laws.RoundTrip.fsqrt (d : BitVec 5) (a : BitVec 5) (t : BitVec 3) : Laws.RoundTrip.Statement (.fsqrt d a t) := by
  intro h
  refine ⟨rfl, decode_of_fields ?_ h⟩
  simp (disch := decide) only [decodeFields, Words.first, Words.second, decodeFps, zeroFields, zeroFieldsThen, fOp, fFn, fD, fA, fB, fImm16, fDisp21, fW, fImm13, fScopeM, fM, fK, fT, fS, ex_lo, ex_hi, ex_all, ex_const, Nat.reduceSub, BitVec.toNat_ofNat, Nat.reducePow, Nat.reduceMod, beq_self_eq_true, Bool.and_self, if_true] <;> rfl
theorem Laws.RoundTrip.fmin (d : BitVec 5) (a : BitVec 5) (b : BitVec 5) (t : BitVec 3) : Laws.RoundTrip.Statement (.fmin d a b t) := by
  intro h
  refine ⟨rfl, decode_of_fields ?_ h⟩
  simp (disch := decide) only [decodeFields, Words.first, Words.second, decodeFps, zeroFields, zeroFieldsThen, fOp, fFn, fD, fA, fB, fImm16, fDisp21, fW, fImm13, fScopeM, fM, fK, fT, fS, ex_lo, ex_hi, ex_all, ex_const, Nat.reduceSub, BitVec.toNat_ofNat, Nat.reducePow, Nat.reduceMod, beq_self_eq_true, Bool.and_self, if_true] <;> rfl
theorem Laws.RoundTrip.fmax (d : BitVec 5) (a : BitVec 5) (b : BitVec 5) (t : BitVec 3) : Laws.RoundTrip.Statement (.fmax d a b t) := by
  intro h
  refine ⟨rfl, decode_of_fields ?_ h⟩
  simp (disch := decide) only [decodeFields, Words.first, Words.second, decodeFps, zeroFields, zeroFieldsThen, fOp, fFn, fD, fA, fB, fImm16, fDisp21, fW, fImm13, fScopeM, fM, fK, fT, fS, ex_lo, ex_hi, ex_all, ex_const, Nat.reduceSub, BitVec.toNat_ofNat, Nat.reducePow, Nat.reduceMod, beq_self_eq_true, Bool.and_self, if_true] <;> rfl
theorem Laws.RoundTrip.fcmpEq (d : BitVec 5) (a : BitVec 5) (b : BitVec 5) (t : BitVec 3) : Laws.RoundTrip.Statement (.fcmpEq d a b t) := by
  intro h
  refine ⟨rfl, decode_of_fields ?_ h⟩
  simp (disch := decide) only [decodeFields, Words.first, Words.second, decodeFps, zeroFields, zeroFieldsThen, fOp, fFn, fD, fA, fB, fImm16, fDisp21, fW, fImm13, fScopeM, fM, fK, fT, fS, ex_lo, ex_hi, ex_all, ex_const, Nat.reduceSub, BitVec.toNat_ofNat, Nat.reducePow, Nat.reduceMod, beq_self_eq_true, Bool.and_self, if_true] <;> rfl
theorem Laws.RoundTrip.fcmpLt (d : BitVec 5) (a : BitVec 5) (b : BitVec 5) (t : BitVec 3) : Laws.RoundTrip.Statement (.fcmpLt d a b t) := by
  intro h
  refine ⟨rfl, decode_of_fields ?_ h⟩
  simp (disch := decide) only [decodeFields, Words.first, Words.second, decodeFps, zeroFields, zeroFieldsThen, fOp, fFn, fD, fA, fB, fImm16, fDisp21, fW, fImm13, fScopeM, fM, fK, fT, fS, ex_lo, ex_hi, ex_all, ex_const, Nat.reduceSub, BitVec.toNat_ofNat, Nat.reducePow, Nat.reduceMod, beq_self_eq_true, Bool.and_self, if_true] <;> rfl
theorem Laws.RoundTrip.fcmpLe (d : BitVec 5) (a : BitVec 5) (b : BitVec 5) (t : BitVec 3) : Laws.RoundTrip.Statement (.fcmpLe d a b t) := by
  intro h
  refine ⟨rfl, decode_of_fields ?_ h⟩
  simp (disch := decide) only [decodeFields, Words.first, Words.second, decodeFps, zeroFields, zeroFieldsThen, fOp, fFn, fD, fA, fB, fImm16, fDisp21, fW, fImm13, fScopeM, fM, fK, fT, fS, ex_lo, ex_hi, ex_all, ex_const, Nat.reduceSub, BitVec.toNat_ofNat, Nat.reducePow, Nat.reduceMod, beq_self_eq_true, Bool.and_self, if_true] <;> rfl
theorem Laws.RoundTrip.fcvt (d : BitVec 5) (a : BitVec 5) (t : BitVec 3) (s : BitVec 3) : Laws.RoundTrip.Statement (.fcvt d a t s) := by
  intro h
  refine ⟨rfl, decode_of_fields ?_ h⟩
  simp (disch := decide) only [decodeFields, Words.first, Words.second, decodeFps, zeroFields, zeroFieldsThen, fOp, fFn, fD, fA, fB, fImm16, fDisp21, fW, fImm13, fScopeM, fM, fK, fT, fS, ex_lo, ex_hi, ex_all, ex_const, Nat.reduceSub, BitVec.toNat_ofNat, Nat.reducePow, Nat.reduceMod, beq_self_eq_true, Bool.and_self, if_true] <;> rfl
theorem Laws.RoundTrip.beq (a : BitVec 5) (b : BitVec 5) (i : BitVec 16) : Laws.RoundTrip.Statement (.beq a b i) := by
  intro h
  refine ⟨rfl, decode_of_fields ?_ h⟩
  simp (disch := decide) only [decodeFields, Words.first, Words.second, zeroFields, zeroFieldsThen, fOp, fFn, fD, fA, fB, fImm16, fDisp21, fW, fImm13, fScopeM, fM, fK, fT, fS, ex_lo, ex_hi, ex_all, ex_const, Nat.reduceSub, BitVec.toNat_ofNat, Nat.reducePow, Nat.reduceMod, beq_self_eq_true, Bool.and_self, if_true] <;> rfl
theorem Laws.RoundTrip.bne (a : BitVec 5) (b : BitVec 5) (i : BitVec 16) : Laws.RoundTrip.Statement (.bne a b i) := by
  intro h
  refine ⟨rfl, decode_of_fields ?_ h⟩
  simp (disch := decide) only [decodeFields, Words.first, Words.second, zeroFields, zeroFieldsThen, fOp, fFn, fD, fA, fB, fImm16, fDisp21, fW, fImm13, fScopeM, fM, fK, fT, fS, ex_lo, ex_hi, ex_all, ex_const, Nat.reduceSub, BitVec.toNat_ofNat, Nat.reducePow, Nat.reduceMod, beq_self_eq_true, Bool.and_self, if_true] <;> rfl
theorem Laws.RoundTrip.blt (a : BitVec 5) (b : BitVec 5) (i : BitVec 16) : Laws.RoundTrip.Statement (.blt a b i) := by
  intro h
  refine ⟨rfl, decode_of_fields ?_ h⟩
  simp (disch := decide) only [decodeFields, Words.first, Words.second, zeroFields, zeroFieldsThen, fOp, fFn, fD, fA, fB, fImm16, fDisp21, fW, fImm13, fScopeM, fM, fK, fT, fS, ex_lo, ex_hi, ex_all, ex_const, Nat.reduceSub, BitVec.toNat_ofNat, Nat.reducePow, Nat.reduceMod, beq_self_eq_true, Bool.and_self, if_true] <;> rfl
theorem Laws.RoundTrip.bge (a : BitVec 5) (b : BitVec 5) (i : BitVec 16) : Laws.RoundTrip.Statement (.bge a b i) := by
  intro h
  refine ⟨rfl, decode_of_fields ?_ h⟩
  simp (disch := decide) only [decodeFields, Words.first, Words.second, zeroFields, zeroFieldsThen, fOp, fFn, fD, fA, fB, fImm16, fDisp21, fW, fImm13, fScopeM, fM, fK, fT, fS, ex_lo, ex_hi, ex_all, ex_const, Nat.reduceSub, BitVec.toNat_ofNat, Nat.reducePow, Nat.reduceMod, beq_self_eq_true, Bool.and_self, if_true] <;> rfl
theorem Laws.RoundTrip.bltu (a : BitVec 5) (b : BitVec 5) (i : BitVec 16) : Laws.RoundTrip.Statement (.bltu a b i) := by
  intro h
  refine ⟨rfl, decode_of_fields ?_ h⟩
  simp (disch := decide) only [decodeFields, Words.first, Words.second, zeroFields, zeroFieldsThen, fOp, fFn, fD, fA, fB, fImm16, fDisp21, fW, fImm13, fScopeM, fM, fK, fT, fS, ex_lo, ex_hi, ex_all, ex_const, Nat.reduceSub, BitVec.toNat_ofNat, Nat.reducePow, Nat.reduceMod, beq_self_eq_true, Bool.and_self, if_true] <;> rfl
theorem Laws.RoundTrip.bgeu (a : BitVec 5) (b : BitVec 5) (i : BitVec 16) : Laws.RoundTrip.Statement (.bgeu a b i) := by
  intro h
  refine ⟨rfl, decode_of_fields ?_ h⟩
  simp (disch := decide) only [decodeFields, Words.first, Words.second, zeroFields, zeroFieldsThen, fOp, fFn, fD, fA, fB, fImm16, fDisp21, fW, fImm13, fScopeM, fM, fK, fT, fS, ex_lo, ex_hi, ex_all, ex_const, Nat.reduceSub, BitVec.toNat_ofNat, Nat.reducePow, Nat.reduceMod, beq_self_eq_true, Bool.and_self, if_true] <;> rfl
theorem Laws.RoundTrip.jal (d : BitVec 5) (i : BitVec 21) : Laws.RoundTrip.Statement (.jal d i) := by
  intro h
  refine ⟨rfl, decode_of_fields ?_ h⟩
  simp (disch := decide) only [decodeFields, Words.first, Words.second, zeroFields, zeroFieldsThen, fOp, fFn, fD, fA, fB, fImm16, fDisp21, fW, fImm13, fScopeM, fM, fK, fT, fS, ex_lo, ex_hi, ex_all, ex_const, Nat.reduceSub, BitVec.toNat_ofNat, Nat.reducePow, Nat.reduceMod, beq_self_eq_true, Bool.and_self, if_true] <;> rfl
theorem Laws.RoundTrip.jalr (d : BitVec 5) (a : BitVec 5) (i : BitVec 16) : Laws.RoundTrip.Statement (.jalr d a i) := by
  intro h
  refine ⟨rfl, decode_of_fields ?_ h⟩
  simp (disch := decide) only [decodeFields, Words.first, Words.second, zeroFields, zeroFieldsThen, fOp, fFn, fD, fA, fB, fImm16, fDisp21, fW, fImm13, fScopeM, fM, fK, fT, fS, ex_lo, ex_hi, ex_all, ex_const, Nat.reduceSub, BitVec.toNat_ofNat, Nat.reducePow, Nat.reduceMod, beq_self_eq_true, Bool.and_self, if_true] <;> rfl
theorem Laws.RoundTrip.ld (d : BitVec 5) (a : BitVec 5) (w : BitVec 3) (i : BitVec 13) : Laws.RoundTrip.Statement (.ld d a w i) := by
  intro h
  refine ⟨rfl, decode_of_fields ?_ h⟩
  simp (disch := decide) only [decodeFields, Words.first, Words.second, zeroFields, zeroFieldsThen, fOp, fFn, fD, fA, fB, fImm16, fDisp21, fW, fImm13, fScopeM, fM, fK, fT, fS, ex_lo, ex_hi, ex_all, ex_const, Nat.reduceSub, BitVec.toNat_ofNat, Nat.reducePow, Nat.reduceMod, beq_self_eq_true, Bool.and_self, if_true] <;> rfl
theorem Laws.RoundTrip.st (s : BitVec 5) (a : BitVec 5) (w : BitVec 3) (i : BitVec 13) : Laws.RoundTrip.Statement (.st s a w i) := by
  intro h
  refine ⟨rfl, decode_of_fields ?_ h⟩
  simp (disch := decide) only [decodeFields, Words.first, Words.second, zeroFields, zeroFieldsThen, fOp, fFn, fD, fA, fB, fImm16, fDisp21, fW, fImm13, fScopeM, fM, fK, fT, fS, ex_lo, ex_hi, ex_all, ex_const, Nat.reduceSub, BitVec.toNat_ofNat, Nat.reducePow, Nat.reduceMod, beq_self_eq_true, Bool.and_self, if_true] <;> rfl
theorem Laws.RoundTrip.lda (d : BitVec 5) (a : BitVec 5) (w : BitVec 3) (c : BitVec 2) (i : BitVec 11) : Laws.RoundTrip.Statement (.lda d a w c i) := by
  intro h
  refine ⟨rfl, decode_of_fields ?_ h⟩
  simp (disch := decide) only [decodeFields, Words.first, Words.second, zeroFields, zeroFieldsThen, fOp, fFn, fD, fA, fB, fImm16, fDisp21, fW, fImm13, fScopeM, fM, fK, fT, fS, ex_lo, ex_hi, ex_all, ex_const, Nat.reduceSub, BitVec.toNat_ofNat, Nat.reducePow, Nat.reduceMod, beq_self_eq_true, Bool.and_self, if_true] <;> rfl
theorem Laws.RoundTrip.stl (s : BitVec 5) (a : BitVec 5) (w : BitVec 3) (c : BitVec 2) (i : BitVec 11) : Laws.RoundTrip.Statement (.stl s a w c i) := by
  intro h
  refine ⟨rfl, decode_of_fields ?_ h⟩
  simp (disch := decide) only [decodeFields, Words.first, Words.second, zeroFields, zeroFieldsThen, fOp, fFn, fD, fA, fB, fImm16, fDisp21, fW, fImm13, fScopeM, fM, fK, fT, fS, ex_lo, ex_hi, ex_all, ex_const, Nat.reduceSub, BitVec.toNat_ofNat, Nat.reducePow, Nat.reduceMod, beq_self_eq_true, Bool.and_self, if_true] <;> rfl
theorem Laws.RoundTrip.ldc (d : BitVec 5) (a : BitVec 5) (w : BitVec 3) (i : BitVec 13) : Laws.RoundTrip.Statement (.ldc d a w i) := by
  intro h
  refine ⟨rfl, decode_of_fields ?_ h⟩
  simp (disch := decide) only [decodeFields, Words.first, Words.second, zeroFields, zeroFieldsThen, fOp, fFn, fD, fA, fB, fImm16, fDisp21, fW, fImm13, fScopeM, fM, fK, fT, fS, ex_lo, ex_hi, ex_all, ex_const, Nat.reduceSub, BitVec.toNat_ofNat, Nat.reducePow, Nat.reduceMod, beq_self_eq_true, Bool.and_self, if_true] <;> rfl
theorem Laws.RoundTrip.amoAdd (d : BitVec 5) (a : BitVec 5) (b : BitVec 5) (z : BitVec 1) (c : BitVec 2) (q : BitVec 1) (l : BitVec 1) : Laws.RoundTrip.Statement (.amoAdd d a b z c q l) := by
  intro h
  refine ⟨rfl, decode_of_fields ?_ h⟩
  simp (disch := decide) only [decodeFields, Words.first, Words.second, decodeAmo, zeroFields, zeroFieldsThen, fOp, fFn, fD, fA, fB, fImm16, fDisp21, fW, fImm13, fScopeM, fM, fK, fT, fS, ex_lo, ex_hi, ex_all, ex_const, Nat.reduceSub, BitVec.toNat_ofNat, Nat.reducePow, Nat.reduceMod, beq_self_eq_true, Bool.and_self, if_true] <;> rfl
theorem Laws.RoundTrip.amoSwap (d : BitVec 5) (a : BitVec 5) (b : BitVec 5) (z : BitVec 1) (c : BitVec 2) (q : BitVec 1) (l : BitVec 1) : Laws.RoundTrip.Statement (.amoSwap d a b z c q l) := by
  intro h
  refine ⟨rfl, decode_of_fields ?_ h⟩
  simp (disch := decide) only [decodeFields, Words.first, Words.second, decodeAmo, zeroFields, zeroFieldsThen, fOp, fFn, fD, fA, fB, fImm16, fDisp21, fW, fImm13, fScopeM, fM, fK, fT, fS, ex_lo, ex_hi, ex_all, ex_const, Nat.reduceSub, BitVec.toNat_ofNat, Nat.reducePow, Nat.reduceMod, beq_self_eq_true, Bool.and_self, if_true] <;> rfl
theorem Laws.RoundTrip.amoAnd (d : BitVec 5) (a : BitVec 5) (b : BitVec 5) (z : BitVec 1) (c : BitVec 2) (q : BitVec 1) (l : BitVec 1) : Laws.RoundTrip.Statement (.amoAnd d a b z c q l) := by
  intro h
  refine ⟨rfl, decode_of_fields ?_ h⟩
  simp (disch := decide) only [decodeFields, Words.first, Words.second, decodeAmo, zeroFields, zeroFieldsThen, fOp, fFn, fD, fA, fB, fImm16, fDisp21, fW, fImm13, fScopeM, fM, fK, fT, fS, ex_lo, ex_hi, ex_all, ex_const, Nat.reduceSub, BitVec.toNat_ofNat, Nat.reducePow, Nat.reduceMod, beq_self_eq_true, Bool.and_self, if_true] <;> rfl
theorem Laws.RoundTrip.amoOr (d : BitVec 5) (a : BitVec 5) (b : BitVec 5) (z : BitVec 1) (c : BitVec 2) (q : BitVec 1) (l : BitVec 1) : Laws.RoundTrip.Statement (.amoOr d a b z c q l) := by
  intro h
  refine ⟨rfl, decode_of_fields ?_ h⟩
  simp (disch := decide) only [decodeFields, Words.first, Words.second, decodeAmo, zeroFields, zeroFieldsThen, fOp, fFn, fD, fA, fB, fImm16, fDisp21, fW, fImm13, fScopeM, fM, fK, fT, fS, ex_lo, ex_hi, ex_all, ex_const, Nat.reduceSub, BitVec.toNat_ofNat, Nat.reducePow, Nat.reduceMod, beq_self_eq_true, Bool.and_self, if_true] <;> rfl
theorem Laws.RoundTrip.amoXor (d : BitVec 5) (a : BitVec 5) (b : BitVec 5) (z : BitVec 1) (c : BitVec 2) (q : BitVec 1) (l : BitVec 1) : Laws.RoundTrip.Statement (.amoXor d a b z c q l) := by
  intro h
  refine ⟨rfl, decode_of_fields ?_ h⟩
  simp (disch := decide) only [decodeFields, Words.first, Words.second, decodeAmo, zeroFields, zeroFieldsThen, fOp, fFn, fD, fA, fB, fImm16, fDisp21, fW, fImm13, fScopeM, fM, fK, fT, fS, ex_lo, ex_hi, ex_all, ex_const, Nat.reduceSub, BitVec.toNat_ofNat, Nat.reducePow, Nat.reduceMod, beq_self_eq_true, Bool.and_self, if_true] <;> rfl
theorem Laws.RoundTrip.amoMin (d : BitVec 5) (a : BitVec 5) (b : BitVec 5) (z : BitVec 1) (c : BitVec 2) (q : BitVec 1) (l : BitVec 1) : Laws.RoundTrip.Statement (.amoMin d a b z c q l) := by
  intro h
  refine ⟨rfl, decode_of_fields ?_ h⟩
  simp (disch := decide) only [decodeFields, Words.first, Words.second, decodeAmo, zeroFields, zeroFieldsThen, fOp, fFn, fD, fA, fB, fImm16, fDisp21, fW, fImm13, fScopeM, fM, fK, fT, fS, ex_lo, ex_hi, ex_all, ex_const, Nat.reduceSub, BitVec.toNat_ofNat, Nat.reducePow, Nat.reduceMod, beq_self_eq_true, Bool.and_self, if_true] <;> rfl
theorem Laws.RoundTrip.amoMax (d : BitVec 5) (a : BitVec 5) (b : BitVec 5) (z : BitVec 1) (c : BitVec 2) (q : BitVec 1) (l : BitVec 1) : Laws.RoundTrip.Statement (.amoMax d a b z c q l) := by
  intro h
  refine ⟨rfl, decode_of_fields ?_ h⟩
  simp (disch := decide) only [decodeFields, Words.first, Words.second, decodeAmo, zeroFields, zeroFieldsThen, fOp, fFn, fD, fA, fB, fImm16, fDisp21, fW, fImm13, fScopeM, fM, fK, fT, fS, ex_lo, ex_hi, ex_all, ex_const, Nat.reduceSub, BitVec.toNat_ofNat, Nat.reducePow, Nat.reduceMod, beq_self_eq_true, Bool.and_self, if_true] <;> rfl
theorem Laws.RoundTrip.amoMinu (d : BitVec 5) (a : BitVec 5) (b : BitVec 5) (z : BitVec 1) (c : BitVec 2) (q : BitVec 1) (l : BitVec 1) : Laws.RoundTrip.Statement (.amoMinu d a b z c q l) := by
  intro h
  refine ⟨rfl, decode_of_fields ?_ h⟩
  simp (disch := decide) only [decodeFields, Words.first, Words.second, decodeAmo, zeroFields, zeroFieldsThen, fOp, fFn, fD, fA, fB, fImm16, fDisp21, fW, fImm13, fScopeM, fM, fK, fT, fS, ex_lo, ex_hi, ex_all, ex_const, Nat.reduceSub, BitVec.toNat_ofNat, Nat.reducePow, Nat.reduceMod, beq_self_eq_true, Bool.and_self, if_true] <;> rfl
theorem Laws.RoundTrip.amoMaxu (d : BitVec 5) (a : BitVec 5) (b : BitVec 5) (z : BitVec 1) (c : BitVec 2) (q : BitVec 1) (l : BitVec 1) : Laws.RoundTrip.Statement (.amoMaxu d a b z c q l) := by
  intro h
  refine ⟨rfl, decode_of_fields ?_ h⟩
  simp (disch := decide) only [decodeFields, Words.first, Words.second, decodeAmo, zeroFields, zeroFieldsThen, fOp, fFn, fD, fA, fB, fImm16, fDisp21, fW, fImm13, fScopeM, fM, fK, fT, fS, ex_lo, ex_hi, ex_all, ex_const, Nat.reduceSub, BitVec.toNat_ofNat, Nat.reducePow, Nat.reduceMod, beq_self_eq_true, Bool.and_self, if_true] <;> rfl
theorem Laws.RoundTrip.amoCas (d : BitVec 5) (a : BitVec 5) (b : BitVec 5) (z : BitVec 1) (c : BitVec 2) (q : BitVec 1) (l : BitVec 1) : Laws.RoundTrip.Statement (.amoCas d a b z c q l) := by
  intro h
  refine ⟨rfl, decode_of_fields ?_ h⟩
  simp (disch := decide) only [decodeFields, Words.first, Words.second, decodeAmo, zeroFields, zeroFieldsThen, fOp, fFn, fD, fA, fB, fImm16, fDisp21, fW, fImm13, fScopeM, fM, fK, fT, fS, ex_lo, ex_hi, ex_all, ex_const, Nat.reduceSub, BitVec.toNat_ofNat, Nat.reducePow, Nat.reduceMod, beq_self_eq_true, Bool.and_self, if_true] <;> rfl
theorem Laws.RoundTrip.ecall (c : BitVec 16) : Laws.RoundTrip.Statement (.ecall c) := by
  intro h
  refine ⟨rfl, decode_of_fields ?_ h⟩
  simp (disch := decide) only [decodeFields, Words.first, Words.second, decodeSys, zeroFields, zeroFieldsThen, fOp, fFn, fD, fA, fB, fImm16, fDisp21, fW, fImm13, fScopeM, fM, fK, fT, fS, ex_lo, ex_hi, ex_all, ex_const, Nat.reduceSub, BitVec.toNat_ofNat, Nat.reducePow, Nat.reduceMod, beq_self_eq_true, Bool.and_self, if_true] <;> rfl
theorem Laws.RoundTrip.brk (c : BitVec 16) : Laws.RoundTrip.Statement (.brk c) := by
  intro h
  refine ⟨rfl, decode_of_fields ?_ h⟩
  simp (disch := decide) only [decodeFields, Words.first, Words.second, decodeSys, zeroFields, zeroFieldsThen, fOp, fFn, fD, fA, fB, fImm16, fDisp21, fW, fImm13, fScopeM, fM, fK, fT, fS, ex_lo, ex_hi, ex_all, ex_const, Nat.reduceSub, BitVec.toNat_ofNat, Nat.reducePow, Nat.reduceMod, beq_self_eq_true, Bool.and_self, if_true] <;> rfl
theorem Laws.RoundTrip.tret : Laws.RoundTrip.Statement .tret := by
  intro h
  refine ⟨rfl, decode_of_fields ?_ h⟩
  simp (disch := decide) only [decodeFields, Words.first, Words.second, decodeSys, zeroFields, zeroFieldsThen, fOp, fFn, fD, fA, fB, fImm16, fDisp21, fW, fImm13, fScopeM, fM, fK, fT, fS, ex_lo, ex_hi, ex_all, ex_const, Nat.reduceSub, BitVec.toNat_ofNat, Nat.reducePow, Nat.reduceMod, beq_self_eq_true, Bool.and_self, if_true] <;> rfl
theorem Laws.RoundTrip.srd (d : BitVec 5) (r : BitVec 11) : Laws.RoundTrip.Statement (.srd d r) := by
  intro h
  refine ⟨rfl, decode_of_fields ?_ h⟩
  simp (disch := decide) only [decodeFields, Words.first, Words.second, decodeSys, zeroFields, zeroFieldsThen, fOp, fFn, fD, fA, fB, fImm16, fDisp21, fW, fImm13, fScopeM, fM, fK, fT, fS, ex_lo, ex_hi, ex_all, ex_const, Nat.reduceSub, BitVec.toNat_ofNat, Nat.reducePow, Nat.reduceMod, beq_self_eq_true, Bool.and_self, if_true] <;> rfl
theorem Laws.RoundTrip.swr (a : BitVec 5) (r : BitVec 11) : Laws.RoundTrip.Statement (.swr a r) := by
  intro h
  refine ⟨rfl, decode_of_fields ?_ h⟩
  simp (disch := decide) only [decodeFields, Words.first, Words.second, decodeSys, zeroFields, zeroFieldsThen, fOp, fFn, fD, fA, fB, fImm16, fDisp21, fW, fImm13, fScopeM, fM, fK, fT, fS, ex_lo, ex_hi, ex_all, ex_const, Nat.reduceSub, BitVec.toNat_ofNat, Nat.reducePow, Nat.reduceMod, beq_self_eq_true, Bool.and_self, if_true] <;> rfl
theorem Laws.RoundTrip.sset (a : BitVec 5) (r : BitVec 11) : Laws.RoundTrip.Statement (.sset a r) := by
  intro h
  refine ⟨rfl, decode_of_fields ?_ h⟩
  simp (disch := decide) only [decodeFields, Words.first, Words.second, decodeSys, zeroFields, zeroFieldsThen, fOp, fFn, fD, fA, fB, fImm16, fDisp21, fW, fImm13, fScopeM, fM, fK, fT, fS, ex_lo, ex_hi, ex_all, ex_const, Nat.reduceSub, BitVec.toNat_ofNat, Nat.reducePow, Nat.reduceMod, beq_self_eq_true, Bool.and_self, if_true] <;> rfl
theorem Laws.RoundTrip.sclr (a : BitVec 5) (r : BitVec 11) : Laws.RoundTrip.Statement (.sclr a r) := by
  intro h
  refine ⟨rfl, decode_of_fields ?_ h⟩
  simp (disch := decide) only [decodeFields, Words.first, Words.second, decodeSys, zeroFields, zeroFieldsThen, fOp, fFn, fD, fA, fB, fImm16, fDisp21, fW, fImm13, fScopeM, fM, fK, fT, fS, ex_lo, ex_hi, ex_all, ex_const, Nat.reduceSub, BitVec.toNat_ofNat, Nat.reducePow, Nat.reduceMod, beq_self_eq_true, Bool.and_self, if_true] <;> rfl
theorem Laws.RoundTrip.wfi (n : BitVec 21) : Laws.RoundTrip.Statement (.wfi n) := by
  intro h
  refine ⟨rfl, decode_of_fields ?_ h⟩
  simp (disch := decide) only [decodeFields, Words.first, Words.second, decodeSys, zeroFields, zeroFieldsThen, fOp, fFn, fD, fA, fB, fImm16, fDisp21, fW, fImm13, fScopeM, fM, fK, fT, fS, ex_lo, ex_hi, ex_all, ex_const, Nat.reduceSub, BitVec.toNat_ofNat, Nat.reducePow, Nat.reduceMod, beq_self_eq_true, Bool.and_self, if_true] <;> rfl
theorem Laws.RoundTrip.isync : Laws.RoundTrip.Statement .isync := by
  intro h
  refine ⟨rfl, decode_of_fields ?_ h⟩
  simp (disch := decide) only [decodeFields, Words.first, Words.second, decodeSys, zeroFields, zeroFieldsThen, fOp, fFn, fD, fA, fB, fImm16, fDisp21, fW, fImm13, fScopeM, fM, fK, fT, fS, ex_lo, ex_hi, ex_all, ex_const, Nat.reduceSub, BitVec.toNat_ofNat, Nat.reducePow, Nat.reduceMod, beq_self_eq_true, Bool.and_self, if_true] <;> rfl
theorem Laws.RoundTrip.fence (c : BitVec 2) (k : BitVec 2) : Laws.RoundTrip.Statement (.fence c k) := by
  intro h
  refine ⟨rfl, decode_of_fields ?_ h⟩
  simp (disch := decide) only [decodeFields, Words.first, Words.second, decodeSys, zeroFields, zeroFieldsThen, fOp, fFn, fD, fA, fB, fImm16, fDisp21, fW, fImm13, fScopeM, fM, fK, fT, fS, ex_lo, ex_hi, ex_all, ex_const, Nat.reduceSub, BitVec.toNat_ofNat, Nat.reducePow, Nat.reduceMod, beq_self_eq_true, Bool.and_self, if_true] <;> rfl
theorem Laws.RoundTrip.fencex (e : BitVec 5) (l : BitVec 3) (c : BitVec 2) : Laws.RoundTrip.Statement (.fencex e l c) := by
  intro h
  refine ⟨rfl, decode_of_fields ?_ h⟩
  simp (disch := decide) only [decodeFields, Words.first, Words.second, decodeSys, zeroFields, zeroFieldsThen, fOp, fFn, fD, fA, fB, fImm16, fDisp21, fW, fImm13, fScopeM, fM, fK, fT, fS, ex_lo, ex_hi, ex_all, ex_const, Nat.reduceSub, BitVec.toNat_ofNat, Nat.reducePow, Nat.reduceMod, beq_self_eq_true, Bool.and_self, if_true] <;> rfl
theorem Laws.RoundTrip.waitc (l : BitVec 4) (s : BitVec 4) (c : BitVec 4) (m : BitVec 4) (f : BitVec 4) : Laws.RoundTrip.Statement (.waitc l s c m f) := by
  intro h
  refine ⟨rfl, decode_of_fields ?_ h⟩
  simp (disch := decide) only [decodeFields, Words.first, Words.second, decodeSys, zeroFields, zeroFieldsThen, fOp, fFn, fD, fA, fB, fImm16, fDisp21, fW, fImm13, fScopeM, fM, fK, fT, fS, ex_lo, ex_hi, ex_all, ex_const, Nat.reduceSub, BitVec.toNat_ofNat, Nat.reducePow, Nat.reduceMod, beq_self_eq_true, Bool.and_self, if_true] <;> rfl
theorem Laws.RoundTrip.pause : Laws.RoundTrip.Statement .pause := by
  intro h
  refine ⟨rfl, decode_of_fields ?_ h⟩
  simp (disch := decide) only [decodeFields, Words.first, Words.second, zeroFields, zeroFieldsThen, fOp, fFn, fD, fA, fB, fImm16, fDisp21, fW, fImm13, fScopeM, fM, fK, fT, fS, ex_lo, ex_hi, ex_all, ex_const, Nat.reduceSub, BitVec.toNat_ofNat, Nat.reducePow, Nat.reduceMod, beq_self_eq_true, Bool.and_self, if_true] <;> rfl
theorem Laws.RoundTrip.vset (d : BitVec 5) (a : BitVec 5) (b : BitVec 5) : Laws.RoundTrip.Statement (.vset d a b) := by
  intro h
  refine ⟨rfl, decode_of_fields ?_ h⟩
  simp (disch := decide) only [decodeFields, Words.first, Words.second, decodeVcfg, zeroFields, zeroFieldsThen, fOp, fFn, fD, fA, fB, fImm16, fDisp21, fW, fImm13, fScopeM, fM, fK, fT, fS, ex_lo, ex_hi, ex_all, ex_const, Nat.reduceSub, BitVec.toNat_ofNat, Nat.reducePow, Nat.reduceMod, beq_self_eq_true, Bool.and_self, if_true] <;> rfl
theorem Laws.RoundTrip.vseti (d : BitVec 5) (a : BitVec 5) (g : BitVec 2) (e : BitVec 2) : Laws.RoundTrip.Statement (.vseti d a g e) := by
  intro h
  refine ⟨rfl, decode_of_fields ?_ h⟩
  simp (disch := decide) only [decodeFields, Words.first, Words.second, decodeVcfg, zeroFields, zeroFieldsThen, fOp, fFn, fD, fA, fB, fImm16, fDisp21, fW, fImm13, fScopeM, fM, fK, fT, fS, ex_lo, ex_hi, ex_all, ex_const, Nat.reduceSub, BitVec.toNat_ofNat, Nat.reducePow, Nat.reduceMod, beq_self_eq_true, Bool.and_self, if_true] <;> rfl
theorem Laws.RoundTrip.vfill (d : BitVec 5) (a : BitVec 5) : Laws.RoundTrip.Statement (.vfill d a) := by
  intro h
  refine ⟨rfl, decode_of_fields ?_ h⟩
  simp (disch := decide) only [decodeFields, Words.first, Words.second, decodeVcfg, zeroFields, zeroFieldsThen, fOp, fFn, fD, fA, fB, fImm16, fDisp21, fW, fImm13, fScopeM, fM, fK, fT, fS, ex_lo, ex_hi, ex_all, ex_const, Nat.reduceSub, BitVec.toNat_ofNat, Nat.reducePow, Nat.reduceMod, beq_self_eq_true, Bool.and_self, if_true] <;> rfl
theorem Laws.RoundTrip.vfillR (d : BitVec 5) (a : BitVec 5) : Laws.RoundTrip.Statement (.vfillR d a) := by
  intro h
  refine ⟨rfl, decode_of_fields ?_ h⟩
  simp (disch := decide) only [decodeFields, Words.first, Words.second, decodeVcfg, zeroFields, zeroFieldsThen, fOp, fFn, fD, fA, fB, fImm16, fDisp21, fW, fImm13, fScopeM, fM, fK, fT, fS, ex_lo, ex_hi, ex_all, ex_const, Nat.reduceSub, BitVec.toNat_ofNat, Nat.reducePow, Nat.reduceMod, beq_self_eq_true, Bool.and_self, if_true] <;> rfl
theorem Laws.RoundTrip.vld (d : BitVec 5) (a : BitVec 5) (m : BitVec 3) (p : BitVec 1) : Laws.RoundTrip.Statement (.vld d a m p) := by
  intro h
  refine ⟨rfl, decode_of_fields ?_ h⟩
  simp (disch := decide) only [decodeFields, Words.first, Words.second, decodeVld, zeroFields, zeroFieldsThen, fOp, fFn, fD, fA, fB, fImm16, fDisp21, fW, fImm13, fScopeM, fM, fK, fT, fS, ex_lo, ex_hi, ex_all, ex_const, Nat.reduceSub, BitVec.toNat_ofNat, Nat.reducePow, Nat.reduceMod, beq_self_eq_true, Bool.and_self, if_true] <;> rfl
theorem Laws.RoundTrip.vlds (d : BitVec 5) (a : BitVec 5) (b : BitVec 5) (m : BitVec 3) : Laws.RoundTrip.Statement (.vlds d a b m) := by
  intro h
  refine ⟨rfl, decode_of_fields ?_ h⟩
  simp (disch := decide) only [decodeFields, Words.first, Words.second, decodeVld, zeroFields, zeroFieldsThen, fOp, fFn, fD, fA, fB, fImm16, fDisp21, fW, fImm13, fScopeM, fM, fK, fT, fS, ex_lo, ex_hi, ex_all, ex_const, Nat.reduceSub, BitVec.toNat_ofNat, Nat.reducePow, Nat.reduceMod, beq_self_eq_true, Bool.and_self, if_true] <;> rfl
theorem Laws.RoundTrip.vldx (d : BitVec 5) (a : BitVec 5) (b : BitVec 5) (m : BitVec 3) (i : BitVec 2) : Laws.RoundTrip.Statement (.vldx d a b m i) := by
  intro h
  refine ⟨rfl, decode_of_fields ?_ h⟩
  simp (disch := decide) only [decodeFields, Words.first, Words.second, decodeVld, zeroFields, zeroFieldsThen, fOp, fFn, fD, fA, fB, fImm16, fDisp21, fW, fImm13, fScopeM, fM, fK, fT, fS, ex_lo, ex_hi, ex_all, ex_const, Nat.reduceSub, BitVec.toNat_ofNat, Nat.reducePow, Nat.reduceMod, beq_self_eq_true, Bool.and_self, if_true] <;> rfl
theorem Laws.RoundTrip.vldff (d : BitVec 5) (a : BitVec 5) (m : BitVec 3) (p : BitVec 1) : Laws.RoundTrip.Statement (.vldff d a m p) := by
  intro h
  refine ⟨rfl, decode_of_fields ?_ h⟩
  simp (disch := decide) only [decodeFields, Words.first, Words.second, decodeVld, zeroFields, zeroFieldsThen, fOp, fFn, fD, fA, fB, fImm16, fDisp21, fW, fImm13, fScopeM, fM, fK, fT, fS, ex_lo, ex_hi, ex_all, ex_const, Nat.reduceSub, BitVec.toNat_ofNat, Nat.reducePow, Nat.reduceMod, beq_self_eq_true, Bool.and_self, if_true] <;> rfl
theorem Laws.RoundTrip.vldc (d : BitVec 5) (a : BitVec 5) (m : BitVec 3) : Laws.RoundTrip.Statement (.vldc d a m) := by
  intro h
  refine ⟨rfl, decode_of_fields ?_ h⟩
  simp (disch := decide) only [decodeFields, Words.first, Words.second, decodeVld, zeroFields, zeroFieldsThen, fOp, fFn, fD, fA, fB, fImm16, fDisp21, fW, fImm13, fScopeM, fM, fK, fT, fS, ex_lo, ex_hi, ex_all, ex_const, Nat.reduceSub, BitVec.toNat_ofNat, Nat.reducePow, Nat.reduceMod, beq_self_eq_true, Bool.and_self, if_true] <;> rfl
theorem Laws.RoundTrip.vldb (d : BitVec 5) (a : BitVec 5) (h : BitVec 5) (m : BitVec 3) (p : BitVec 1) (j : BitVec 1) : Laws.RoundTrip.Statement (.vldb d a h m p j) := by
  intro h
  refine ⟨rfl, decode_of_fields ?_ h⟩
  simp (disch := decide) only [decodeFields, Words.first, Words.second, decodeVld, zeroFields, zeroFieldsThen, fOp, fFn, fD, fA, fB, fImm16, fDisp21, fW, fImm13, fScopeM, fM, fK, fT, fS, ex_lo, ex_hi, ex_all, ex_const, Nat.reduceSub, BitVec.toNat_ofNat, Nat.reducePow, Nat.reduceMod, beq_self_eq_true, Bool.and_self, if_true] <;> rfl
theorem Laws.RoundTrip.vldbC (d : BitVec 5) (a : BitVec 5) (h : BitVec 5) (m : BitVec 3) (p : BitVec 1) (j : BitVec 1) : Laws.RoundTrip.Statement (.vldbC d a h m p j) := by
  intro h
  refine ⟨rfl, decode_of_fields ?_ h⟩
  simp (disch := decide) only [decodeFields, Words.first, Words.second, decodeVld, zeroFields, zeroFieldsThen, fOp, fFn, fD, fA, fB, fImm16, fDisp21, fW, fImm13, fScopeM, fM, fK, fT, fS, ex_lo, ex_hi, ex_all, ex_const, Nat.reduceSub, BitVec.toNat_ofNat, Nat.reducePow, Nat.reduceMod, beq_self_eq_true, Bool.and_self, if_true] <;> rfl
theorem Laws.RoundTrip.vldm (d : BitVec 5) (a : BitVec 5) : Laws.RoundTrip.Statement (.vldm d a) := by
  intro h
  refine ⟨rfl, decode_of_fields ?_ h⟩
  simp (disch := decide) only [decodeFields, Words.first, Words.second, decodeVld, zeroFields, zeroFieldsThen, fOp, fFn, fD, fA, fB, fImm16, fDisp21, fW, fImm13, fScopeM, fM, fK, fT, fS, ex_lo, ex_hi, ex_all, ex_const, Nat.reduceSub, BitVec.toNat_ofNat, Nat.reducePow, Nat.reduceMod, beq_self_eq_true, Bool.and_self, if_true] <;> rfl
theorem Laws.RoundTrip.vst (s : BitVec 5) (a : BitVec 5) (m : BitVec 3) (p : BitVec 1) : Laws.RoundTrip.Statement (.vst s a m p) := by
  intro h
  refine ⟨rfl, decode_of_fields ?_ h⟩
  simp (disch := decide) only [decodeFields, Words.first, Words.second, decodeVst, zeroFields, zeroFieldsThen, fOp, fFn, fD, fA, fB, fImm16, fDisp21, fW, fImm13, fScopeM, fM, fK, fT, fS, ex_lo, ex_hi, ex_all, ex_const, Nat.reduceSub, BitVec.toNat_ofNat, Nat.reducePow, Nat.reduceMod, beq_self_eq_true, Bool.and_self, if_true] <;> rfl
theorem Laws.RoundTrip.vsts (s : BitVec 5) (a : BitVec 5) (b : BitVec 5) (m : BitVec 3) : Laws.RoundTrip.Statement (.vsts s a b m) := by
  intro h
  refine ⟨rfl, decode_of_fields ?_ h⟩
  simp (disch := decide) only [decodeFields, Words.first, Words.second, decodeVst, zeroFields, zeroFieldsThen, fOp, fFn, fD, fA, fB, fImm16, fDisp21, fW, fImm13, fScopeM, fM, fK, fT, fS, ex_lo, ex_hi, ex_all, ex_const, Nat.reduceSub, BitVec.toNat_ofNat, Nat.reducePow, Nat.reduceMod, beq_self_eq_true, Bool.and_self, if_true] <;> rfl
theorem Laws.RoundTrip.vstx (s : BitVec 5) (a : BitVec 5) (b : BitVec 5) (m : BitVec 3) (i : BitVec 2) : Laws.RoundTrip.Statement (.vstx s a b m i) := by
  intro h
  refine ⟨rfl, decode_of_fields ?_ h⟩
  simp (disch := decide) only [decodeFields, Words.first, Words.second, decodeVst, zeroFields, zeroFieldsThen, fOp, fFn, fD, fA, fB, fImm16, fDisp21, fW, fImm13, fScopeM, fM, fK, fT, fS, ex_lo, ex_hi, ex_all, ex_const, Nat.reduceSub, BitVec.toNat_ofNat, Nat.reducePow, Nat.reduceMod, beq_self_eq_true, Bool.and_self, if_true] <;> rfl
theorem Laws.RoundTrip.vstb (s : BitVec 5) (a : BitVec 5) (h : BitVec 5) (m : BitVec 3) (p : BitVec 1) (j : BitVec 1) : Laws.RoundTrip.Statement (.vstb s a h m p j) := by
  intro h
  refine ⟨rfl, decode_of_fields ?_ h⟩
  simp (disch := decide) only [decodeFields, Words.first, Words.second, decodeVst, zeroFields, zeroFieldsThen, fOp, fFn, fD, fA, fB, fImm16, fDisp21, fW, fImm13, fScopeM, fM, fK, fT, fS, ex_lo, ex_hi, ex_all, ex_const, Nat.reduceSub, BitVec.toNat_ofNat, Nat.reducePow, Nat.reduceMod, beq_self_eq_true, Bool.and_self, if_true] <;> rfl
theorem Laws.RoundTrip.vstm (s : BitVec 5) (a : BitVec 5) : Laws.RoundTrip.Statement (.vstm s a) := by
  intro h
  refine ⟨rfl, decode_of_fields ?_ h⟩
  simp (disch := decide) only [decodeFields, Words.first, Words.second, decodeVst, zeroFields, zeroFieldsThen, fOp, fFn, fD, fA, fB, fImm16, fDisp21, fW, fImm13, fScopeM, fM, fK, fT, fS, ex_lo, ex_hi, ex_all, ex_const, Nat.reduceSub, BitVec.toNat_ofNat, Nat.reducePow, Nat.reduceMod, beq_self_eq_true, Bool.and_self, if_true] <;> rfl
theorem Laws.RoundTrip.vldt (d : BitVec 5) (a : BitVec 5) (b : BitVec 5) (c : BitVec 5) (e : BitVec 5) (n2 : BitVec 2) (n1 : BitVec 2) : Laws.RoundTrip.Statement (.vldt d a b c e n2 n1) := by
  intro h
  refine ⟨rfl, decode_of_fields ?_ h⟩
  simp (disch := decide) only [decodeFields, Words.first, Words.second, decodeLong, zeroFields, zeroFieldsThen, fOp, fFn, fD, fA, fB, fImm16, fDisp21, fW, fImm13, fScopeM, fM, fK, fT, fS, ex_lo, ex_hi, ex_all, ex_const, Nat.reduceSub, BitVec.toNat_ofNat, Nat.reducePow, Nat.reduceMod, beq_self_eq_true, Bool.and_self, if_true] <;> rfl
theorem Laws.RoundTrip.vadd (d : BitVec 5) (a : BitVec 5) (b : BitVec 5) (m : BitVec 3) (v : BitVec 1) : Laws.RoundTrip.Statement (.vadd d a b m v) := by
  intro h
  refine ⟨rfl, decode_of_fields ?_ h⟩
  simp (disch := decide) only [decodeFields, Words.first, Words.second, decodeVint, zeroFields, zeroFieldsThen, fOp, fFn, fD, fA, fB, fImm16, fDisp21, fW, fImm13, fScopeM, fM, fK, fT, fS, ex_lo, ex_hi, ex_all, ex_const, Nat.reduceSub, BitVec.toNat_ofNat, Nat.reducePow, Nat.reduceMod, beq_self_eq_true, Bool.and_self, if_true] <;> rfl
theorem Laws.RoundTrip.vsub (d : BitVec 5) (a : BitVec 5) (b : BitVec 5) (m : BitVec 3) (v : BitVec 1) : Laws.RoundTrip.Statement (.vsub d a b m v) := by
  intro h
  refine ⟨rfl, decode_of_fields ?_ h⟩
  simp (disch := decide) only [decodeFields, Words.first, Words.second, decodeVint, zeroFields, zeroFieldsThen, fOp, fFn, fD, fA, fB, fImm16, fDisp21, fW, fImm13, fScopeM, fM, fK, fT, fS, ex_lo, ex_hi, ex_all, ex_const, Nat.reduceSub, BitVec.toNat_ofNat, Nat.reducePow, Nat.reduceMod, beq_self_eq_true, Bool.and_self, if_true] <;> rfl
theorem Laws.RoundTrip.vmul (d : BitVec 5) (a : BitVec 5) (b : BitVec 5) (m : BitVec 3) (v : BitVec 1) : Laws.RoundTrip.Statement (.vmul d a b m v) := by
  intro h
  refine ⟨rfl, decode_of_fields ?_ h⟩
  simp (disch := decide) only [decodeFields, Words.first, Words.second, decodeVint, zeroFields, zeroFieldsThen, fOp, fFn, fD, fA, fB, fImm16, fDisp21, fW, fImm13, fScopeM, fM, fK, fT, fS, ex_lo, ex_hi, ex_all, ex_const, Nat.reduceSub, BitVec.toNat_ofNat, Nat.reducePow, Nat.reduceMod, beq_self_eq_true, Bool.and_self, if_true] <;> rfl
theorem Laws.RoundTrip.vmulh (d : BitVec 5) (a : BitVec 5) (b : BitVec 5) (m : BitVec 3) (v : BitVec 1) : Laws.RoundTrip.Statement (.vmulh d a b m v) := by
  intro h
  refine ⟨rfl, decode_of_fields ?_ h⟩
  simp (disch := decide) only [decodeFields, Words.first, Words.second, decodeVint, zeroFields, zeroFieldsThen, fOp, fFn, fD, fA, fB, fImm16, fDisp21, fW, fImm13, fScopeM, fM, fK, fT, fS, ex_lo, ex_hi, ex_all, ex_const, Nat.reduceSub, BitVec.toNat_ofNat, Nat.reducePow, Nat.reduceMod, beq_self_eq_true, Bool.and_self, if_true] <;> rfl
theorem Laws.RoundTrip.vdiv (d : BitVec 5) (a : BitVec 5) (b : BitVec 5) (m : BitVec 3) (v : BitVec 1) : Laws.RoundTrip.Statement (.vdiv d a b m v) := by
  intro h
  refine ⟨rfl, decode_of_fields ?_ h⟩
  simp (disch := decide) only [decodeFields, Words.first, Words.second, decodeVint, zeroFields, zeroFieldsThen, fOp, fFn, fD, fA, fB, fImm16, fDisp21, fW, fImm13, fScopeM, fM, fK, fT, fS, ex_lo, ex_hi, ex_all, ex_const, Nat.reduceSub, BitVec.toNat_ofNat, Nat.reducePow, Nat.reduceMod, beq_self_eq_true, Bool.and_self, if_true] <;> rfl
theorem Laws.RoundTrip.vrem (d : BitVec 5) (a : BitVec 5) (b : BitVec 5) (m : BitVec 3) (v : BitVec 1) : Laws.RoundTrip.Statement (.vrem d a b m v) := by
  intro h
  refine ⟨rfl, decode_of_fields ?_ h⟩
  simp (disch := decide) only [decodeFields, Words.first, Words.second, decodeVint, zeroFields, zeroFieldsThen, fOp, fFn, fD, fA, fB, fImm16, fDisp21, fW, fImm13, fScopeM, fM, fK, fT, fS, ex_lo, ex_hi, ex_all, ex_const, Nat.reduceSub, BitVec.toNat_ofNat, Nat.reducePow, Nat.reduceMod, beq_self_eq_true, Bool.and_self, if_true] <;> rfl
theorem Laws.RoundTrip.vmin (d : BitVec 5) (a : BitVec 5) (b : BitVec 5) (m : BitVec 3) (v : BitVec 1) : Laws.RoundTrip.Statement (.vmin d a b m v) := by
  intro h
  refine ⟨rfl, decode_of_fields ?_ h⟩
  simp (disch := decide) only [decodeFields, Words.first, Words.second, decodeVint, zeroFields, zeroFieldsThen, fOp, fFn, fD, fA, fB, fImm16, fDisp21, fW, fImm13, fScopeM, fM, fK, fT, fS, ex_lo, ex_hi, ex_all, ex_const, Nat.reduceSub, BitVec.toNat_ofNat, Nat.reducePow, Nat.reduceMod, beq_self_eq_true, Bool.and_self, if_true] <;> rfl
theorem Laws.RoundTrip.vmax (d : BitVec 5) (a : BitVec 5) (b : BitVec 5) (m : BitVec 3) (v : BitVec 1) : Laws.RoundTrip.Statement (.vmax d a b m v) := by
  intro h
  refine ⟨rfl, decode_of_fields ?_ h⟩
  simp (disch := decide) only [decodeFields, Words.first, Words.second, decodeVint, zeroFields, zeroFieldsThen, fOp, fFn, fD, fA, fB, fImm16, fDisp21, fW, fImm13, fScopeM, fM, fK, fT, fS, ex_lo, ex_hi, ex_all, ex_const, Nat.reduceSub, BitVec.toNat_ofNat, Nat.reducePow, Nat.reduceMod, beq_self_eq_true, Bool.and_self, if_true] <;> rfl
theorem Laws.RoundTrip.vminu (d : BitVec 5) (a : BitVec 5) (b : BitVec 5) (m : BitVec 3) (v : BitVec 1) : Laws.RoundTrip.Statement (.vminu d a b m v) := by
  intro h
  refine ⟨rfl, decode_of_fields ?_ h⟩
  simp (disch := decide) only [decodeFields, Words.first, Words.second, decodeVint, zeroFields, zeroFieldsThen, fOp, fFn, fD, fA, fB, fImm16, fDisp21, fW, fImm13, fScopeM, fM, fK, fT, fS, ex_lo, ex_hi, ex_all, ex_const, Nat.reduceSub, BitVec.toNat_ofNat, Nat.reducePow, Nat.reduceMod, beq_self_eq_true, Bool.and_self, if_true] <;> rfl
theorem Laws.RoundTrip.vmaxu (d : BitVec 5) (a : BitVec 5) (b : BitVec 5) (m : BitVec 3) (v : BitVec 1) : Laws.RoundTrip.Statement (.vmaxu d a b m v) := by
  intro h
  refine ⟨rfl, decode_of_fields ?_ h⟩
  simp (disch := decide) only [decodeFields, Words.first, Words.second, decodeVint, zeroFields, zeroFieldsThen, fOp, fFn, fD, fA, fB, fImm16, fDisp21, fW, fImm13, fScopeM, fM, fK, fT, fS, ex_lo, ex_hi, ex_all, ex_const, Nat.reduceSub, BitVec.toNat_ofNat, Nat.reducePow, Nat.reduceMod, beq_self_eq_true, Bool.and_self, if_true] <;> rfl
theorem Laws.RoundTrip.vand (d : BitVec 5) (a : BitVec 5) (b : BitVec 5) (m : BitVec 3) (v : BitVec 1) : Laws.RoundTrip.Statement (.vand d a b m v) := by
  intro h
  refine ⟨rfl, decode_of_fields ?_ h⟩
  simp (disch := decide) only [decodeFields, Words.first, Words.second, decodeVint, zeroFields, zeroFieldsThen, fOp, fFn, fD, fA, fB, fImm16, fDisp21, fW, fImm13, fScopeM, fM, fK, fT, fS, ex_lo, ex_hi, ex_all, ex_const, Nat.reduceSub, BitVec.toNat_ofNat, Nat.reducePow, Nat.reduceMod, beq_self_eq_true, Bool.and_self, if_true] <;> rfl
theorem Laws.RoundTrip.vor (d : BitVec 5) (a : BitVec 5) (b : BitVec 5) (m : BitVec 3) (v : BitVec 1) : Laws.RoundTrip.Statement (.vor d a b m v) := by
  intro h
  refine ⟨rfl, decode_of_fields ?_ h⟩
  simp (disch := decide) only [decodeFields, Words.first, Words.second, decodeVint, zeroFields, zeroFieldsThen, fOp, fFn, fD, fA, fB, fImm16, fDisp21, fW, fImm13, fScopeM, fM, fK, fT, fS, ex_lo, ex_hi, ex_all, ex_const, Nat.reduceSub, BitVec.toNat_ofNat, Nat.reducePow, Nat.reduceMod, beq_self_eq_true, Bool.and_self, if_true] <;> rfl
theorem Laws.RoundTrip.vxor (d : BitVec 5) (a : BitVec 5) (b : BitVec 5) (m : BitVec 3) (v : BitVec 1) : Laws.RoundTrip.Statement (.vxor d a b m v) := by
  intro h
  refine ⟨rfl, decode_of_fields ?_ h⟩
  simp (disch := decide) only [decodeFields, Words.first, Words.second, decodeVint, zeroFields, zeroFieldsThen, fOp, fFn, fD, fA, fB, fImm16, fDisp21, fW, fImm13, fScopeM, fM, fK, fT, fS, ex_lo, ex_hi, ex_all, ex_const, Nat.reduceSub, BitVec.toNat_ofNat, Nat.reducePow, Nat.reduceMod, beq_self_eq_true, Bool.and_self, if_true] <;> rfl
theorem Laws.RoundTrip.vsll (d : BitVec 5) (a : BitVec 5) (b : BitVec 5) (m : BitVec 3) (v : BitVec 1) : Laws.RoundTrip.Statement (.vsll d a b m v) := by
  intro h
  refine ⟨rfl, decode_of_fields ?_ h⟩
  simp (disch := decide) only [decodeFields, Words.first, Words.second, decodeVint, zeroFields, zeroFieldsThen, fOp, fFn, fD, fA, fB, fImm16, fDisp21, fW, fImm13, fScopeM, fM, fK, fT, fS, ex_lo, ex_hi, ex_all, ex_const, Nat.reduceSub, BitVec.toNat_ofNat, Nat.reducePow, Nat.reduceMod, beq_self_eq_true, Bool.and_self, if_true] <;> rfl
theorem Laws.RoundTrip.vsrl (d : BitVec 5) (a : BitVec 5) (b : BitVec 5) (m : BitVec 3) (v : BitVec 1) : Laws.RoundTrip.Statement (.vsrl d a b m v) := by
  intro h
  refine ⟨rfl, decode_of_fields ?_ h⟩
  simp (disch := decide) only [decodeFields, Words.first, Words.second, decodeVint, zeroFields, zeroFieldsThen, fOp, fFn, fD, fA, fB, fImm16, fDisp21, fW, fImm13, fScopeM, fM, fK, fT, fS, ex_lo, ex_hi, ex_all, ex_const, Nat.reduceSub, BitVec.toNat_ofNat, Nat.reducePow, Nat.reduceMod, beq_self_eq_true, Bool.and_self, if_true] <;> rfl
theorem Laws.RoundTrip.vsra (d : BitVec 5) (a : BitVec 5) (b : BitVec 5) (m : BitVec 3) (v : BitVec 1) : Laws.RoundTrip.Statement (.vsra d a b m v) := by
  intro h
  refine ⟨rfl, decode_of_fields ?_ h⟩
  simp (disch := decide) only [decodeFields, Words.first, Words.second, decodeVint, zeroFields, zeroFieldsThen, fOp, fFn, fD, fA, fB, fImm16, fDisp21, fW, fImm13, fScopeM, fM, fK, fT, fS, ex_lo, ex_hi, ex_all, ex_const, Nat.reduceSub, BitVec.toNat_ofNat, Nat.reducePow, Nat.reduceMod, beq_self_eq_true, Bool.and_self, if_true] <;> rfl
theorem Laws.RoundTrip.vfadd (d : BitVec 5) (a : BitVec 5) (b : BitVec 5) (m : BitVec 3) (v : BitVec 1) : Laws.RoundTrip.Statement (.vfadd d a b m v) := by
  intro h
  refine ⟨rfl, decode_of_fields ?_ h⟩
  simp (disch := decide) only [decodeFields, Words.first, Words.second, decodeVfp, zeroFields, zeroFieldsThen, fOp, fFn, fD, fA, fB, fImm16, fDisp21, fW, fImm13, fScopeM, fM, fK, fT, fS, ex_lo, ex_hi, ex_all, ex_const, Nat.reduceSub, BitVec.toNat_ofNat, Nat.reducePow, Nat.reduceMod, beq_self_eq_true, Bool.and_self, if_true] <;> rfl
theorem Laws.RoundTrip.vfsub (d : BitVec 5) (a : BitVec 5) (b : BitVec 5) (m : BitVec 3) (v : BitVec 1) : Laws.RoundTrip.Statement (.vfsub d a b m v) := by
  intro h
  refine ⟨rfl, decode_of_fields ?_ h⟩
  simp (disch := decide) only [decodeFields, Words.first, Words.second, decodeVfp, zeroFields, zeroFieldsThen, fOp, fFn, fD, fA, fB, fImm16, fDisp21, fW, fImm13, fScopeM, fM, fK, fT, fS, ex_lo, ex_hi, ex_all, ex_const, Nat.reduceSub, BitVec.toNat_ofNat, Nat.reducePow, Nat.reduceMod, beq_self_eq_true, Bool.and_self, if_true] <;> rfl
theorem Laws.RoundTrip.vfmul (d : BitVec 5) (a : BitVec 5) (b : BitVec 5) (m : BitVec 3) (v : BitVec 1) : Laws.RoundTrip.Statement (.vfmul d a b m v) := by
  intro h
  refine ⟨rfl, decode_of_fields ?_ h⟩
  simp (disch := decide) only [decodeFields, Words.first, Words.second, decodeVfp, zeroFields, zeroFieldsThen, fOp, fFn, fD, fA, fB, fImm16, fDisp21, fW, fImm13, fScopeM, fM, fK, fT, fS, ex_lo, ex_hi, ex_all, ex_const, Nat.reduceSub, BitVec.toNat_ofNat, Nat.reducePow, Nat.reduceMod, beq_self_eq_true, Bool.and_self, if_true] <;> rfl
theorem Laws.RoundTrip.vfma (d : BitVec 5) (a : BitVec 5) (b : BitVec 5) (m : BitVec 3) (v : BitVec 1) : Laws.RoundTrip.Statement (.vfma d a b m v) := by
  intro h
  refine ⟨rfl, decode_of_fields ?_ h⟩
  simp (disch := decide) only [decodeFields, Words.first, Words.second, decodeVfp, zeroFields, zeroFieldsThen, fOp, fFn, fD, fA, fB, fImm16, fDisp21, fW, fImm13, fScopeM, fM, fK, fT, fS, ex_lo, ex_hi, ex_all, ex_const, Nat.reduceSub, BitVec.toNat_ofNat, Nat.reducePow, Nat.reduceMod, beq_self_eq_true, Bool.and_self, if_true] <;> rfl
theorem Laws.RoundTrip.vfnma (d : BitVec 5) (a : BitVec 5) (b : BitVec 5) (m : BitVec 3) (v : BitVec 1) : Laws.RoundTrip.Statement (.vfnma d a b m v) := by
  intro h
  refine ⟨rfl, decode_of_fields ?_ h⟩
  simp (disch := decide) only [decodeFields, Words.first, Words.second, decodeVfp, zeroFields, zeroFieldsThen, fOp, fFn, fD, fA, fB, fImm16, fDisp21, fW, fImm13, fScopeM, fM, fK, fT, fS, ex_lo, ex_hi, ex_all, ex_const, Nat.reduceSub, BitVec.toNat_ofNat, Nat.reducePow, Nat.reduceMod, beq_self_eq_true, Bool.and_self, if_true] <;> rfl
theorem Laws.RoundTrip.vfdiv (d : BitVec 5) (a : BitVec 5) (b : BitVec 5) (m : BitVec 3) (v : BitVec 1) : Laws.RoundTrip.Statement (.vfdiv d a b m v) := by
  intro h
  refine ⟨rfl, decode_of_fields ?_ h⟩
  simp (disch := decide) only [decodeFields, Words.first, Words.second, decodeVfp, zeroFields, zeroFieldsThen, fOp, fFn, fD, fA, fB, fImm16, fDisp21, fW, fImm13, fScopeM, fM, fK, fT, fS, ex_lo, ex_hi, ex_all, ex_const, Nat.reduceSub, BitVec.toNat_ofNat, Nat.reducePow, Nat.reduceMod, beq_self_eq_true, Bool.and_self, if_true] <;> rfl
theorem Laws.RoundTrip.vfsqrt (d : BitVec 5) (a : BitVec 5) (m : BitVec 3) : Laws.RoundTrip.Statement (.vfsqrt d a m) := by
  intro h
  refine ⟨rfl, decode_of_fields ?_ h⟩
  simp (disch := decide) only [decodeFields, Words.first, Words.second, decodeVfp, zeroFields, zeroFieldsThen, fOp, fFn, fD, fA, fB, fImm16, fDisp21, fW, fImm13, fScopeM, fM, fK, fT, fS, ex_lo, ex_hi, ex_all, ex_const, Nat.reduceSub, BitVec.toNat_ofNat, Nat.reducePow, Nat.reduceMod, beq_self_eq_true, Bool.and_self, if_true] <;> rfl
theorem Laws.RoundTrip.vfmin (d : BitVec 5) (a : BitVec 5) (b : BitVec 5) (m : BitVec 3) (v : BitVec 1) : Laws.RoundTrip.Statement (.vfmin d a b m v) := by
  intro h
  refine ⟨rfl, decode_of_fields ?_ h⟩
  simp (disch := decide) only [decodeFields, Words.first, Words.second, decodeVfp, zeroFields, zeroFieldsThen, fOp, fFn, fD, fA, fB, fImm16, fDisp21, fW, fImm13, fScopeM, fM, fK, fT, fS, ex_lo, ex_hi, ex_all, ex_const, Nat.reduceSub, BitVec.toNat_ofNat, Nat.reducePow, Nat.reduceMod, beq_self_eq_true, Bool.and_self, if_true] <;> rfl
theorem Laws.RoundTrip.vfmax (d : BitVec 5) (a : BitVec 5) (b : BitVec 5) (m : BitVec 3) (v : BitVec 1) : Laws.RoundTrip.Statement (.vfmax d a b m v) := by
  intro h
  refine ⟨rfl, decode_of_fields ?_ h⟩
  simp (disch := decide) only [decodeFields, Words.first, Words.second, decodeVfp, zeroFields, zeroFieldsThen, fOp, fFn, fD, fA, fB, fImm16, fDisp21, fW, fImm13, fScopeM, fM, fK, fT, fS, ex_lo, ex_hi, ex_all, ex_const, Nat.reduceSub, BitVec.toNat_ofNat, Nat.reducePow, Nat.reduceMod, beq_self_eq_true, Bool.and_self, if_true] <;> rfl
theorem Laws.RoundTrip.vfexp2 (d : BitVec 5) (a : BitVec 5) (m : BitVec 3) : Laws.RoundTrip.Statement (.vfexp2 d a m) := by
  intro h
  refine ⟨rfl, decode_of_fields ?_ h⟩
  simp (disch := decide) only [decodeFields, Words.first, Words.second, decodeVfp, zeroFields, zeroFieldsThen, fOp, fFn, fD, fA, fB, fImm16, fDisp21, fW, fImm13, fScopeM, fM, fK, fT, fS, ex_lo, ex_hi, ex_all, ex_const, Nat.reduceSub, BitVec.toNat_ofNat, Nat.reducePow, Nat.reduceMod, beq_self_eq_true, Bool.and_self, if_true] <;> rfl
theorem Laws.RoundTrip.vcmp (d : BitVec 5) (a : BitVec 5) (b : BitVec 5) (m : BitVec 3) (v : BitVec 1) (c : BitVec 4) : Laws.RoundTrip.Statement (.vcmp d a b m v c) := by
  intro h
  refine ⟨rfl, decode_of_fields ?_ h⟩
  simp (disch := decide) only [decodeFields, Words.first, Words.second, decodeVmsk, zeroFields, zeroFieldsThen, fOp, fFn, fD, fA, fB, fImm16, fDisp21, fW, fImm13, fScopeM, fM, fK, fT, fS, ex_lo, ex_hi, ex_all, ex_const, Nat.reduceSub, BitVec.toNat_ofNat, Nat.reducePow, Nat.reduceMod, beq_self_eq_true, Bool.and_self, if_true] <;> rfl
theorem Laws.RoundTrip.vfcmp (d : BitVec 5) (a : BitVec 5) (b : BitVec 5) (m : BitVec 3) (v : BitVec 1) (c : BitVec 4) : Laws.RoundTrip.Statement (.vfcmp d a b m v c) := by
  intro h
  refine ⟨rfl, decode_of_fields ?_ h⟩
  simp (disch := decide) only [decodeFields, Words.first, Words.second, decodeVmsk, zeroFields, zeroFieldsThen, fOp, fFn, fD, fA, fB, fImm16, fDisp21, fW, fImm13, fScopeM, fM, fK, fT, fS, ex_lo, ex_hi, ex_all, ex_const, Nat.reduceSub, BitVec.toNat_ofNat, Nat.reducePow, Nat.reduceMod, beq_self_eq_true, Bool.and_self, if_true] <;> rfl
theorem Laws.RoundTrip.mand (d : BitVec 5) (a : BitVec 5) (b : BitVec 5) : Laws.RoundTrip.Statement (.mand d a b) := by
  intro h
  refine ⟨rfl, decode_of_fields ?_ h⟩
  simp (disch := decide) only [decodeFields, Words.first, Words.second, decodeVmsk, zeroFields, zeroFieldsThen, fOp, fFn, fD, fA, fB, fImm16, fDisp21, fW, fImm13, fScopeM, fM, fK, fT, fS, ex_lo, ex_hi, ex_all, ex_const, Nat.reduceSub, BitVec.toNat_ofNat, Nat.reducePow, Nat.reduceMod, beq_self_eq_true, Bool.and_self, if_true] <;> rfl
theorem Laws.RoundTrip.mor (d : BitVec 5) (a : BitVec 5) (b : BitVec 5) : Laws.RoundTrip.Statement (.mor d a b) := by
  intro h
  refine ⟨rfl, decode_of_fields ?_ h⟩
  simp (disch := decide) only [decodeFields, Words.first, Words.second, decodeVmsk, zeroFields, zeroFieldsThen, fOp, fFn, fD, fA, fB, fImm16, fDisp21, fW, fImm13, fScopeM, fM, fK, fT, fS, ex_lo, ex_hi, ex_all, ex_const, Nat.reduceSub, BitVec.toNat_ofNat, Nat.reducePow, Nat.reduceMod, beq_self_eq_true, Bool.and_self, if_true] <;> rfl
theorem Laws.RoundTrip.mxor (d : BitVec 5) (a : BitVec 5) (b : BitVec 5) : Laws.RoundTrip.Statement (.mxor d a b) := by
  intro h
  refine ⟨rfl, decode_of_fields ?_ h⟩
  simp (disch := decide) only [decodeFields, Words.first, Words.second, decodeVmsk, zeroFields, zeroFieldsThen, fOp, fFn, fD, fA, fB, fImm16, fDisp21, fW, fImm13, fScopeM, fM, fK, fT, fS, ex_lo, ex_hi, ex_all, ex_const, Nat.reduceSub, BitVec.toNat_ofNat, Nat.reducePow, Nat.reduceMod, beq_self_eq_true, Bool.and_self, if_true] <;> rfl
theorem Laws.RoundTrip.mandn (d : BitVec 5) (a : BitVec 5) (b : BitVec 5) : Laws.RoundTrip.Statement (.mandn d a b) := by
  intro h
  refine ⟨rfl, decode_of_fields ?_ h⟩
  simp (disch := decide) only [decodeFields, Words.first, Words.second, decodeVmsk, zeroFields, zeroFieldsThen, fOp, fFn, fD, fA, fB, fImm16, fDisp21, fW, fImm13, fScopeM, fM, fK, fT, fS, ex_lo, ex_hi, ex_all, ex_const, Nat.reduceSub, BitVec.toNat_ofNat, Nat.reducePow, Nat.reduceMod, beq_self_eq_true, Bool.and_self, if_true] <;> rfl
theorem Laws.RoundTrip.mpop (d : BitVec 5) (a : BitVec 5) (m : BitVec 3) : Laws.RoundTrip.Statement (.mpop d a m) := by
  intro h
  refine ⟨rfl, decode_of_fields ?_ h⟩
  simp (disch := decide) only [decodeFields, Words.first, Words.second, decodeVmsk, zeroFields, zeroFieldsThen, fOp, fFn, fD, fA, fB, fImm16, fDisp21, fW, fImm13, fScopeM, fM, fK, fT, fS, ex_lo, ex_hi, ex_all, ex_const, Nat.reduceSub, BitVec.toNat_ofNat, Nat.reducePow, Nat.reduceMod, beq_self_eq_true, Bool.and_self, if_true] <;> rfl
theorem Laws.RoundTrip.mfirst (d : BitVec 5) (a : BitVec 5) (m : BitVec 3) : Laws.RoundTrip.Statement (.mfirst d a m) := by
  intro h
  refine ⟨rfl, decode_of_fields ?_ h⟩
  simp (disch := decide) only [decodeFields, Words.first, Words.second, decodeVmsk, zeroFields, zeroFieldsThen, fOp, fFn, fD, fA, fB, fImm16, fDisp21, fW, fImm13, fScopeM, fM, fK, fT, fS, ex_lo, ex_hi, ex_all, ex_const, Nat.reduceSub, BitVec.toNat_ofNat, Nat.reducePow, Nat.reduceMod, beq_self_eq_true, Bool.and_self, if_true] <;> rfl
theorem Laws.RoundTrip.vslideup (d : BitVec 5) (a : BitVec 5) (b : BitVec 5) (m : BitVec 3) : Laws.RoundTrip.Statement (.vslideup d a b m) := by
  intro h
  refine ⟨rfl, decode_of_fields ?_ h⟩
  simp (disch := decide) only [decodeFields, Words.first, Words.second, decodeVprm, zeroFields, zeroFieldsThen, fOp, fFn, fD, fA, fB, fImm16, fDisp21, fW, fImm13, fScopeM, fM, fK, fT, fS, ex_lo, ex_hi, ex_all, ex_const, Nat.reduceSub, BitVec.toNat_ofNat, Nat.reducePow, Nat.reduceMod, beq_self_eq_true, Bool.and_self, if_true] <;> rfl
theorem Laws.RoundTrip.vslidedn (d : BitVec 5) (a : BitVec 5) (b : BitVec 5) (m : BitVec 3) : Laws.RoundTrip.Statement (.vslidedn d a b m) := by
  intro h
  refine ⟨rfl, decode_of_fields ?_ h⟩
  simp (disch := decide) only [decodeFields, Words.first, Words.second, decodeVprm, zeroFields, zeroFieldsThen, fOp, fFn, fD, fA, fB, fImm16, fDisp21, fW, fImm13, fScopeM, fM, fK, fT, fS, ex_lo, ex_hi, ex_all, ex_const, Nat.reduceSub, BitVec.toNat_ofNat, Nat.reducePow, Nat.reduceMod, beq_self_eq_true, Bool.and_self, if_true] <;> rfl
theorem Laws.RoundTrip.vperm (d : BitVec 5) (a : BitVec 5) (b : BitVec 5) (m : BitVec 3) : Laws.RoundTrip.Statement (.vperm d a b m) := by
  intro h
  refine ⟨rfl, decode_of_fields ?_ h⟩
  simp (disch := decide) only [decodeFields, Words.first, Words.second, decodeVprm, zeroFields, zeroFieldsThen, fOp, fFn, fD, fA, fB, fImm16, fDisp21, fW, fImm13, fScopeM, fM, fK, fT, fS, ex_lo, ex_hi, ex_all, ex_const, Nat.reduceSub, BitVec.toNat_ofNat, Nat.reducePow, Nat.reduceMod, beq_self_eq_true, Bool.and_self, if_true] <;> rfl
theorem Laws.RoundTrip.vcompress (d : BitVec 5) (a : BitVec 5) (b : BitVec 5) (m : BitVec 3) : Laws.RoundTrip.Statement (.vcompress d a b m) := by
  intro h
  refine ⟨rfl, decode_of_fields ?_ h⟩
  simp (disch := decide) only [decodeFields, Words.first, Words.second, decodeVprm, zeroFields, zeroFieldsThen, fOp, fFn, fD, fA, fB, fImm16, fDisp21, fW, fImm13, fScopeM, fM, fK, fT, fS, ex_lo, ex_hi, ex_all, ex_const, Nat.reduceSub, BitVec.toNat_ofNat, Nat.reducePow, Nat.reduceMod, beq_self_eq_true, Bool.and_self, if_true] <;> rfl
theorem Laws.RoundTrip.vexpand (d : BitVec 5) (a : BitVec 5) (m : BitVec 3) : Laws.RoundTrip.Statement (.vexpand d a m) := by
  intro h
  refine ⟨rfl, decode_of_fields ?_ h⟩
  simp (disch := decide) only [decodeFields, Words.first, Words.second, decodeVprm, zeroFields, zeroFieldsThen, fOp, fFn, fD, fA, fB, fImm16, fDisp21, fW, fImm13, fScopeM, fM, fK, fT, fS, ex_lo, ex_hi, ex_all, ex_const, Nat.reduceSub, BitVec.toNat_ofNat, Nat.reducePow, Nat.reduceMod, beq_self_eq_true, Bool.and_self, if_true] <;> rfl
theorem Laws.RoundTrip.viota (d : BitVec 5) (a : BitVec 5) (m : BitVec 3) : Laws.RoundTrip.Statement (.viota d a m) := by
  intro h
  refine ⟨rfl, decode_of_fields ?_ h⟩
  simp (disch := decide) only [decodeFields, Words.first, Words.second, decodeVprm, zeroFields, zeroFieldsThen, fOp, fFn, fD, fA, fB, fImm16, fDisp21, fW, fImm13, fScopeM, fM, fK, fT, fS, ex_lo, ex_hi, ex_all, ex_const, Nat.reduceSub, BitVec.toNat_ofNat, Nat.reducePow, Nat.reduceMod, beq_self_eq_true, Bool.and_self, if_true] <;> rfl
theorem Laws.RoundTrip.vmerge (d : BitVec 5) (a : BitVec 5) (b : BitVec 5) (m : BitVec 3) (v : BitVec 1) : Laws.RoundTrip.Statement (.vmerge d a b m v) := by
  intro h
  refine ⟨rfl, decode_of_fields ?_ h⟩
  simp (disch := decide) only [decodeFields, Words.first, Words.second, decodeVprm, zeroFields, zeroFieldsThen, fOp, fFn, fD, fA, fB, fImm16, fDisp21, fW, fImm13, fScopeM, fM, fK, fT, fS, ex_lo, ex_hi, ex_all, ex_const, Nat.reduceSub, BitVec.toNat_ofNat, Nat.reducePow, Nat.reduceMod, beq_self_eq_true, Bool.and_self, if_true] <;> rfl
theorem Laws.RoundTrip.vbcast (d : BitVec 5) (a : BitVec 5) (m : BitVec 3) : Laws.RoundTrip.Statement (.vbcast d a m) := by
  intro h
  refine ⟨rfl, decode_of_fields ?_ h⟩
  simp (disch := decide) only [decodeFields, Words.first, Words.second, decodeVprm, zeroFields, zeroFieldsThen, fOp, fFn, fD, fA, fB, fImm16, fDisp21, fW, fImm13, fScopeM, fM, fK, fT, fS, ex_lo, ex_hi, ex_all, ex_const, Nat.reduceSub, BitVec.toNat_ofNat, Nat.reducePow, Nat.reduceMod, beq_self_eq_true, Bool.and_self, if_true] <;> rfl
theorem Laws.RoundTrip.vext (d : BitVec 5) (a : BitVec 5) (b : BitVec 5) : Laws.RoundTrip.Statement (.vext d a b) := by
  intro h
  refine ⟨rfl, decode_of_fields ?_ h⟩
  simp (disch := decide) only [decodeFields, Words.first, Words.second, decodeVprm, zeroFields, zeroFieldsThen, fOp, fFn, fD, fA, fB, fImm16, fDisp21, fW, fImm13, fScopeM, fM, fK, fT, fS, ex_lo, ex_hi, ex_all, ex_const, Nat.reduceSub, BitVec.toNat_ofNat, Nat.reducePow, Nat.reduceMod, beq_self_eq_true, Bool.and_self, if_true] <;> rfl
theorem Laws.RoundTrip.vins (d : BitVec 5) (a : BitVec 5) (b : BitVec 5) : Laws.RoundTrip.Statement (.vins d a b) := by
  intro h
  refine ⟨rfl, decode_of_fields ?_ h⟩
  simp (disch := decide) only [decodeFields, Words.first, Words.second, decodeVprm, zeroFields, zeroFieldsThen, fOp, fFn, fD, fA, fB, fImm16, fDisp21, fW, fImm13, fScopeM, fM, fK, fT, fS, ex_lo, ex_hi, ex_all, ex_const, Nat.reduceSub, BitVec.toNat_ofNat, Nat.reducePow, Nat.reduceMod, beq_self_eq_true, Bool.and_self, if_true] <;> rfl
theorem Laws.RoundTrip.vredsum (d : BitVec 5) (a : BitVec 5) (b : BitVec 5) (m : BitVec 3) : Laws.RoundTrip.Statement (.vredsum d a b m) := by
  intro h
  refine ⟨rfl, decode_of_fields ?_ h⟩
  simp (disch := decide) only [decodeFields, Words.first, Words.second, decodeVprm, zeroFields, zeroFieldsThen, fOp, fFn, fD, fA, fB, fImm16, fDisp21, fW, fImm13, fScopeM, fM, fK, fT, fS, ex_lo, ex_hi, ex_all, ex_const, Nat.reduceSub, BitVec.toNat_ofNat, Nat.reducePow, Nat.reduceMod, beq_self_eq_true, Bool.and_self, if_true] <;> rfl
theorem Laws.RoundTrip.vredmin (d : BitVec 5) (a : BitVec 5) (b : BitVec 5) (m : BitVec 3) : Laws.RoundTrip.Statement (.vredmin d a b m) := by
  intro h
  refine ⟨rfl, decode_of_fields ?_ h⟩
  simp (disch := decide) only [decodeFields, Words.first, Words.second, decodeVprm, zeroFields, zeroFieldsThen, fOp, fFn, fD, fA, fB, fImm16, fDisp21, fW, fImm13, fScopeM, fM, fK, fT, fS, ex_lo, ex_hi, ex_all, ex_const, Nat.reduceSub, BitVec.toNat_ofNat, Nat.reducePow, Nat.reduceMod, beq_self_eq_true, Bool.and_self, if_true] <;> rfl
theorem Laws.RoundTrip.vredmax (d : BitVec 5) (a : BitVec 5) (b : BitVec 5) (m : BitVec 3) : Laws.RoundTrip.Statement (.vredmax d a b m) := by
  intro h
  refine ⟨rfl, decode_of_fields ?_ h⟩
  simp (disch := decide) only [decodeFields, Words.first, Words.second, decodeVprm, zeroFields, zeroFieldsThen, fOp, fFn, fD, fA, fB, fImm16, fDisp21, fW, fImm13, fScopeM, fM, fK, fT, fS, ex_lo, ex_hi, ex_all, ex_const, Nat.reduceSub, BitVec.toNat_ofNat, Nat.reducePow, Nat.reduceMod, beq_self_eq_true, Bool.and_self, if_true] <;> rfl
theorem Laws.RoundTrip.vfredsum (d : BitVec 5) (a : BitVec 5) (b : BitVec 5) (m : BitVec 3) : Laws.RoundTrip.Statement (.vfredsum d a b m) := by
  intro h
  refine ⟨rfl, decode_of_fields ?_ h⟩
  simp (disch := decide) only [decodeFields, Words.first, Words.second, decodeVprm, zeroFields, zeroFieldsThen, fOp, fFn, fD, fA, fB, fImm16, fDisp21, fW, fImm13, fScopeM, fM, fK, fT, fS, ex_lo, ex_hi, ex_all, ex_const, Nat.reduceSub, BitVec.toNat_ofNat, Nat.reducePow, Nat.reduceMod, beq_self_eq_true, Bool.and_self, if_true] <;> rfl
theorem Laws.RoundTrip.vfredmin (d : BitVec 5) (a : BitVec 5) (b : BitVec 5) (m : BitVec 3) : Laws.RoundTrip.Statement (.vfredmin d a b m) := by
  intro h
  refine ⟨rfl, decode_of_fields ?_ h⟩
  simp (disch := decide) only [decodeFields, Words.first, Words.second, decodeVprm, zeroFields, zeroFieldsThen, fOp, fFn, fD, fA, fB, fImm16, fDisp21, fW, fImm13, fScopeM, fM, fK, fT, fS, ex_lo, ex_hi, ex_all, ex_const, Nat.reduceSub, BitVec.toNat_ofNat, Nat.reducePow, Nat.reduceMod, beq_self_eq_true, Bool.and_self, if_true] <;> rfl
theorem Laws.RoundTrip.vfredmax (d : BitVec 5) (a : BitVec 5) (b : BitVec 5) (m : BitVec 3) : Laws.RoundTrip.Statement (.vfredmax d a b m) := by
  intro h
  refine ⟨rfl, decode_of_fields ?_ h⟩
  simp (disch := decide) only [decodeFields, Words.first, Words.second, decodeVprm, zeroFields, zeroFieldsThen, fOp, fFn, fD, fA, fB, fImm16, fDisp21, fW, fImm13, fScopeM, fM, fK, fT, fS, ex_lo, ex_hi, ex_all, ex_const, Nat.reduceSub, BitVec.toNat_ofNat, Nat.reducePow, Nat.reduceMod, beq_self_eq_true, Bool.and_self, if_true] <;> rfl
theorem Laws.RoundTrip.vcvt (d : BitVec 5) (a : BitVec 5) (b : BitVec 5) (m : BitVec 3) (t : BitVec 4) (s : BitVec 4) : Laws.RoundTrip.Statement (.vcvt d a b m t s) := by
  intro h
  refine ⟨rfl, decode_of_fields ?_ h⟩
  simp (disch := decide) only [decodeFields, Words.first, Words.second, zeroFields, zeroFieldsThen, fOp, fFn, fD, fA, fB, fImm16, fDisp21, fW, fImm13, fScopeM, fM, fK, fT, fS, ex_lo, ex_hi, ex_all, ex_const, Nat.reduceSub, BitVec.toNat_ofNat, Nat.reducePow, Nat.reduceMod, beq_self_eq_true, Bool.and_self, if_true] <;> rfl
theorem Laws.RoundTrip.lds (f : BitVec 5) (a : BitVec 5) (b : BitVec 5) (h : BitVec 6) : Laws.RoundTrip.Statement (.lds f a b h) := by
  intro h
  refine ⟨rfl, decode_of_fields ?_ h⟩
  simp (disch := decide) only [decodeFields, Words.first, Words.second, decodeMtx, zeroFields, zeroFieldsThen, fOp, fFn, fD, fA, fB, fImm16, fDisp21, fW, fImm13, fScopeM, fM, fK, fT, fS, ex_lo, ex_hi, ex_all, ex_const, Nat.reduceSub, BitVec.toNat_ofNat, Nat.reducePow, Nat.reduceMod, beq_self_eq_true, Bool.and_self, if_true] <;> rfl
theorem Laws.RoundTrip.ldsC (f : BitVec 5) (a : BitVec 5) (b : BitVec 5) (h : BitVec 6) : Laws.RoundTrip.Statement (.ldsC f a b h) := by
  intro h
  refine ⟨rfl, decode_of_fields ?_ h⟩
  simp (disch := decide) only [decodeFields, Words.first, Words.second, decodeMtx, zeroFields, zeroFieldsThen, fOp, fFn, fD, fA, fB, fImm16, fDisp21, fW, fImm13, fScopeM, fM, fK, fT, fS, ex_lo, ex_hi, ex_all, ex_const, Nat.reduceSub, BitVec.toNat_ofNat, Nat.reducePow, Nat.reduceMod, beq_self_eq_true, Bool.and_self, if_true] <;> rfl
theorem Laws.RoundTrip.pswap (d : BitVec 5) : Laws.RoundTrip.Statement (.pswap d) := by
  intro h
  refine ⟨rfl, decode_of_fields ?_ h⟩
  simp (disch := decide) only [decodeFields, Words.first, Words.second, decodeMtx, zeroFields, zeroFieldsThen, fOp, fFn, fD, fA, fB, fImm16, fDisp21, fW, fImm13, fScopeM, fM, fK, fT, fS, ex_lo, ex_hi, ex_all, ex_const, Nat.reduceSub, BitVec.toNat_ofNat, Nat.reducePow, Nat.reduceMod, beq_self_eq_true, Bool.and_self, if_true] <;> rfl
theorem Laws.RoundTrip.mmavL6 (a : BitVec 5) (b : BitVec 5) (h : BitVec 6) : Laws.RoundTrip.Statement (.mmavL6 a b h) := by
  intro h
  refine ⟨rfl, decode_of_fields ?_ h⟩
  simp (disch := decide) only [decodeFields, Words.first, Words.second, decodeMtx, zeroFields, zeroFieldsThen, fOp, fFn, fD, fA, fB, fImm16, fDisp21, fW, fImm13, fScopeM, fM, fK, fT, fS, ex_lo, ex_hi, ex_all, ex_const, Nat.reduceSub, BitVec.toNat_ofNat, Nat.reducePow, Nat.reduceMod, beq_self_eq_true, Bool.and_self, if_true] <;> rfl
theorem Laws.RoundTrip.mmavI8 (a : BitVec 5) (b : BitVec 5) (h : BitVec 6) : Laws.RoundTrip.Statement (.mmavI8 a b h) := by
  intro h
  refine ⟨rfl, decode_of_fields ?_ h⟩
  simp (disch := decide) only [decodeFields, Words.first, Words.second, decodeMtx, zeroFields, zeroFieldsThen, fOp, fFn, fD, fA, fB, fImm16, fDisp21, fW, fImm13, fScopeM, fM, fK, fT, fS, ex_lo, ex_hi, ex_all, ex_const, Nat.reduceSub, BitVec.toNat_ofNat, Nat.reducePow, Nat.reduceMod, beq_self_eq_true, Bool.and_self, if_true] <;> rfl
theorem Laws.RoundTrip.mmavBf16 (a : BitVec 5) (b : BitVec 5) (h : BitVec 6) : Laws.RoundTrip.Statement (.mmavBf16 a b h) := by
  intro h
  refine ⟨rfl, decode_of_fields ?_ h⟩
  simp (disch := decide) only [decodeFields, Words.first, Words.second, decodeMtx, zeroFields, zeroFieldsThen, fOp, fFn, fD, fA, fB, fImm16, fDisp21, fW, fImm13, fScopeM, fM, fK, fT, fS, ex_lo, ex_hi, ex_all, ex_const, Nat.reduceSub, BitVec.toNat_ofNat, Nat.reducePow, Nat.reduceMod, beq_self_eq_true, Bool.and_self, if_true] <;> rfl
theorem Laws.RoundTrip.mzero (a : BitVec 5) (b : BitVec 5) (h : BitVec 6) : Laws.RoundTrip.Statement (.mzero a b h) := by
  intro h
  refine ⟨rfl, decode_of_fields ?_ h⟩
  simp (disch := decide) only [decodeFields, Words.first, Words.second, decodeMtx, zeroFields, zeroFieldsThen, fOp, fFn, fD, fA, fB, fImm16, fDisp21, fW, fImm13, fScopeM, fM, fK, fT, fS, ex_lo, ex_hi, ex_all, ex_const, Nat.reduceSub, BitVec.toNat_ofNat, Nat.reducePow, Nat.reduceMod, beq_self_eq_true, Bool.and_self, if_true] <;> rfl
theorem Laws.RoundTrip.vouter (d : BitVec 5) (a : BitVec 5) (b : BitVec 5) : Laws.RoundTrip.Statement (.vouter d a b) := by
  intro h
  refine ⟨rfl, decode_of_fields ?_ h⟩
  simp (disch := decide) only [decodeFields, Words.first, Words.second, decodeMtx, zeroFields, zeroFieldsThen, fOp, fFn, fD, fA, fB, fImm16, fDisp21, fW, fImm13, fScopeM, fM, fK, fT, fS, ex_lo, ex_hi, ex_all, ex_const, Nat.reduceSub, BitVec.toNat_ofNat, Nat.reducePow, Nat.reduceMod, beq_self_eq_true, Bool.and_self, if_true] <;> rfl
theorem Laws.RoundTrip.mmab (d : BitVec 5) (a : BitVec 5) (b : BitVec 5) (c : BitVec 5) (e : BitVec 5) (con : BitVec 1) (fs : BitVec 2) (ha : BitVec 6) (hc : BitVec 6) : Laws.RoundTrip.Statement (.mmab d a b c e con fs ha hc) := by
  intro h
  refine ⟨rfl, decode_of_fields ?_ h⟩
  simp (disch := decide) only [decodeFields, Words.first, Words.second, decodeLong, zeroFields, zeroFieldsThen, fOp, fFn, fD, fA, fB, fImm16, fDisp21, fW, fImm13, fScopeM, fM, fK, fT, fS, ex_lo, ex_hi, ex_all, ex_const, Nat.reduceSub, BitVec.toNat_ofNat, Nat.reducePow, Nat.reduceMod, beq_self_eq_true, Bool.and_self, if_true] <;> rfl
theorem Laws.RoundTrip.ldsl (d : BitVec 5) (a : BitVec 5) (b : BitVec 5) (c : BitVec 5) (e : BitVec 5) (f : BitVec 5) (tag : BitVec 8) (con : BitVec 1) (h : BitVec 6) : Laws.RoundTrip.Statement (.ldsl d a b c e f tag con h) := by
  intro h
  refine ⟨rfl, decode_of_fields ?_ h⟩
  simp (disch := decide) only [decodeFields, Words.first, Words.second, decodeLong, zeroFields, zeroFieldsThen, fOp, fFn, fD, fA, fB, fImm16, fDisp21, fW, fImm13, fScopeM, fM, fK, fT, fS, ex_lo, ex_hi, ex_all, ex_const, Nat.reduceSub, BitVec.toNat_ofNat, Nat.reducePow, Nat.reduceMod, beq_self_eq_true, Bool.and_self, if_true] <;> rfl
theorem Laws.RoundTrip.ldslR (d : BitVec 5) (c : BitVec 5) (tag : BitVec 8) : Laws.RoundTrip.Statement (.ldslR d c tag) := by
  intro h
  refine ⟨rfl, decode_of_fields ?_ h⟩
  simp (disch := decide) only [decodeFields, Words.first, Words.second, decodeLong, zeroFields, zeroFieldsThen, fOp, fFn, fD, fA, fB, fImm16, fDisp21, fW, fImm13, fScopeM, fM, fK, fT, fS, ex_lo, ex_hi, ex_all, ex_const, Nat.reduceSub, BitVec.toNat_ofNat, Nat.reducePow, Nat.reduceMod, beq_self_eq_true, Bool.and_self, if_true] <;> rfl
theorem Laws.RoundTrip.finit (a : BitVec 5) (b : BitVec 5) (h : BitVec 6) : Laws.RoundTrip.Statement (.finit a b h) := by
  intro h
  refine ⟨rfl, decode_of_fields ?_ h⟩
  simp (disch := decide) only [decodeFields, Words.first, Words.second, decodeFtl, zeroFields, zeroFieldsThen, fOp, fFn, fD, fA, fB, fImm16, fDisp21, fW, fImm13, fScopeM, fM, fK, fT, fS, ex_lo, ex_hi, ex_all, ex_const, Nat.reduceSub, BitVec.toNat_ofNat, Nat.reducePow, Nat.reduceMod, beq_self_eq_true, Bool.and_self, if_true] <;> rfl
theorem Laws.RoundTrip.fscale (a : BitVec 5) (b : BitVec 5) (h : BitVec 6) : Laws.RoundTrip.Statement (.fscale a b h) := by
  intro h
  refine ⟨rfl, decode_of_fields ?_ h⟩
  simp (disch := decide) only [decodeFields, Words.first, Words.second, decodeFtl, zeroFields, zeroFieldsThen, fOp, fFn, fD, fA, fB, fImm16, fDisp21, fW, fImm13, fScopeM, fM, fK, fT, fS, ex_lo, ex_hi, ex_all, ex_const, Nat.reduceSub, BitVec.toNat_ofNat, Nat.reducePow, Nat.reduceMod, beq_self_eq_true, Bool.and_self, if_true] <;> rfl
theorem Laws.RoundTrip.fupd (a : BitVec 5) (b : BitVec 5) (h : BitVec 6) : Laws.RoundTrip.Statement (.fupd a b h) := by
  intro h
  refine ⟨rfl, decode_of_fields ?_ h⟩
  simp (disch := decide) only [decodeFields, Words.first, Words.second, decodeFtl, zeroFields, zeroFieldsThen, fOp, fFn, fD, fA, fB, fImm16, fDisp21, fW, fImm13, fScopeM, fM, fK, fT, fS, ex_lo, ex_hi, ex_all, ex_const, Nat.reduceSub, BitVec.toNat_ofNat, Nat.reducePow, Nat.reduceMod, beq_self_eq_true, Bool.and_self, if_true] <;> rfl
theorem Laws.RoundTrip.fdnd (a : BitVec 5) (b : BitVec 5) (h : BitVec 6) : Laws.RoundTrip.Statement (.fdnd a b h) := by
  intro h
  refine ⟨rfl, decode_of_fields ?_ h⟩
  simp (disch := decide) only [decodeFields, Words.first, Words.second, decodeFtl, zeroFields, zeroFieldsThen, fOp, fFn, fD, fA, fB, fImm16, fDisp21, fW, fImm13, fScopeM, fM, fK, fT, fS, ex_lo, ex_hi, ex_all, ex_const, Nat.reduceSub, BitVec.toNat_ofNat, Nat.reducePow, Nat.reduceMod, beq_self_eq_true, Bool.and_self, if_true] <;> rfl
theorem Laws.RoundTrip.fdndS (d : BitVec 5) (a : BitVec 5) (b : BitVec 5) (h : BitVec 6) : Laws.RoundTrip.Statement (.fdndS d a b h) := by
  intro h
  refine ⟨rfl, decode_of_fields ?_ h⟩
  simp (disch := decide) only [decodeFields, Words.first, Words.second, decodeFtl, zeroFields, zeroFieldsThen, fOp, fFn, fD, fA, fB, fImm16, fDisp21, fW, fImm13, fScopeM, fM, fK, fT, fS, ex_lo, ex_hi, ex_all, ex_const, Nat.reduceSub, BitVec.toNat_ofNat, Nat.reducePow, Nat.reduceMod, beq_self_eq_true, Bool.and_self, if_true] <;> rfl
theorem Laws.RoundTrip.fsolt (d : BitVec 5) (a : BitVec 5) (h : BitVec 6) : Laws.RoundTrip.Statement (.fsolt d a h) := by
  intro h
  refine ⟨rfl, decode_of_fields ?_ h⟩
  simp (disch := decide) only [decodeFields, Words.first, Words.second, decodeFtl, zeroFields, zeroFieldsThen, fOp, fFn, fD, fA, fB, fImm16, fDisp21, fW, fImm13, fScopeM, fM, fK, fT, fS, ex_lo, ex_hi, ex_all, ex_const, Nat.reduceSub, BitVec.toNat_ofNat, Nat.reducePow, Nat.reduceMod, beq_self_eq_true, Bool.and_self, if_true] <;> rfl
theorem Laws.RoundTrip.fsoln (d : BitVec 5) (a : BitVec 5) (h : BitVec 6) : Laws.RoundTrip.Statement (.fsoln d a h) := by
  intro h
  refine ⟨rfl, decode_of_fields ?_ h⟩
  simp (disch := decide) only [decodeFields, Words.first, Words.second, decodeFtl, zeroFields, zeroFieldsThen, fOp, fFn, fD, fA, fB, fImm16, fDisp21, fW, fImm13, fScopeM, fM, fK, fT, fS, ex_lo, ex_hi, ex_all, ex_const, Nat.reduceSub, BitVec.toNat_ofNat, Nat.reducePow, Nat.reduceMod, beq_self_eq_true, Bool.and_self, if_true] <;> rfl
theorem Laws.RoundTrip.fdiag (d : BitVec 5) (a : BitVec 5) (h : BitVec 6) : Laws.RoundTrip.Statement (.fdiag d a h) := by
  intro h
  refine ⟨rfl, decode_of_fields ?_ h⟩
  simp (disch := decide) only [decodeFields, Words.first, Words.second, decodeFtl, zeroFields, zeroFieldsThen, fOp, fFn, fD, fA, fB, fImm16, fDisp21, fW, fImm13, fScopeM, fM, fK, fT, fS, ex_lo, ex_hi, ex_all, ex_const, Nat.reduceSub, BitVec.toNat_ofNat, Nat.reducePow, Nat.reduceMod, beq_self_eq_true, Bool.and_self, if_true] <;> rfl
theorem Laws.RoundTrip.fx (s : BitVec 4) (d : BitVec 5) (a : BitVec 5) (b : BitVec 5) (m : BitVec 3) : Laws.RoundTrip.Statement (.fx s d a b m) := by
  intro h
  refine ⟨rfl, decode_of_fields ?_ h⟩
  simp (disch := decide) only [decodeFields, Words.first, Words.second, decodeFxi, zeroFields, zeroFieldsThen, fOp, fFn, fD, fA, fB, fImm16, fDisp21, fW, fImm13, fScopeM, fM, fK, fT, fS, ex_lo, ex_hi, ex_all, ex_const, Nat.reduceSub, BitVec.toNat_ofNat, Nat.reducePow, Nat.reduceMod, beq_self_eq_true, Bool.and_self, if_true] <;> rfl
theorem Laws.RoundTrip.fxl (d : BitVec 5) (a : BitVec 5) (b : BitVec 5) (c : BitVec 5) (e : BitVec 5) (f : BitVec 5) (m : BitVec 3) (slot : BitVec 4) : Laws.RoundTrip.Statement (.fxl d a b c e f m slot) := by
  intro h
  refine ⟨rfl, decode_of_fields ?_ h⟩
  simp (disch := decide) only [decodeFields, Words.first, Words.second, decodeLong, zeroFields, zeroFieldsThen, fOp, fFn, fD, fA, fB, fImm16, fDisp21, fW, fImm13, fScopeM, fM, fK, fT, fS, ex_lo, ex_hi, ex_all, ex_const, Nat.reduceSub, BitVec.toNat_ofNat, Nat.reducePow, Nat.reduceMod, beq_self_eq_true, Bool.and_self, if_true] <;> rfl
theorem Laws.RoundTrip.fxload (d : BitVec 5) (a : BitVec 5) : Laws.RoundTrip.Statement (.fxload d a) := by
  intro h
  refine ⟨rfl, decode_of_fields ?_ h⟩
  simp (disch := decide) only [decodeFields, Words.first, Words.second, decodeFxc, zeroFields, zeroFieldsThen, fOp, fFn, fD, fA, fB, fImm16, fDisp21, fW, fImm13, fScopeM, fM, fK, fT, fS, ex_lo, ex_hi, ex_all, ex_const, Nat.reduceSub, BitVec.toNat_ofNat, Nat.reducePow, Nat.reduceMod, beq_self_eq_true, Bool.and_self, if_true] <;> rfl
theorem Laws.RoundTrip.fxbind (a : BitVec 5) (e : BitVec 4) (s : BitVec 4) : Laws.RoundTrip.Statement (.fxbind a e s) := by
  intro h
  refine ⟨rfl, decode_of_fields ?_ h⟩
  simp (disch := decide) only [decodeFields, Words.first, Words.second, decodeFxc, zeroFields, zeroFieldsThen, fOp, fFn, fD, fA, fB, fImm16, fDisp21, fW, fImm13, fScopeM, fM, fK, fT, fS, ex_lo, ex_hi, ex_all, ex_const, Nat.reduceSub, BitVec.toNat_ofNat, Nat.reducePow, Nat.reduceMod, beq_self_eq_true, Bool.and_self, if_true] <;> rfl
theorem Laws.RoundTrip.fxunbind (s : BitVec 4) : Laws.RoundTrip.Statement (.fxunbind s) := by
  intro h
  refine ⟨rfl, decode_of_fields ?_ h⟩
  simp (disch := decide) only [decodeFields, Words.first, Words.second, decodeFxc, zeroFields, zeroFieldsThen, fOp, fFn, fD, fA, fB, fImm16, fDisp21, fW, fImm13, fScopeM, fM, fK, fT, fS, ex_lo, ex_hi, ex_all, ex_const, Nat.reduceSub, BitVec.toNat_ofNat, Nat.reducePow, Nat.reduceMod, beq_self_eq_true, Bool.and_self, if_true] <;> rfl
theorem Laws.RoundTrip.fxstat (d : BitVec 5) (s : BitVec 4) : Laws.RoundTrip.Statement (.fxstat d s) := by
  intro h
  refine ⟨rfl, decode_of_fields ?_ h⟩
  simp (disch := decide) only [decodeFields, Words.first, Words.second, decodeFxc, zeroFields, zeroFieldsThen, fOp, fFn, fD, fA, fB, fImm16, fDisp21, fW, fImm13, fScopeM, fM, fK, fT, fS, ex_lo, ex_hi, ex_all, ex_const, Nat.reduceSub, BitVec.toNat_ofNat, Nat.reducePow, Nat.reduceMod, beq_self_eq_true, Bool.and_self, if_true] <;> rfl
theorem Laws.RoundTrip.fxdrop : Laws.RoundTrip.Statement .fxdrop := by
  intro h
  refine ⟨rfl, decode_of_fields ?_ h⟩
  simp (disch := decide) only [decodeFields, Words.first, Words.second, decodeFxc, zeroFields, zeroFieldsThen, fOp, fFn, fD, fA, fB, fImm16, fDisp21, fW, fImm13, fScopeM, fM, fK, fT, fS, ex_lo, ex_hi, ex_all, ex_const, Nat.reduceSub, BitVec.toNat_ofNat, Nat.reducePow, Nat.reduceMod, beq_self_eq_true, Bool.and_self, if_true] <;> rfl
theorem Laws.RoundTrip.fxsave (a : BitVec 5) : Laws.RoundTrip.Statement (.fxsave a) := by
  intro h
  refine ⟨rfl, decode_of_fields ?_ h⟩
  simp (disch := decide) only [decodeFields, Words.first, Words.second, decodeFxc, zeroFields, zeroFieldsThen, fOp, fFn, fD, fA, fB, fImm16, fDisp21, fW, fImm13, fScopeM, fM, fK, fT, fS, ex_lo, ex_hi, ex_all, ex_const, Nat.reduceSub, BitVec.toNat_ofNat, Nat.reducePow, Nat.reduceMod, beq_self_eq_true, Bool.and_self, if_true] <;> rfl
theorem Laws.RoundTrip.fxrest (a : BitVec 5) : Laws.RoundTrip.Statement (.fxrest a) := by
  intro h
  refine ⟨rfl, decode_of_fields ?_ h⟩
  simp (disch := decide) only [decodeFields, Words.first, Words.second, decodeFxc, zeroFields, zeroFieldsThen, fOp, fFn, fD, fA, fB, fImm16, fDisp21, fW, fImm13, fScopeM, fM, fK, fT, fS, ex_lo, ex_hi, ex_all, ex_const, Nat.reduceSub, BitVec.toNat_ofNat, Nat.reducePow, Nat.reduceMod, beq_self_eq_true, Bool.and_self, if_true] <;> rfl
theorem Laws.RoundTrip.copy (d : BitVec 5) (a : BitVec 5) (b : BitVec 5) (h : BitVec 6) : Laws.RoundTrip.Statement (.copy d a b h) := by
  intro h
  refine ⟨rfl, decode_of_fields ?_ h⟩
  simp (disch := decide) only [decodeFields, Words.first, Words.second, decodeXu, zeroFields, zeroFieldsThen, fOp, fFn, fD, fA, fB, fImm16, fDisp21, fW, fImm13, fScopeM, fM, fK, fT, fS, ex_lo, ex_hi, ex_all, ex_const, Nat.reduceSub, BitVec.toNat_ofNat, Nat.reducePow, Nat.reduceMod, beq_self_eq_true, Bool.and_self, if_true] <;> rfl
theorem Laws.RoundTrip.drain (d : BitVec 5) (a : BitVec 5) (b : BitVec 5) (h : BitVec 6) : Laws.RoundTrip.Statement (.drain d a b h) := by
  intro h
  refine ⟨rfl, decode_of_fields ?_ h⟩
  simp (disch := decide) only [decodeFields, Words.first, Words.second, decodeXu, zeroFields, zeroFieldsThen, fOp, fFn, fD, fA, fB, fImm16, fDisp21, fW, fImm13, fScopeM, fM, fK, fT, fS, ex_lo, ex_hi, ex_all, ex_const, Nat.reduceSub, BitVec.toNat_ofNat, Nat.reducePow, Nat.reduceMod, beq_self_eq_true, Bool.and_self, if_true] <;> rfl
theorem Laws.RoundTrip.drainR (d : BitVec 5) (a : BitVec 5) (b : BitVec 5) (h : BitVec 6) : Laws.RoundTrip.Statement (.drainR d a b h) := by
  intro h
  refine ⟨rfl, decode_of_fields ?_ h⟩
  simp (disch := decide) only [decodeFields, Words.first, Words.second, decodeXu, zeroFields, zeroFieldsThen, fOp, fFn, fD, fA, fB, fImm16, fDisp21, fW, fImm13, fScopeM, fM, fK, fT, fS, ex_lo, ex_hi, ex_all, ex_const, Nat.reduceSub, BitVec.toNat_ofNat, Nat.reducePow, Nat.reduceMod, beq_self_eq_true, Bool.and_self, if_true] <;> rfl
theorem Laws.RoundTrip.hwait (d : BitVec 5) (h : BitVec 6) : Laws.RoundTrip.Statement (.hwait d h) := by
  intro h
  refine ⟨rfl, decode_of_fields ?_ h⟩
  simp (disch := decide) only [decodeFields, Words.first, Words.second, decodeXu, zeroFields, zeroFieldsThen, fOp, fFn, fD, fA, fB, fImm16, fDisp21, fW, fImm13, fScopeM, fM, fK, fT, fS, ex_lo, ex_hi, ex_all, ex_const, Nat.reduceSub, BitVec.toNat_ofNat, Nat.reducePow, Nat.reduceMod, beq_self_eq_true, Bool.and_self, if_true] <;> rfl
theorem Laws.RoundTrip.hrel (d : BitVec 5) (h : BitVec 6) : Laws.RoundTrip.Statement (.hrel d h) := by
  intro h
  refine ⟨rfl, decode_of_fields ?_ h⟩
  simp (disch := decide) only [decodeFields, Words.first, Words.second, decodeXu, zeroFields, zeroFieldsThen, fOp, fFn, fD, fA, fB, fImm16, fDisp21, fW, fImm13, fScopeM, fM, fK, fT, fS, ex_lo, ex_hi, ex_all, ex_const, Nat.reduceSub, BitVec.toNat_ofNat, Nat.reducePow, Nat.reduceMod, beq_self_eq_true, Bool.and_self, if_true] <;> rfl
theorem Laws.RoundTrip.hrelP (b : BitVec 5) (h : BitVec 6) : Laws.RoundTrip.Statement (.hrelP b h) := by
  intro h
  refine ⟨rfl, decode_of_fields ?_ h⟩
  simp (disch := decide) only [decodeFields, Words.first, Words.second, decodeXu, zeroFields, zeroFieldsThen, fOp, fFn, fD, fA, fB, fImm16, fDisp21, fW, fImm13, fScopeM, fM, fK, fT, fS, ex_lo, ex_hi, ex_all, ex_const, Nat.reduceSub, BitVec.toNat_ofNat, Nat.reducePow, Nat.reduceMod, beq_self_eq_true, Bool.and_self, if_true] <;> rfl
theorem Laws.RoundTrip.hstat (d : BitVec 5) (h : BitVec 6) : Laws.RoundTrip.Statement (.hstat d h) := by
  intro h
  refine ⟨rfl, decode_of_fields ?_ h⟩
  simp (disch := decide) only [decodeFields, Words.first, Words.second, decodeXu, zeroFields, zeroFieldsThen, fOp, fFn, fD, fA, fB, fImm16, fDisp21, fW, fImm13, fScopeM, fM, fK, fT, fS, ex_lo, ex_hi, ex_all, ex_const, Nat.reduceSub, BitVec.toNat_ofNat, Nat.reducePow, Nat.reduceMod, beq_self_eq_true, Bool.and_self, if_true] <;> rfl
theorem Laws.RoundTrip.sinit (d : BitVec 5) (a : BitVec 5) (b : BitVec 5) : Laws.RoundTrip.Statement (.sinit d a b) := by
  intro h
  refine ⟨rfl, decode_of_fields ?_ h⟩
  simp (disch := decide) only [decodeFields, Words.first, Words.second, decodeXu, zeroFields, zeroFieldsThen, fOp, fFn, fD, fA, fB, fImm16, fDisp21, fW, fImm13, fScopeM, fM, fK, fT, fS, ex_lo, ex_hi, ex_all, ex_const, Nat.reduceSub, BitVec.toNat_ofNat, Nat.reducePow, Nat.reduceMod, beq_self_eq_true, Bool.and_self, if_true] <;> rfl
theorem Laws.RoundTrip.swait (d : BitVec 5) (a : BitVec 5) (b : BitVec 5) : Laws.RoundTrip.Statement (.swait d a b) := by
  intro h
  refine ⟨rfl, decode_of_fields ?_ h⟩
  simp (disch := decide) only [decodeFields, Words.first, Words.second, decodeXu, zeroFields, zeroFieldsThen, fOp, fFn, fD, fA, fB, fImm16, fDisp21, fW, fImm13, fScopeM, fM, fK, fT, fS, ex_lo, ex_hi, ex_all, ex_const, Nat.reduceSub, BitVec.toNat_ofNat, Nat.reducePow, Nat.reduceMod, beq_self_eq_true, Bool.and_self, if_true] <;> rfl
theorem Laws.RoundTrip.pfill (d : BitVec 5) (a : BitVec 5) (b : BitVec 5) : Laws.RoundTrip.Statement (.pfill d a b) := by
  intro h
  refine ⟨rfl, decode_of_fields ?_ h⟩
  simp (disch := decide) only [decodeFields, Words.first, Words.second, decodeXu, zeroFields, zeroFieldsThen, fOp, fFn, fD, fA, fB, fImm16, fDisp21, fW, fImm13, fScopeM, fM, fK, fT, fS, ex_lo, ex_hi, ex_all, ex_const, Nat.reduceSub, BitVec.toNat_ofNat, Nat.reducePow, Nat.reduceMod, beq_self_eq_true, Bool.and_self, if_true] <;> rfl
theorem Laws.RoundTrip.pclose (d : BitVec 5) (g : BitVec 4) : Laws.RoundTrip.Statement (.pclose d g) := by
  intro h
  refine ⟨rfl, decode_of_fields ?_ h⟩
  simp (disch := decide) only [decodeFields, Words.first, Words.second, decodeXu, zeroFields, zeroFieldsThen, fOp, fFn, fD, fA, fB, fImm16, fDisp21, fW, fImm13, fScopeM, fM, fK, fT, fS, ex_lo, ex_hi, ex_all, ex_const, Nat.reduceSub, BitVec.toNat_ofNat, Nat.reducePow, Nat.reduceMod, beq_self_eq_true, Bool.and_self, if_true] <;> rfl
theorem Laws.RoundTrip.copyl (a : BitVec 5) (b : BitVec 5) (c : BitVec 5) (e : BitVec 5) (sc : BitVec 2) : Laws.RoundTrip.Statement (.copyl a b c e sc) := by
  intro h
  refine ⟨rfl, decode_of_fields ?_ h⟩
  simp (disch := decide) only [decodeFields, Words.first, Words.second, decodeLong, zeroFields, zeroFieldsThen, fOp, fFn, fD, fA, fB, fImm16, fDisp21, fW, fImm13, fScopeM, fM, fK, fT, fS, ex_lo, ex_hi, ex_all, ex_const, Nat.reduceSub, BitVec.toNat_ofNat, Nat.reducePow, Nat.reduceMod, beq_self_eq_true, Bool.and_self, if_true] <;> rfl
theorem Laws.RoundTrip.alloc (d : BitVec 5) (c : BitVec 4) : Laws.RoundTrip.Statement (.alloc d c) := by
  intro h
  refine ⟨rfl, decode_of_fields ?_ h⟩
  simp (disch := decide) only [decodeFields, Words.first, Words.second, decodeBnk, zeroFields, zeroFieldsThen, fOp, fFn, fD, fA, fB, fImm16, fDisp21, fW, fImm13, fScopeM, fM, fK, fT, fS, ex_lo, ex_hi, ex_all, ex_const, Nat.reduceSub, BitVec.toNat_ofNat, Nat.reducePow, Nat.reduceMod, beq_self_eq_true, Bool.and_self, if_true] <;> rfl
theorem Laws.RoundTrip.free (a : BitVec 5) (c : BitVec 4) : Laws.RoundTrip.Statement (.free a c) := by
  intro h
  refine ⟨rfl, decode_of_fields ?_ h⟩
  simp (disch := decide) only [decodeFields, Words.first, Words.second, decodeBnk, zeroFields, zeroFieldsThen, fOp, fFn, fD, fA, fB, fImm16, fDisp21, fW, fImm13, fScopeM, fM, fK, fT, fS, ex_lo, ex_hi, ex_all, ex_const, Nat.reduceSub, BitVec.toNat_ofNat, Nat.reducePow, Nat.reduceMod, beq_self_eq_true, Bool.and_self, if_true] <;> rfl
theorem Laws.RoundTrip.tbegin (d : BitVec 5) : Laws.RoundTrip.Statement (.tbegin d) := by
  intro h
  refine ⟨rfl, decode_of_fields ?_ h⟩
  simp (disch := decide) only [decodeFields, Words.first, Words.second, decodeTxn, zeroFields, zeroFieldsThen, fOp, fFn, fD, fA, fB, fImm16, fDisp21, fW, fImm13, fScopeM, fM, fK, fT, fS, ex_lo, ex_hi, ex_all, ex_const, Nat.reduceSub, BitVec.toNat_ofNat, Nat.reducePow, Nat.reduceMod, beq_self_eq_true, Bool.and_self, if_true] <;> rfl
theorem Laws.RoundTrip.tend : Laws.RoundTrip.Statement .tend := by
  intro h
  refine ⟨rfl, decode_of_fields ?_ h⟩
  simp (disch := decide) only [decodeFields, Words.first, Words.second, decodeTxn, zeroFields, zeroFieldsThen, fOp, fFn, fD, fA, fB, fImm16, fDisp21, fW, fImm13, fScopeM, fM, fK, fT, fS, ex_lo, ex_hi, ex_all, ex_const, Nat.reduceSub, BitVec.toNat_ofNat, Nat.reducePow, Nat.reduceMod, beq_self_eq_true, Bool.and_self, if_true] <;> rfl
theorem Laws.RoundTrip.tabort (c : BitVec 6) : Laws.RoundTrip.Statement (.tabort c) := by
  intro h
  refine ⟨rfl, decode_of_fields ?_ h⟩
  simp (disch := decide) only [decodeFields, Words.first, Words.second, decodeTxn, zeroFields, zeroFieldsThen, fOp, fFn, fD, fA, fB, fImm16, fDisp21, fW, fImm13, fScopeM, fM, fK, fT, fS, ex_lo, ex_hi, ex_all, ex_const, Nat.reduceSub, BitVec.toNat_ofNat, Nat.reducePow, Nat.reduceMod, beq_self_eq_true, Bool.and_self, if_true] <;> rfl
theorem Laws.RoundTrip.tstat (d : BitVec 5) : Laws.RoundTrip.Statement (.tstat d) := by
  intro h
  refine ⟨rfl, decode_of_fields ?_ h⟩
  simp (disch := decide) only [decodeFields, Words.first, Words.second, decodeTxn, zeroFields, zeroFieldsThen, fOp, fFn, fD, fA, fB, fImm16, fDisp21, fW, fImm13, fScopeM, fM, fK, fT, fS, ex_lo, ex_hi, ex_all, ex_const, Nat.reduceSub, BitVec.toNat_ofNat, Nat.reducePow, Nat.reduceMod, beq_self_eq_true, Bool.and_self, if_true] <;> rfl
theorem Laws.RoundTrip.launch (d : BitVec 5) (a : BitVec 5) : Laws.RoundTrip.Statement (.launch d a) := by
  intro h
  refine ⟨rfl, decode_of_fields ?_ h⟩
  simp (disch := decide) only [decodeFields, Words.first, Words.second, decodeWrk, zeroFields, zeroFieldsThen, fOp, fFn, fD, fA, fB, fImm16, fDisp21, fW, fImm13, fScopeM, fM, fK, fT, fS, ex_lo, ex_hi, ex_all, ex_const, Nat.reduceSub, BitVec.toNat_ofNat, Nat.reducePow, Nat.reduceMod, beq_self_eq_true, Bool.and_self, if_true] <;> rfl
theorem Laws.RoundTrip.qpush (a : BitVec 5) (b : BitVec 5) (q : BitVec 5) : Laws.RoundTrip.Statement (.qpush a b q) := by
  intro h
  refine ⟨rfl, decode_of_fields ?_ h⟩
  simp (disch := decide) only [decodeFields, Words.first, Words.second, decodeWrk, zeroFields, zeroFieldsThen, fOp, fFn, fD, fA, fB, fImm16, fDisp21, fW, fImm13, fScopeM, fM, fK, fT, fS, ex_lo, ex_hi, ex_all, ex_const, Nat.reduceSub, BitVec.toNat_ofNat, Nat.reducePow, Nat.reduceMod, beq_self_eq_true, Bool.and_self, if_true] <;> rfl
theorem Laws.RoundTrip.qpop (d : BitVec 5) (a : BitVec 5) (b : BitVec 5) : Laws.RoundTrip.Statement (.qpop d a b) := by
  intro h
  refine ⟨rfl, decode_of_fields ?_ h⟩
  simp (disch := decide) only [decodeFields, Words.first, Words.second, decodeWrk, zeroFields, zeroFieldsThen, fOp, fFn, fD, fA, fB, fImm16, fDisp21, fW, fImm13, fScopeM, fM, fK, fT, fS, ex_lo, ex_hi, ex_all, ex_const, Nat.reduceSub, BitVec.toNat_ofNat, Nat.reducePow, Nat.reduceMod, beq_self_eq_true, Bool.and_self, if_true] <;> rfl
theorem Laws.RoundTrip.qpopNw (d : BitVec 5) (a : BitVec 5) (b : BitVec 5) : Laws.RoundTrip.Statement (.qpopNw d a b) := by
  intro h
  refine ⟨rfl, decode_of_fields ?_ h⟩
  simp (disch := decide) only [decodeFields, Words.first, Words.second, decodeWrk, zeroFields, zeroFieldsThen, fOp, fFn, fD, fA, fB, fImm16, fDisp21, fW, fImm13, fScopeM, fM, fK, fT, fS, ex_lo, ex_hi, ex_all, ex_const, Nat.reduceSub, BitVec.toNat_ofNat, Nat.reducePow, Nat.reduceMod, beq_self_eq_true, Bool.and_self, if_true] <;> rfl
theorem Laws.RoundTrip.qclose (q : BitVec 5) : Laws.RoundTrip.Statement (.qclose q) := by
  intro h
  refine ⟨rfl, decode_of_fields ?_ h⟩
  simp (disch := decide) only [decodeFields, Words.first, Words.second, decodeWrk, zeroFields, zeroFieldsThen, fOp, fFn, fD, fA, fB, fImm16, fDisp21, fW, fImm13, fScopeM, fM, fK, fT, fS, ex_lo, ex_hi, ex_all, ex_const, Nat.reduceSub, BitVec.toNat_ofNat, Nat.reducePow, Nat.reduceMod, beq_self_eq_true, Bool.and_self, if_true] <;> rfl
theorem Laws.RoundTrip.retire : Laws.RoundTrip.Statement .retire := by
  intro h
  refine ⟨rfl, decode_of_fields ?_ h⟩
  simp (disch := decide) only [decodeFields, Words.first, Words.second, decodeWrk, zeroFields, zeroFieldsThen, fOp, fFn, fD, fA, fB, fImm16, fDisp21, fW, fImm13, fScopeM, fM, fK, fT, fS, ex_lo, ex_hi, ex_all, ex_const, Nat.reduceSub, BitVec.toNat_ofNat, Nat.reducePow, Nat.reduceMod, beq_self_eq_true, Bool.and_self, if_true] <;> rfl
theorem Laws.RoundTrip.yield : Laws.RoundTrip.Statement .yield := by
  intro h
  refine ⟨rfl, decode_of_fields ?_ h⟩
  simp (disch := decide) only [decodeFields, Words.first, Words.second, decodeWrk, zeroFields, zeroFieldsThen, fOp, fFn, fD, fA, fB, fImm16, fDisp21, fW, fImm13, fScopeM, fM, fK, fT, fS, ex_lo, ex_hi, ex_all, ex_const, Nat.reduceSub, BitVec.toNat_ofNat, Nat.reducePow, Nat.reduceMod, beq_self_eq_true, Bool.and_self, if_true] <;> rfl
theorem Laws.RoundTrip.cancel (d : BitVec 5) (a : BitVec 5) (l : BitVec 2) : Laws.RoundTrip.Statement (.cancel d a l) := by
  intro h
  refine ⟨rfl, decode_of_fields ?_ h⟩
  simp (disch := decide) only [decodeFields, Words.first, Words.second, decodeWrk, zeroFields, zeroFieldsThen, fOp, fFn, fD, fA, fB, fImm16, fDisp21, fW, fImm13, fScopeM, fM, fK, fT, fS, ex_lo, ex_hi, ex_all, ex_const, Nat.reduceSub, BitVec.toNat_ofNat, Nat.reducePow, Nat.reduceMod, beq_self_eq_true, Bool.and_self, if_true] <;> rfl
theorem Laws.RoundTrip.cwait (d : BitVec 5) (a : BitVec 5) (l : BitVec 2) : Laws.RoundTrip.Statement (.cwait d a l) := by
  intro h
  refine ⟨rfl, decode_of_fields ?_ h⟩
  simp (disch := decide) only [decodeFields, Words.first, Words.second, decodeWrk, zeroFields, zeroFieldsThen, fOp, fFn, fD, fA, fB, fImm16, fDisp21, fW, fImm13, fScopeM, fM, fK, fT, fS, ex_lo, ex_hi, ex_all, ex_const, Nat.reduceSub, BitVec.toNat_ofNat, Nat.reducePow, Nat.reduceMod, beq_self_eq_true, Bool.and_self, if_true] <;> rfl
theorem Laws.RoundTrip.cwaitNw (d : BitVec 5) (a : BitVec 5) (l : BitVec 2) : Laws.RoundTrip.Statement (.cwaitNw d a l) := by
  intro h
  refine ⟨rfl, decode_of_fields ?_ h⟩
  simp (disch := decide) only [decodeFields, Words.first, Words.second, decodeWrk, zeroFields, zeroFieldsThen, fOp, fFn, fD, fA, fB, fImm16, fDisp21, fW, fImm13, fScopeM, fM, fK, fT, fS, ex_lo, ex_hi, ex_all, ex_const, Nat.reduceSub, BitVec.toNat_ofNat, Nat.reducePow, Nat.reduceMod, beq_self_eq_true, Bool.and_self, if_true] <;> rfl
theorem Laws.RoundTrip.launchRun (slot : BitVec 10) : Laws.RoundTrip.Statement (.launchRun slot) := fun _ => rfl
theorem Laws.RoundTrip.stageGrant (die : BitVec 2) : Laws.RoundTrip.Statement (.stageGrant die) := fun _ => rfl
theorem Laws.RoundTrip.priorityAging (slot : BitVec 10) (stage : BitVec 4) : Laws.RoundTrip.Statement (.priorityAging slot stage) := fun _ => rfl
theorem Laws.RoundTrip.placementTimeout (slot : BitVec 10) (stage : BitVec 4) : Laws.RoundTrip.Statement (.placementTimeout slot stage) := fun _ => rfl
theorem Laws.RoundTrip.spillWrite (slot : BitVec 10) (q : BitVec 5) : Laws.RoundTrip.Statement (.spillWrite slot q) := fun _ => rfl
theorem Laws.RoundTrip.spillRead (slot : BitVec 10) (q : BitVec 5) : Laws.RoundTrip.Statement (.spillRead slot q) := fun _ => rfl
theorem Laws.RoundTrip.queuePortPush (slot : BitVec 10) (q : BitVec 5) : Laws.RoundTrip.Statement (.queuePortPush slot q) := fun _ => rfl
theorem Laws.RoundTrip.queuePortTimeout (slot : BitVec 10) (q : BitVec 5) : Laws.RoundTrip.Statement (.queuePortTimeout slot q) := fun _ => rfl
theorem Laws.RoundTrip.cancelTimeout (core : BitVec 6) (cx : Cx) : Laws.RoundTrip.Statement (.cancelTimeout core cx) := fun _ => rfl
theorem Laws.RoundTrip.wfiTimeout (core : BitVec 6) (cx : Cx) : Laws.RoundTrip.Statement (.wfiTimeout core cx) := fun _ => rfl
theorem Laws.RoundTrip.rowStep (core : BitVec 6) (cx : Cx) : Laws.RoundTrip.Statement (.rowStep core cx) := fun _ => rfl
theorem Laws.RoundTrip.ringTileArrival (core : BitVec 6) : Laws.RoundTrip.Statement (.ringTileArrival core) := fun _ => rfl
theorem Laws.RoundTrip.ringTimeout (core : BitVec 6) : Laws.RoundTrip.Statement (.ringTimeout core) := fun _ => rfl
theorem Laws.RoundTrip.configurationPacket (core : BitVec 6) (cx : Cx) : Laws.RoundTrip.Statement (.configurationPacket core cx) := fun _ => rfl
theorem Laws.RoundTrip.fabricCycle (core : BitVec 6) : Laws.RoundTrip.Statement (.fabricCycle core) := fun _ => rfl
theorem Laws.RoundTrip.agenAccessPerformed (core : BitVec 6) (cx : Cx) (agen : BitVec 3) : Laws.RoundTrip.Statement (.agenAccessPerformed core cx agen) := fun _ => rfl
theorem Laws.RoundTrip.fabstall (core : BitVec 6) (cx : Cx) : Laws.RoundTrip.Statement (.fabstall core cx) := fun _ => rfl
theorem Laws.RoundTrip.markerCutTimeout (core : BitVec 6) (cx : Cx) : Laws.RoundTrip.Statement (.markerCutTimeout core cx) := fun _ => rfl
theorem Laws.RoundTrip.invocationComplete (core : BitVec 6) (cx : Cx) : Laws.RoundTrip.Statement (.invocationComplete core cx) := fun _ => rfl
theorem Laws.RoundTrip.relatchToken (core : BitVec 6) (cx : Cx) (agen : BitVec 3) : Laws.RoundTrip.Statement (.relatchToken core cx agen) := fun _ => rfl
theorem Laws.RoundTrip.asynchronousTrap (core : BitVec 6) (cx : Cx) : Laws.RoundTrip.Statement (.asynchronousTrap core cx) := fun _ => rfl
theorem Laws.RoundTrip.preempt (core : BitVec 6) (cx : Cx) : Laws.RoundTrip.Statement (.preempt core cx) := fun _ => rfl
theorem Laws.RoundTrip.readMiss (core : BitVec 6) (pa : BitVec 52) : Laws.RoundTrip.Statement (.readMiss core pa) := fun _ => rfl
theorem Laws.RoundTrip.ownershipRequest (core : BitVec 6) (pa : BitVec 52) (data : List (BitVec 8)) : Laws.RoundTrip.Statement (.ownershipRequest core pa data) := fun _ => rfl
theorem Laws.RoundTrip.invalidationAck (core : BitVec 6) (pa : BitVec 52) : Laws.RoundTrip.Statement (.invalidationAck core pa) := fun _ => rfl
theorem Laws.RoundTrip.evictionNotice (core : BitVec 6) (pa : BitVec 52) : Laws.RoundTrip.Statement (.evictionNotice core pa) := fun _ => rfl
theorem Laws.RoundTrip.l1WriteBack (core : BitVec 6) (pa : BitVec 52) : Laws.RoundTrip.Statement (.l1WriteBack core pa) := fun _ => rfl
theorem Laws.RoundTrip.transactionConflictTimeout (core : BitVec 6) (cx : Cx) : Laws.RoundTrip.Statement (.transactionConflictTimeout core cx) := fun _ => rfl
theorem Laws.RoundTrip.eccUncorrectableError (pa : BitVec 52) : Laws.RoundTrip.Statement (.eccUncorrectableError pa) := fun _ => rfl
theorem Laws.RoundTrip.pipFillArrival (core : BitVec 6) (cx : Cx) (id : Nat) : Laws.RoundTrip.Statement (.pipFillArrival core cx id) := fun _ => rfl
theorem Laws.RoundTrip.copyFault (core : BitVec 6) (cx : Cx) (id : Nat) : Laws.RoundTrip.Statement (.copyFault core cx id) := fun _ => rfl
theorem Laws.RoundTrip.copyComplete (core : BitVec 6) (cx : Cx) (id : Nat) : Laws.RoundTrip.Statement (.copyComplete core cx id) := fun _ => rfl
theorem Laws.RoundTrip.syncWordIncrement (core : BitVec 6) (cx : Cx) (id : Nat) : Laws.RoundTrip.Statement (.syncWordIncrement core cx id) := fun _ => rfl
theorem Laws.RoundTrip.bankRefill (die : BitVec 2) (ten : BitVec 5) (cls : BitVec 4) : Laws.RoundTrip.Statement (.bankRefill die ten cls) := fun _ => rfl
theorem Laws.RoundTrip.bankSpill (die : BitVec 2) (ten : BitVec 5) (cls : BitVec 4) : Laws.RoundTrip.Statement (.bankSpill die ten cls) := fun _ => rfl
theorem Laws.RoundTrip.resume (core : BitVec 6) (cx : Cx) : Laws.RoundTrip.Statement (.resume core cx) := fun _ => rfl
theorem Laws.RoundTrip.redirect (core : BitVec 6) (cx : Cx) (arg0 : BitVec 64) : Laws.RoundTrip.Statement (.redirect core cx arg0) := fun _ => rfl
theorem Laws.RoundTrip.save (core : BitVec 6) (cx : Cx) (arg0 : BitVec 64) (arg1 : BitVec 64) : Laws.RoundTrip.Statement (.save core cx arg0 arg1) := fun _ => rfl
theorem Laws.RoundTrip.restore (core : BitVec 6) (cx : Cx) (arg0 : BitVec 64) : Laws.RoundTrip.Statement (.restore core cx arg0) := fun _ => rfl
theorem Laws.RoundTrip.endInstance (core : BitVec 6) (cx : Cx) : Laws.RoundTrip.Statement (.endInstance core cx) := fun _ => rfl
theorem Laws.RoundTrip.wake (core : BitVec 6) (cx : Cx) : Laws.RoundTrip.Statement (.wake core cx) := fun _ => rfl
theorem Laws.RoundTrip.agenResume (core : BitVec 6) (cx : Cx) (arg0 : BitVec 64) : Laws.RoundTrip.Statement (.agenResume core cx arg0) := fun _ => rfl
theorem Laws.RoundTrip.agenDecline (core : BitVec 6) (cx : Cx) (arg0 : BitVec 64) : Laws.RoundTrip.Statement (.agenDecline core cx arg0) := fun _ => rfl
theorem Laws.RoundTrip.copyResume (core : BitVec 6) (cx : Cx) (arg0 : BitVec 64) : Laws.RoundTrip.Statement (.copyResume core cx arg0) := fun _ => rfl
theorem Laws.RoundTrip.copyDecline (core : BitVec 6) (cx : Cx) (arg0 : BitVec 64) : Laws.RoundTrip.Statement (.copyDecline core cx arg0) := fun _ => rfl
theorem Laws.RoundTrip.stop (core : BitVec 6) (cx : Cx) (arg0 : BitVec 64) : Laws.RoundTrip.Statement (.stop core cx arg0) := fun _ => rfl
theorem Laws.RoundTrip.invalidate (core : BitVec 6) (arg0 : BitVec 64) (arg1 : BitVec 64) (arg2 : BitVec 64) (arg3 : BitVec 64) : Laws.RoundTrip.Statement (.invalidate core arg0 arg1 arg2 arg3) := fun _ => rfl
theorem Laws.RoundTrip.setTframe (core : BitVec 6) (cx : Cx) (arg0 : BitVec 64) : Laws.RoundTrip.Statement (.setTframe core cx arg0) := fun _ => rfl
theorem Laws.RoundTrip.writeHandleEntry (core : BitVec 6) (arg0 : BitVec 64) (arg1 : BitVec 64) : Laws.RoundTrip.Statement (.writeHandleEntry core arg0 arg1) := fun _ => rfl
theorem Laws.RoundTrip.writeResidentEntry (core : BitVec 6) (cx : Cx) (arg0 : BitVec 64) (arg1 : BitVec 64) : Laws.RoundTrip.Statement (.writeResidentEntry core cx arg0 arg1) := fun _ => rfl
theorem Laws.RoundTrip.setPipqQuota (core : BitVec 6) (cx : Cx) (arg0 : BitVec 64) : Laws.RoundTrip.Statement (.setPipqQuota core cx arg0) := fun _ => rfl
theorem Laws.RoundTrip.reply (core : BitVec 6) (cx : Cx) (arg0 : BitVec 64) : Laws.RoundTrip.Statement (.reply core cx arg0) := fun _ => rfl
theorem Laws.RoundTrip.readDirectoryEntry (core : BitVec 6) (arg0 : BitVec 64) : Laws.RoundTrip.Statement (.readDirectoryEntry core arg0) := fun _ => rfl
theorem Laws.RoundTrip.advanceNoticeHead (core : BitVec 6) (arg0 : BitVec 64) : Laws.RoundTrip.Statement (.advanceNoticeHead core arg0) := fun _ => rfl
theorem Laws.RoundTrip.clearOrphanMarks (core : BitVec 6) (arg0 : BitVec 64) : Laws.RoundTrip.Statement (.clearOrphanMarks core arg0) := fun _ => rfl
theorem Laws.RoundTrip.setPageTableRoot (core : BitVec 6) (arg0 : BitVec 64) (arg2 : BitVec 64) : Laws.RoundTrip.Statement (.setPageTableRoot core arg0 arg2) := fun _ => rfl
theorem Laws.RoundTrip.setTvec (core : BitVec 6) (arg0 : BitVec 64) : Laws.RoundTrip.Statement (.setTvec core arg0) := fun _ => rfl
theorem Laws.RoundTrip.setOcclLimits (core : BitVec 6) (cx : Cx) (arg0 : BitVec 64) : Laws.RoundTrip.Statement (.setOcclLimits core cx arg0) := fun _ => rfl
theorem Laws.RoundTrip.setBiasTableBase (core : BitVec 6) (arg0 : BitVec 64) : Laws.RoundTrip.Statement (.setBiasTableBase core arg0) := fun _ => rfl
theorem Laws.RoundTrip.setOrphanArea (core : BitVec 6) (arg0 : BitVec 64) (arg1 : BitVec 64) : Laws.RoundTrip.Statement (.setOrphanArea core arg0 arg1) := fun _ => rfl
theorem Laws.RoundTrip.assignJob (core : BitVec 6) (arg0 : BitVec 64) (arg2 : BitVec 64) : Laws.RoundTrip.Statement (.assignJob core arg0 arg2) := fun _ => rfl
theorem Laws.RoundTrip.resumeQueue (core : BitVec 6) (arg0 : BitVec 64) (arg1 : BitVec 64) : Laws.RoundTrip.Statement (.resumeQueue core arg0 arg1) := fun _ => rfl
theorem Laws.RoundTrip.compl (core : BitVec 6) : Laws.RoundTrip.Statement (.compl core) := fun _ => rfl
theorem Laws.RoundTrip.launchRegister (fn : BitVec 5) (port : BitVec 1) (die : BitVec 2) (addr : BitVec 64) : Laws.RoundTrip.Statement (.launchRegister fn port die addr) := fun _ => rfl
theorem Laws.RoundTrip.lres (fn : BitVec 5) (port : BitVec 1) (die : BitVec 2) : Laws.RoundTrip.Statement (.lres fn port die) := fun _ => rfl
theorem Laws.RoundTrip.sem (port : BitVec 1) (val : BitVec 64) : Laws.RoundTrip.Statement (.sem port val) := fun _ => rfl
theorem Laws.RoundTrip.flip (port : BitVec 1) (val : BitVec 64) : Laws.RoundTrip.Statement (.flip port val) := fun _ => rfl
theorem Laws.RoundTrip.flipDeviceToHost (page : BitVec 40) : Laws.RoundTrip.Statement (.flipDeviceToHost page) := fun _ => rfl
theorem Laws.RoundTrip.flipHostToDevice (page : BitVec 40) : Laws.RoundTrip.Statement (.flipHostToDevice page) := fun _ => rfl
theorem Laws.RoundTrip.hostQueuePortWrite (fn : PortFn) (off : BitVec 26) (data : List (BitVec 8)) : Laws.RoundTrip.Statement (.hostQueuePortWrite fn off data) := fun _ => rfl
theorem Laws.RoundTrip.hxWrite (agent : HxAgent) (pa : BitVec 52) (data : List (BitVec 8)) : Laws.RoundTrip.Statement (.hxWrite agent pa data) := fun _ => rfl
theorem Laws.RoundTrip.hxRead (agent : HxAgent) (pa : BitVec 52) (n : BitVec 8) : Laws.RoundTrip.Statement (.hxRead agent pa n) := fun _ => rfl
theorem Laws.RoundTrip.hostCacheRequest (port : BitVec 1) (pa : BitVec 52) (own : Bool) : Laws.RoundTrip.Statement (.hostCacheRequest port pa own) := fun _ => rfl
theorem Laws.RoundTrip.backInvalidationResponse (pa : BitVec 52) (data : List (BitVec 8)) : Laws.RoundTrip.Statement (.backInvalidationResponse pa data) := fun _ => rfl
theorem Laws.RoundTrip.linkDown (agent : HxAgent) : Laws.RoundTrip.Statement (.linkDown agent) := fun _ => rfl
theorem Laws.RoundTrip.fwOpenSlot (port : BitVec 1) (slot : BitVec 1) : Laws.RoundTrip.Statement (.fwOpenSlot port slot) := fun _ => rfl
theorem Laws.RoundTrip.fwCommit (port : BitVec 1) (slot : BitVec 1) (key body sig : List (BitVec 8)) (version : Nat) : Laws.RoundTrip.Statement (.fwCommit port slot key body sig version) := fun _ => rfl
theorem Laws.RoundTrip.fwAbort (port : BitVec 1) (slot : BitVec 1) : Laws.RoundTrip.Statement (.fwAbort port slot) := fun _ => rfl
theorem Laws.RoundTrip.nonce (port : BitVec 1) (val : BitVec 512) : Laws.RoundTrip.Statement (.nonce port val) := fun _ => rfl
theorem Laws.RoundTrip.quote (port : BitVec 1) : Laws.RoundTrip.Statement (.quote port) := fun _ => rfl
theorem Laws.RoundTrip.quoteComplete : Laws.RoundTrip.Statement .quoteComplete := fun _ => rfl
theorem Laws.RoundTrip.registerWrite (port : BitVec 1) (off : BitVec 16) (val : BitVec 64) : Laws.RoundTrip.Statement (.registerWrite port off val) := fun _ => rfl
theorem Laws.RoundTrip.powerOnReset : Laws.RoundTrip.Statement .powerOnReset := fun _ => rfl
theorem Laws.RoundTrip.functionLevelReset (fn : BitVec 5) : Laws.RoundTrip.Statement (.functionLevelReset fn) := fun _ => rfl
theorem Laws.RoundTrip.functionLevelResetTimeout (fn : BitVec 5) : Laws.RoundTrip.Statement (.functionLevelResetTimeout fn) := fun _ => rfl
theorem Laws.RoundTrip.thermalThrottle (celsius : BitVec 8) : Laws.RoundTrip.Statement (.thermalThrottle celsius) := fun _ => rfl
theorem Laws.RoundTrip.thermalTrip (celsius : BitVec 8) : Laws.RoundTrip.Statement (.thermalTrip celsius) := fun _ => rfl
theorem Laws.RoundTrip.clockTick : Laws.RoundTrip.Statement .clockTick := fun _ => rfl
theorem Laws.RoundTrip.portEnable (port : BitVec 1) (agent : HxAgent) : Laws.RoundTrip.Statement (.portEnable port agent) := fun _ => rfl
theorem Laws.RoundTrip.powerWindow (watts : Nat) : Laws.RoundTrip.Statement (.powerWindow watts) := fun _ => rfl
theorem Laws.RoundTrip.setBankMemoryList (die : BitVec 2) (ten : BitVec 5) (cls : BitVec 4) (base : BitVec 64) (cap : Nat) : Laws.RoundTrip.Statement (.setBankMemoryList die ten cls base cap) := fun _ => rfl
theorem Laws.RoundTrip.tenantScopeLimit (ten : BitVec 5) (limited : Bool) : Laws.RoundTrip.Statement (.tenantScopeLimit ten limited) := fun _ => rfl
theorem Laws.RoundTrip.serviceStreamStop (core : BitVec 6) (cx : Cx) : Laws.RoundTrip.Statement (.serviceStreamStop core cx) := fun _ => rfl
theorem Laws.RoundTrip.vfEnable (port : BitVec 1) (vf : PortFn) : Laws.RoundTrip.Statement (.vfEnable port vf) := fun _ => rfl

end Sys2Proof
end

