-- ==== Sys2Proof/Laws/State.lean ====
section
/-! SUPPORT. What each update of the state leaves unchanged, one lemma per field and update, and what is read back after
a write: contexts, registers, vector elements are in Laws/Vec.lean. -/

namespace Sys2Proof.Machine

/-! ### Reading back contexts and cores -/

@[simp] theorem core_setCore (s : State) (c : BitVec 6) (k : Core) : (s.setCore c k).core c = k := by
  simp [State.core, State.setCore]

theorem core_setCore_ne (s : State) {c d : BitVec 6} (k : Core) (h : d ≠ c) : (s.setCore c k).core d = s.core d := by
  have : c.toNat ≠ d.toNat := fun e => h (BitVec.eq_of_toNat_eq e.symm)
  simp [State.core, State.setCore, this]

@[simp] theorem ctx_setCtx_core (k : Core) (x : Cx) (c : Ctx) : (k.setCtx x c).ctx x = c := by cases x <;> rfl

theorem ctx_setCtx_core_ne (k : Core) {x y : Cx} (c : Ctx) (h : y ≠ x) : (k.setCtx x c).ctx y = k.ctx y := by
  cases x <;> cases y <;> simp_all [Core.setCtx, Core.ctx]

@[simp] theorem ctx_setCtx (s : State) (t : Tid) (c : Ctx) : (s.setCtx t c).ctx t = c := by
  simp [State.ctx, State.setCtx]

theorem ctx_setCtx_ne (s : State) {t u : Tid} (c : Ctx) (h : u ≠ t) : (s.setCtx t c).ctx u = s.ctx u := by
  unfold State.ctx State.setCtx
  by_cases hc : u.core = t.core
  · rw [hc, core_setCore]
    refine ctx_setCtx_core_ne _ _ (fun hx => h ?_)
    cases u; cases t; simp_all
  · rw [core_setCore_ne _ _ hc]

@[simp] theorem ctx_onCtx (s : State) (t : Tid) (f : Ctx → Ctx) : (s.onCtx t f).ctx t = f (s.ctx t) := by
  simp [State.onCtx]

theorem ctx_onCtx_ne (s : State) {t u : Tid} (f : Ctx → Ctx) (h : u ≠ t) : (s.onCtx t f).ctx u = s.ctx u :=
  ctx_setCtx_ne s _ h

@[simp] theorem core_onCore (s : State) (c : BitVec 6) (f : Core → Core) : (s.onCore c f).core c = f (s.core c) := by
  simp [State.onCore]

theorem core_onCore_ne (s : State) {c d : BitVec 6} (f : Core → Core) (h : d ≠ c) :
    (s.onCore c f).core d = s.core d := core_setCore_ne s _ h

@[simp] theorem cores_setCore_self (s : State) (c : BitVec 6) : s.setCore c (s.core c) = s := by
  simp [State.setCore, State.core]

@[simp] theorem setCtx_self_core (k : Core) (x : Cx) : k.setCtx x (k.ctx x) = k := by cases x <;> rfl

@[simp] theorem setCtx_self (s : State) (t : Tid) : s.setCtx t (s.ctx t) = s := by
  simp [State.setCtx, State.ctx]

@[simp] theorem setCore_setCore (s : State) (c : BitVec 6) (k l : Core) : (s.setCore c k).setCore c l = s.setCore c l := by
  simp [State.setCore]

@[simp] theorem setCtx_setCtx_core (k : Core) (x : Cx) (c e : Ctx) : (k.setCtx x c).setCtx x e = k.setCtx x e := by
  cases x <;> rfl

@[simp] theorem setCtx_setCtx (s : State) (t : Tid) (c e : Ctx) : (s.setCtx t c).setCtx t e = s.setCtx t e := by
  simp [State.setCtx]

theorem onCtx_onCtx (s : State) (t : Tid) (f g : Ctx → Ctx) : (s.onCtx t f).onCtx t g = s.onCtx t (fun c => g (f c)) := by
  simp [State.onCtx]

@[simp] theorem cur_onMe (s : State) (f : Ctx → Ctx) : (s.onMe f).cur = s.cur := rfl

@[simp] theorem me_onMe (s : State) (f : Ctx → Ctx) : (s.onMe f).me = f s.me := by
  show (s.onCtx s.cur f).ctx s.cur = _
  simp [State.me]

theorem onMe_onMe (s : State) (f g : Ctx → Ctx) : (s.onMe f).onMe g = s.onMe (fun c => g (f c)) :=
  onCtx_onCtx s s.cur f g

theorem ctx_onMe_ne (s : State) {u : Tid} (f : Ctx → Ctx) (h : u ≠ s.cur) : (s.onMe f).ctx u = s.ctx u :=
  ctx_onCtx_ne s f h

theorem onMe_congr (s : State) {f g : Ctx → Ctx} (h : f s.me = g s.me) : s.onMe f = s.onMe g := by
  unfold State.onMe State.onCtx
  exact congrArg _ h

@[simp] theorem onMe_id (s : State) : s.onMe (fun c => c) = s := by
  simp [State.onMe, State.onCtx]

/-! ### The fields of State under the updates of contexts and cores -/

@[simp] theorem clock_setCore (s : State) (c : BitVec 6) (k : Core) : (s.setCore c k).clock = s.clock := rfl
@[simp] theorem mem_setCore (s : State) (c : BitVec 6) (k : Core) : (s.setCore c k).mem = s.mem := rfl
@[simp] theorem poison_setCore (s : State) (c : BitVec 6) (k : Core) : (s.setCore c k).poison = s.poison := rfl
@[simp] theorem dir_setCore (s : State) (c : BitVec 6) (k : Core) : (s.setCore c k).dir = s.dir := rfl
@[simp] theorem owning_setCore (s : State) (c : BitVec 6) (k : Core) : (s.setCore c k).owning = s.owning := rfl
@[simp] theorem l2_setCore (s : State) (c : BitVec 6) (k : Core) : (s.setCore c k).l2 = s.l2 := rfl
@[simp] theorem txs_setCore (s : State) (c : BitVec 6) (k : Core) : (s.setCore c k).txs = s.txs := rfl
@[simp] theorem firsts_setCore (s : State) (c : BitVec 6) (k : Core) : (s.setCore c k).firsts = s.firsts := rfl
@[simp] theorem roots_setCore (s : State) (c : BitVec 6) (k : Core) : (s.setCore c k).roots = s.roots := rfl
@[simp] theorem limited_setCore (s : State) (c : BitVec 6) (k : Core) : (s.setCore c k).limited = s.limited := rfl
@[simp] theorem slots_setCore (s : State) (c : BitVec 6) (k : Core) : (s.setCore c k).slots = s.slots := rfl
@[simp] theorem accepts_setCore (s : State) (c : BitVec 6) (k : Core) : (s.setCore c k).accepts = s.accepts := rfl
@[simp] theorem jobs_setCore (s : State) (c : BitVec 6) (k : Core) : (s.setCore c k).jobs = s.jobs := rfl
@[simp] theorem graphs_setCore (s : State) (c : BitVec 6) (k : Core) : (s.setCore c k).graphs = s.graphs := rfl
@[simp] theorem phases_setCore (s : State) (c : BitVec 6) (k : Core) : (s.setCore c k).phases = s.phases := rfl
@[simp] theorem jobObjs_setCore (s : State) (c : BitVec 6) (k : Core) : (s.setCore c k).jobObjs = s.jobObjs := rfl
@[simp] theorem rr_setCore (s : State) (c : BitVec 6) (k : Core) : (s.setCore c k).rr = s.rr := rfl
@[simp] theorem banks_setCore (s : State) (c : BitVec 6) (k : Core) : (s.setCore c k).banks = s.banks := rfl
@[simp] theorem host_setCore (s : State) (c : BitVec 6) (k : Core) : (s.setCore c k).host = s.host := rfl
@[simp] theorem plat_setCore (s : State) (c : BitVec 6) (k : Core) : (s.setCore c k).plat = s.plat := rfl
@[simp] theorem sv_setCore (s : State) (c : BitVec 6) (k : Core) : (s.setCore c k).sv = s.sv := rfl
@[simp] theorem agenda_setCore (s : State) (c : BitVec 6) (k : Core) : (s.setCore c k).agenda = s.agenda := rfl
@[simp] theorem cur_setCore (s : State) (c : BitVec 6) (k : Core) : (s.setCore c k).cur = s.cur := rfl
@[simp] theorem portion_setCore (s : State) (c : BitVec 6) (k : Core) : (s.setCore c k).portion = s.portion := rfl
@[simp] theorem freeCtr_setCore (s : State) (c : BitVec 6) (k : Core) : (s.setCore c k).freeCtr = s.freeCtr := rfl
@[simp] theorem clock_setCtx (s : State) (t : Tid) (c : Ctx) : (s.setCtx t c).clock = s.clock := rfl
@[simp] theorem mem_setCtx (s : State) (t : Tid) (c : Ctx) : (s.setCtx t c).mem = s.mem := rfl
@[simp] theorem poison_setCtx (s : State) (t : Tid) (c : Ctx) : (s.setCtx t c).poison = s.poison := rfl
@[simp] theorem dir_setCtx (s : State) (t : Tid) (c : Ctx) : (s.setCtx t c).dir = s.dir := rfl
@[simp] theorem owning_setCtx (s : State) (t : Tid) (c : Ctx) : (s.setCtx t c).owning = s.owning := rfl
@[simp] theorem l2_setCtx (s : State) (t : Tid) (c : Ctx) : (s.setCtx t c).l2 = s.l2 := rfl
@[simp] theorem txs_setCtx (s : State) (t : Tid) (c : Ctx) : (s.setCtx t c).txs = s.txs := rfl
@[simp] theorem firsts_setCtx (s : State) (t : Tid) (c : Ctx) : (s.setCtx t c).firsts = s.firsts := rfl
@[simp] theorem roots_setCtx (s : State) (t : Tid) (c : Ctx) : (s.setCtx t c).roots = s.roots := rfl
@[simp] theorem limited_setCtx (s : State) (t : Tid) (c : Ctx) : (s.setCtx t c).limited = s.limited := rfl
@[simp] theorem slots_setCtx (s : State) (t : Tid) (c : Ctx) : (s.setCtx t c).slots = s.slots := rfl
@[simp] theorem accepts_setCtx (s : State) (t : Tid) (c : Ctx) : (s.setCtx t c).accepts = s.accepts := rfl
@[simp] theorem jobs_setCtx (s : State) (t : Tid) (c : Ctx) : (s.setCtx t c).jobs = s.jobs := rfl
@[simp] theorem graphs_setCtx (s : State) (t : Tid) (c : Ctx) : (s.setCtx t c).graphs = s.graphs := rfl
@[simp] theorem phases_setCtx (s : State) (t : Tid) (c : Ctx) : (s.setCtx t c).phases = s.phases := rfl
@[simp] theorem jobObjs_setCtx (s : State) (t : Tid) (c : Ctx) : (s.setCtx t c).jobObjs = s.jobObjs := rfl
@[simp] theorem rr_setCtx (s : State) (t : Tid) (c : Ctx) : (s.setCtx t c).rr = s.rr := rfl
@[simp] theorem banks_setCtx (s : State) (t : Tid) (c : Ctx) : (s.setCtx t c).banks = s.banks := rfl
@[simp] theorem host_setCtx (s : State) (t : Tid) (c : Ctx) : (s.setCtx t c).host = s.host := rfl
@[simp] theorem plat_setCtx (s : State) (t : Tid) (c : Ctx) : (s.setCtx t c).plat = s.plat := rfl
@[simp] theorem sv_setCtx (s : State) (t : Tid) (c : Ctx) : (s.setCtx t c).sv = s.sv := rfl
@[simp] theorem agenda_setCtx (s : State) (t : Tid) (c : Ctx) : (s.setCtx t c).agenda = s.agenda := rfl
@[simp] theorem cur_setCtx (s : State) (t : Tid) (c : Ctx) : (s.setCtx t c).cur = s.cur := rfl
@[simp] theorem portion_setCtx (s : State) (t : Tid) (c : Ctx) : (s.setCtx t c).portion = s.portion := rfl
@[simp] theorem freeCtr_setCtx (s : State) (t : Tid) (c : Ctx) : (s.setCtx t c).freeCtr = s.freeCtr := rfl
@[simp] theorem clock_onCtx (s : State) (t : Tid) (f : Ctx → Ctx) : (s.onCtx t f).clock = s.clock := rfl
@[simp] theorem mem_onCtx (s : State) (t : Tid) (f : Ctx → Ctx) : (s.onCtx t f).mem = s.mem := rfl
@[simp] theorem poison_onCtx (s : State) (t : Tid) (f : Ctx → Ctx) : (s.onCtx t f).poison = s.poison := rfl
@[simp] theorem dir_onCtx (s : State) (t : Tid) (f : Ctx → Ctx) : (s.onCtx t f).dir = s.dir := rfl
@[simp] theorem owning_onCtx (s : State) (t : Tid) (f : Ctx → Ctx) : (s.onCtx t f).owning = s.owning := rfl
@[simp] theorem l2_onCtx (s : State) (t : Tid) (f : Ctx → Ctx) : (s.onCtx t f).l2 = s.l2 := rfl
@[simp] theorem txs_onCtx (s : State) (t : Tid) (f : Ctx → Ctx) : (s.onCtx t f).txs = s.txs := rfl
@[simp] theorem firsts_onCtx (s : State) (t : Tid) (f : Ctx → Ctx) : (s.onCtx t f).firsts = s.firsts := rfl
@[simp] theorem roots_onCtx (s : State) (t : Tid) (f : Ctx → Ctx) : (s.onCtx t f).roots = s.roots := rfl
@[simp] theorem limited_onCtx (s : State) (t : Tid) (f : Ctx → Ctx) : (s.onCtx t f).limited = s.limited := rfl
@[simp] theorem slots_onCtx (s : State) (t : Tid) (f : Ctx → Ctx) : (s.onCtx t f).slots = s.slots := rfl
@[simp] theorem accepts_onCtx (s : State) (t : Tid) (f : Ctx → Ctx) : (s.onCtx t f).accepts = s.accepts := rfl
@[simp] theorem jobs_onCtx (s : State) (t : Tid) (f : Ctx → Ctx) : (s.onCtx t f).jobs = s.jobs := rfl
@[simp] theorem graphs_onCtx (s : State) (t : Tid) (f : Ctx → Ctx) : (s.onCtx t f).graphs = s.graphs := rfl
@[simp] theorem phases_onCtx (s : State) (t : Tid) (f : Ctx → Ctx) : (s.onCtx t f).phases = s.phases := rfl
@[simp] theorem jobObjs_onCtx (s : State) (t : Tid) (f : Ctx → Ctx) : (s.onCtx t f).jobObjs = s.jobObjs := rfl
@[simp] theorem rr_onCtx (s : State) (t : Tid) (f : Ctx → Ctx) : (s.onCtx t f).rr = s.rr := rfl
@[simp] theorem banks_onCtx (s : State) (t : Tid) (f : Ctx → Ctx) : (s.onCtx t f).banks = s.banks := rfl
@[simp] theorem host_onCtx (s : State) (t : Tid) (f : Ctx → Ctx) : (s.onCtx t f).host = s.host := rfl
@[simp] theorem plat_onCtx (s : State) (t : Tid) (f : Ctx → Ctx) : (s.onCtx t f).plat = s.plat := rfl
@[simp] theorem sv_onCtx (s : State) (t : Tid) (f : Ctx → Ctx) : (s.onCtx t f).sv = s.sv := rfl
@[simp] theorem agenda_onCtx (s : State) (t : Tid) (f : Ctx → Ctx) : (s.onCtx t f).agenda = s.agenda := rfl
@[simp] theorem cur_onCtx (s : State) (t : Tid) (f : Ctx → Ctx) : (s.onCtx t f).cur = s.cur := rfl
@[simp] theorem portion_onCtx (s : State) (t : Tid) (f : Ctx → Ctx) : (s.onCtx t f).portion = s.portion := rfl
@[simp] theorem freeCtr_onCtx (s : State) (t : Tid) (f : Ctx → Ctx) : (s.onCtx t f).freeCtr = s.freeCtr := rfl
@[simp] theorem clock_onCore (s : State) (c : BitVec 6) (f : Core → Core) : (s.onCore c f).clock = s.clock := rfl
@[simp] theorem mem_onCore (s : State) (c : BitVec 6) (f : Core → Core) : (s.onCore c f).mem = s.mem := rfl
@[simp] theorem poison_onCore (s : State) (c : BitVec 6) (f : Core → Core) : (s.onCore c f).poison = s.poison := rfl
@[simp] theorem dir_onCore (s : State) (c : BitVec 6) (f : Core → Core) : (s.onCore c f).dir = s.dir := rfl
@[simp] theorem owning_onCore (s : State) (c : BitVec 6) (f : Core → Core) : (s.onCore c f).owning = s.owning := rfl
@[simp] theorem l2_onCore (s : State) (c : BitVec 6) (f : Core → Core) : (s.onCore c f).l2 = s.l2 := rfl
@[simp] theorem txs_onCore (s : State) (c : BitVec 6) (f : Core → Core) : (s.onCore c f).txs = s.txs := rfl
@[simp] theorem firsts_onCore (s : State) (c : BitVec 6) (f : Core → Core) : (s.onCore c f).firsts = s.firsts := rfl
@[simp] theorem roots_onCore (s : State) (c : BitVec 6) (f : Core → Core) : (s.onCore c f).roots = s.roots := rfl
@[simp] theorem limited_onCore (s : State) (c : BitVec 6) (f : Core → Core) : (s.onCore c f).limited = s.limited := rfl
@[simp] theorem slots_onCore (s : State) (c : BitVec 6) (f : Core → Core) : (s.onCore c f).slots = s.slots := rfl
@[simp] theorem accepts_onCore (s : State) (c : BitVec 6) (f : Core → Core) : (s.onCore c f).accepts = s.accepts := rfl
@[simp] theorem jobs_onCore (s : State) (c : BitVec 6) (f : Core → Core) : (s.onCore c f).jobs = s.jobs := rfl
@[simp] theorem graphs_onCore (s : State) (c : BitVec 6) (f : Core → Core) : (s.onCore c f).graphs = s.graphs := rfl
@[simp] theorem phases_onCore (s : State) (c : BitVec 6) (f : Core → Core) : (s.onCore c f).phases = s.phases := rfl
@[simp] theorem jobObjs_onCore (s : State) (c : BitVec 6) (f : Core → Core) : (s.onCore c f).jobObjs = s.jobObjs := rfl
@[simp] theorem rr_onCore (s : State) (c : BitVec 6) (f : Core → Core) : (s.onCore c f).rr = s.rr := rfl
@[simp] theorem banks_onCore (s : State) (c : BitVec 6) (f : Core → Core) : (s.onCore c f).banks = s.banks := rfl
@[simp] theorem host_onCore (s : State) (c : BitVec 6) (f : Core → Core) : (s.onCore c f).host = s.host := rfl
@[simp] theorem plat_onCore (s : State) (c : BitVec 6) (f : Core → Core) : (s.onCore c f).plat = s.plat := rfl
@[simp] theorem sv_onCore (s : State) (c : BitVec 6) (f : Core → Core) : (s.onCore c f).sv = s.sv := rfl
@[simp] theorem agenda_onCore (s : State) (c : BitVec 6) (f : Core → Core) : (s.onCore c f).agenda = s.agenda := rfl
@[simp] theorem cur_onCore (s : State) (c : BitVec 6) (f : Core → Core) : (s.onCore c f).cur = s.cur := rfl
@[simp] theorem portion_onCore (s : State) (c : BitVec 6) (f : Core → Core) : (s.onCore c f).portion = s.portion := rfl
@[simp] theorem freeCtr_onCore (s : State) (c : BitVec 6) (f : Core → Core) : (s.onCore c f).freeCtr = s.freeCtr := rfl
@[simp] theorem clock_onMe (s : State) (f : Ctx → Ctx) : (s.onMe f).clock = s.clock := rfl
@[simp] theorem mem_onMe (s : State) (f : Ctx → Ctx) : (s.onMe f).mem = s.mem := rfl
@[simp] theorem poison_onMe (s : State) (f : Ctx → Ctx) : (s.onMe f).poison = s.poison := rfl
@[simp] theorem dir_onMe (s : State) (f : Ctx → Ctx) : (s.onMe f).dir = s.dir := rfl
@[simp] theorem owning_onMe (s : State) (f : Ctx → Ctx) : (s.onMe f).owning = s.owning := rfl
@[simp] theorem l2_onMe (s : State) (f : Ctx → Ctx) : (s.onMe f).l2 = s.l2 := rfl
@[simp] theorem txs_onMe (s : State) (f : Ctx → Ctx) : (s.onMe f).txs = s.txs := rfl
@[simp] theorem firsts_onMe (s : State) (f : Ctx → Ctx) : (s.onMe f).firsts = s.firsts := rfl
@[simp] theorem roots_onMe (s : State) (f : Ctx → Ctx) : (s.onMe f).roots = s.roots := rfl
@[simp] theorem limited_onMe (s : State) (f : Ctx → Ctx) : (s.onMe f).limited = s.limited := rfl
@[simp] theorem slots_onMe (s : State) (f : Ctx → Ctx) : (s.onMe f).slots = s.slots := rfl
@[simp] theorem accepts_onMe (s : State) (f : Ctx → Ctx) : (s.onMe f).accepts = s.accepts := rfl
@[simp] theorem jobs_onMe (s : State) (f : Ctx → Ctx) : (s.onMe f).jobs = s.jobs := rfl
@[simp] theorem graphs_onMe (s : State) (f : Ctx → Ctx) : (s.onMe f).graphs = s.graphs := rfl
@[simp] theorem phases_onMe (s : State) (f : Ctx → Ctx) : (s.onMe f).phases = s.phases := rfl
@[simp] theorem jobObjs_onMe (s : State) (f : Ctx → Ctx) : (s.onMe f).jobObjs = s.jobObjs := rfl
@[simp] theorem rr_onMe (s : State) (f : Ctx → Ctx) : (s.onMe f).rr = s.rr := rfl
@[simp] theorem banks_onMe (s : State) (f : Ctx → Ctx) : (s.onMe f).banks = s.banks := rfl
@[simp] theorem host_onMe (s : State) (f : Ctx → Ctx) : (s.onMe f).host = s.host := rfl
@[simp] theorem plat_onMe (s : State) (f : Ctx → Ctx) : (s.onMe f).plat = s.plat := rfl
@[simp] theorem sv_onMe (s : State) (f : Ctx → Ctx) : (s.onMe f).sv = s.sv := rfl
@[simp] theorem agenda_onMe (s : State) (f : Ctx → Ctx) : (s.onMe f).agenda = s.agenda := rfl
@[simp] theorem portion_onMe (s : State) (f : Ctx → Ctx) : (s.onMe f).portion = s.portion := rfl
@[simp] theorem freeCtr_onMe (s : State) (f : Ctx → Ctx) : (s.onMe f).freeCtr = s.freeCtr := rfl
@[simp] theorem clock_setG (s : State) (r : BitVec 5) (x : Word) : (s.setG r x).clock = s.clock := rfl
@[simp] theorem mem_setG (s : State) (r : BitVec 5) (x : Word) : (s.setG r x).mem = s.mem := rfl
@[simp] theorem poison_setG (s : State) (r : BitVec 5) (x : Word) : (s.setG r x).poison = s.poison := rfl
@[simp] theorem dir_setG (s : State) (r : BitVec 5) (x : Word) : (s.setG r x).dir = s.dir := rfl
@[simp] theorem owning_setG (s : State) (r : BitVec 5) (x : Word) : (s.setG r x).owning = s.owning := rfl
@[simp] theorem l2_setG (s : State) (r : BitVec 5) (x : Word) : (s.setG r x).l2 = s.l2 := rfl
@[simp] theorem txs_setG (s : State) (r : BitVec 5) (x : Word) : (s.setG r x).txs = s.txs := rfl
@[simp] theorem firsts_setG (s : State) (r : BitVec 5) (x : Word) : (s.setG r x).firsts = s.firsts := rfl
@[simp] theorem roots_setG (s : State) (r : BitVec 5) (x : Word) : (s.setG r x).roots = s.roots := rfl
@[simp] theorem limited_setG (s : State) (r : BitVec 5) (x : Word) : (s.setG r x).limited = s.limited := rfl
@[simp] theorem slots_setG (s : State) (r : BitVec 5) (x : Word) : (s.setG r x).slots = s.slots := rfl
@[simp] theorem accepts_setG (s : State) (r : BitVec 5) (x : Word) : (s.setG r x).accepts = s.accepts := rfl
@[simp] theorem jobs_setG (s : State) (r : BitVec 5) (x : Word) : (s.setG r x).jobs = s.jobs := rfl
@[simp] theorem graphs_setG (s : State) (r : BitVec 5) (x : Word) : (s.setG r x).graphs = s.graphs := rfl
@[simp] theorem phases_setG (s : State) (r : BitVec 5) (x : Word) : (s.setG r x).phases = s.phases := rfl
@[simp] theorem jobObjs_setG (s : State) (r : BitVec 5) (x : Word) : (s.setG r x).jobObjs = s.jobObjs := rfl
@[simp] theorem rr_setG (s : State) (r : BitVec 5) (x : Word) : (s.setG r x).rr = s.rr := rfl
@[simp] theorem banks_setG (s : State) (r : BitVec 5) (x : Word) : (s.setG r x).banks = s.banks := rfl
@[simp] theorem host_setG (s : State) (r : BitVec 5) (x : Word) : (s.setG r x).host = s.host := rfl
@[simp] theorem plat_setG (s : State) (r : BitVec 5) (x : Word) : (s.setG r x).plat = s.plat := rfl
@[simp] theorem sv_setG (s : State) (r : BitVec 5) (x : Word) : (s.setG r x).sv = s.sv := rfl
@[simp] theorem agenda_setG (s : State) (r : BitVec 5) (x : Word) : (s.setG r x).agenda = s.agenda := rfl
@[simp] theorem cur_setG (s : State) (r : BitVec 5) (x : Word) : (s.setG r x).cur = s.cur := rfl
@[simp] theorem portion_setG (s : State) (r : BitVec 5) (x : Word) : (s.setG r x).portion = s.portion := rfl
@[simp] theorem freeCtr_setG (s : State) (r : BitVec 5) (x : Word) : (s.setG r x).freeCtr = s.freeCtr := rfl
@[simp] theorem clock_setPc (s : State) (x : Word) : (s.setPc x).clock = s.clock := rfl
@[simp] theorem mem_setPc (s : State) (x : Word) : (s.setPc x).mem = s.mem := rfl
@[simp] theorem poison_setPc (s : State) (x : Word) : (s.setPc x).poison = s.poison := rfl
@[simp] theorem dir_setPc (s : State) (x : Word) : (s.setPc x).dir = s.dir := rfl
@[simp] theorem owning_setPc (s : State) (x : Word) : (s.setPc x).owning = s.owning := rfl
@[simp] theorem l2_setPc (s : State) (x : Word) : (s.setPc x).l2 = s.l2 := rfl
@[simp] theorem txs_setPc (s : State) (x : Word) : (s.setPc x).txs = s.txs := rfl
@[simp] theorem firsts_setPc (s : State) (x : Word) : (s.setPc x).firsts = s.firsts := rfl
@[simp] theorem roots_setPc (s : State) (x : Word) : (s.setPc x).roots = s.roots := rfl
@[simp] theorem limited_setPc (s : State) (x : Word) : (s.setPc x).limited = s.limited := rfl
@[simp] theorem slots_setPc (s : State) (x : Word) : (s.setPc x).slots = s.slots := rfl
@[simp] theorem accepts_setPc (s : State) (x : Word) : (s.setPc x).accepts = s.accepts := rfl
@[simp] theorem jobs_setPc (s : State) (x : Word) : (s.setPc x).jobs = s.jobs := rfl
@[simp] theorem graphs_setPc (s : State) (x : Word) : (s.setPc x).graphs = s.graphs := rfl
@[simp] theorem phases_setPc (s : State) (x : Word) : (s.setPc x).phases = s.phases := rfl
@[simp] theorem jobObjs_setPc (s : State) (x : Word) : (s.setPc x).jobObjs = s.jobObjs := rfl
@[simp] theorem rr_setPc (s : State) (x : Word) : (s.setPc x).rr = s.rr := rfl
@[simp] theorem banks_setPc (s : State) (x : Word) : (s.setPc x).banks = s.banks := rfl
@[simp] theorem host_setPc (s : State) (x : Word) : (s.setPc x).host = s.host := rfl
@[simp] theorem plat_setPc (s : State) (x : Word) : (s.setPc x).plat = s.plat := rfl
@[simp] theorem sv_setPc (s : State) (x : Word) : (s.setPc x).sv = s.sv := rfl
@[simp] theorem agenda_setPc (s : State) (x : Word) : (s.setPc x).agenda = s.agenda := rfl
@[simp] theorem cur_setPc (s : State) (x : Word) : (s.setPc x).cur = s.cur := rfl
@[simp] theorem portion_setPc (s : State) (x : Word) : (s.setPc x).portion = s.portion := rfl
@[simp] theorem freeCtr_setPc (s : State) (x : Word) : (s.setPc x).freeCtr = s.freeCtr := rfl
@[simp] theorem clock_advance (s : State) (n : Nat) : (s.advance n).clock = s.clock := rfl
@[simp] theorem mem_advance (s : State) (n : Nat) : (s.advance n).mem = s.mem := rfl
@[simp] theorem poison_advance (s : State) (n : Nat) : (s.advance n).poison = s.poison := rfl
@[simp] theorem dir_advance (s : State) (n : Nat) : (s.advance n).dir = s.dir := rfl
@[simp] theorem owning_advance (s : State) (n : Nat) : (s.advance n).owning = s.owning := rfl
@[simp] theorem l2_advance (s : State) (n : Nat) : (s.advance n).l2 = s.l2 := rfl
@[simp] theorem txs_advance (s : State) (n : Nat) : (s.advance n).txs = s.txs := rfl
@[simp] theorem firsts_advance (s : State) (n : Nat) : (s.advance n).firsts = s.firsts := rfl
@[simp] theorem roots_advance (s : State) (n : Nat) : (s.advance n).roots = s.roots := rfl
@[simp] theorem limited_advance (s : State) (n : Nat) : (s.advance n).limited = s.limited := rfl
@[simp] theorem slots_advance (s : State) (n : Nat) : (s.advance n).slots = s.slots := rfl
@[simp] theorem accepts_advance (s : State) (n : Nat) : (s.advance n).accepts = s.accepts := rfl
@[simp] theorem jobs_advance (s : State) (n : Nat) : (s.advance n).jobs = s.jobs := rfl
@[simp] theorem graphs_advance (s : State) (n : Nat) : (s.advance n).graphs = s.graphs := rfl
@[simp] theorem phases_advance (s : State) (n : Nat) : (s.advance n).phases = s.phases := rfl
@[simp] theorem jobObjs_advance (s : State) (n : Nat) : (s.advance n).jobObjs = s.jobObjs := rfl
@[simp] theorem rr_advance (s : State) (n : Nat) : (s.advance n).rr = s.rr := rfl
@[simp] theorem banks_advance (s : State) (n : Nat) : (s.advance n).banks = s.banks := rfl
@[simp] theorem host_advance (s : State) (n : Nat) : (s.advance n).host = s.host := rfl
@[simp] theorem plat_advance (s : State) (n : Nat) : (s.advance n).plat = s.plat := rfl
@[simp] theorem sv_advance (s : State) (n : Nat) : (s.advance n).sv = s.sv := rfl
@[simp] theorem agenda_advance (s : State) (n : Nat) : (s.advance n).agenda = s.agenda := rfl
@[simp] theorem cur_advance (s : State) (n : Nat) : (s.advance n).cur = s.cur := rfl
@[simp] theorem portion_advance (s : State) (n : Nat) : (s.advance n).portion = s.portion := rfl
@[simp] theorem freeCtr_advance (s : State) (n : Nat) : (s.advance n).freeCtr = s.freeCtr := rfl
@[simp] theorem clock_raiseFlags (s : State) (f : BitVec 5) : (s.raiseFlags f).clock = s.clock := rfl
@[simp] theorem mem_raiseFlags (s : State) (f : BitVec 5) : (s.raiseFlags f).mem = s.mem := rfl
@[simp] theorem poison_raiseFlags (s : State) (f : BitVec 5) : (s.raiseFlags f).poison = s.poison := rfl
@[simp] theorem dir_raiseFlags (s : State) (f : BitVec 5) : (s.raiseFlags f).dir = s.dir := rfl
@[simp] theorem owning_raiseFlags (s : State) (f : BitVec 5) : (s.raiseFlags f).owning = s.owning := rfl
@[simp] theorem l2_raiseFlags (s : State) (f : BitVec 5) : (s.raiseFlags f).l2 = s.l2 := rfl
@[simp] theorem txs_raiseFlags (s : State) (f : BitVec 5) : (s.raiseFlags f).txs = s.txs := rfl
@[simp] theorem firsts_raiseFlags (s : State) (f : BitVec 5) : (s.raiseFlags f).firsts = s.firsts := rfl
@[simp] theorem roots_raiseFlags (s : State) (f : BitVec 5) : (s.raiseFlags f).roots = s.roots := rfl
@[simp] theorem limited_raiseFlags (s : State) (f : BitVec 5) : (s.raiseFlags f).limited = s.limited := rfl
@[simp] theorem slots_raiseFlags (s : State) (f : BitVec 5) : (s.raiseFlags f).slots = s.slots := rfl
@[simp] theorem accepts_raiseFlags (s : State) (f : BitVec 5) : (s.raiseFlags f).accepts = s.accepts := rfl
@[simp] theorem jobs_raiseFlags (s : State) (f : BitVec 5) : (s.raiseFlags f).jobs = s.jobs := rfl
@[simp] theorem graphs_raiseFlags (s : State) (f : BitVec 5) : (s.raiseFlags f).graphs = s.graphs := rfl
@[simp] theorem phases_raiseFlags (s : State) (f : BitVec 5) : (s.raiseFlags f).phases = s.phases := rfl
@[simp] theorem jobObjs_raiseFlags (s : State) (f : BitVec 5) : (s.raiseFlags f).jobObjs = s.jobObjs := rfl
@[simp] theorem rr_raiseFlags (s : State) (f : BitVec 5) : (s.raiseFlags f).rr = s.rr := rfl
@[simp] theorem banks_raiseFlags (s : State) (f : BitVec 5) : (s.raiseFlags f).banks = s.banks := rfl
@[simp] theorem host_raiseFlags (s : State) (f : BitVec 5) : (s.raiseFlags f).host = s.host := rfl
@[simp] theorem plat_raiseFlags (s : State) (f : BitVec 5) : (s.raiseFlags f).plat = s.plat := rfl
@[simp] theorem sv_raiseFlags (s : State) (f : BitVec 5) : (s.raiseFlags f).sv = s.sv := rfl
@[simp] theorem agenda_raiseFlags (s : State) (f : BitVec 5) : (s.raiseFlags f).agenda = s.agenda := rfl
@[simp] theorem cur_raiseFlags (s : State) (f : BitVec 5) : (s.raiseFlags f).cur = s.cur := rfl
@[simp] theorem portion_raiseFlags (s : State) (f : BitVec 5) : (s.raiseFlags f).portion = s.portion := rfl
@[simp] theorem freeCtr_raiseFlags (s : State) (f : BitVec 5) : (s.raiseFlags f).freeCtr = s.freeCtr := rfl

/-! ### The fields of a context under register writes -/

@[simp] theorem ctx_v_setG (c : Ctx) (r : BitVec 5) (x : Word) : (c.setG r x).v = c.v := by unfold Ctx.setG; split <;> rfl
@[simp] theorem ctx_fill_setG (c : Ctx) (r : BitVec 5) (x : Word) : (c.setG r x).fill = c.fill := by unfold Ctx.setG; split <;> rfl
@[simp] theorem ctx_m_setG (c : Ctx) (r : BitVec 5) (x : Word) : (c.setG r x).m = c.m := by unfold Ctx.setG; split <;> rfl
@[simp] theorem ctx_pc_setG (c : Ctx) (r : BitVec 5) (x : Word) : (c.setG r x).pc = c.pc := by unfold Ctx.setG; split <;> rfl
@[simp] theorem ctx_vl_setG (c : Ctx) (r : BitVec 5) (x : Word) : (c.setG r x).vl = c.vl := by unfold Ctx.setG; split <;> rfl
@[simp] theorem ctx_vtype_setG (c : Ctx) (r : BitVec 5) (x : Word) : (c.setG r x).vtype = c.vtype := by unfold Ctx.setG; split <;> rfl
@[simp] theorem ctx_vstart_setG (c : Ctx) (r : BitVec 5) (x : Word) : (c.setG r x).vstart = c.vstart := by unfold Ctx.setG; split <;> rfl
@[simp] theorem ctx_fcsr_setG (c : Ctx) (r : BitVec 5) (x : Word) : (c.setG r x).fcsr = c.fcsr := by unfold Ctx.setG; split <;> rfl
@[simp] theorem ctx_status_setG (c : Ctx) (r : BitVec 5) (x : Word) : (c.setG r x).status = c.status := by unfold Ctx.setG; split <;> rfl
@[simp] theorem ctx_tstat_setG (c : Ctx) (r : BitVec 5) (x : Word) : (c.setG r x).tstat = c.tstat := by unfold Ctx.setG; split <;> rfl
@[simp] theorem ctx_tcause_setG (c : Ctx) (r : BitVec 5) (x : Word) : (c.setG r x).tcause = c.tcause := by unfold Ctx.setG; split <;> rfl
@[simp] theorem ctx_tpc_setG (c : Ctx) (r : BitVec 5) (x : Word) : (c.setG r x).tpc = c.tpc := by unfold Ctx.setG; split <;> rfl
@[simp] theorem ctx_tval_setG (c : Ctx) (r : BitVec 5) (x : Word) : (c.setG r x).tval = c.tval := by unfold Ctx.setG; split <;> rfl
@[simp] theorem ctx_tframe_setG (c : Ctx) (r : BitVec 5) (x : Word) : (c.setG r x).tframe = c.tframe := by unfold Ctx.setG; split <;> rfl
@[simp] theorem ctx_yreq_setG (c : Ctx) (r : BitVec 5) (x : Word) : (c.setG r x).yreq = c.yreq := by unfold Ctx.setG; split <;> rfl
@[simp] theorem ctx_cancel_setG (c : Ctx) (r : BitVec 5) (x : Word) : (c.setG r x).cancel = c.cancel := by unfold Ctx.setG; split <;> rfl
@[simp] theorem ctx_tenant_setG (c : Ctx) (r : BitVec 5) (x : Word) : (c.setG r x).tenant = c.tenant := by unfold Ctx.setG; split <;> rfl
@[simp] theorem ctx_quota_setG (c : Ctx) (r : BitVec 5) (x : Word) : (c.setG r x).quota = c.quota := by unfold Ctx.setG; split <;> rfl
@[simp] theorem ctx_lim1_setG (c : Ctx) (r : BitVec 5) (x : Word) : (c.setG r x).lim1 = c.lim1 := by unfold Ctx.setG; split <;> rfl
@[simp] theorem ctx_lim2_setG (c : Ctx) (r : BitVec 5) (x : Word) : (c.setG r x).lim2 = c.lim2 := by unfold Ctx.setG; split <;> rfl
@[simp] theorem ctx_slots_setG (c : Ctx) (r : BitVec 5) (x : Word) : (c.setG r x).slots = c.slots := by unfold Ctx.setG; split <;> rfl
@[simp] theorem ctx_vrt_setG (c : Ctx) (r : BitVec 5) (x : Word) : (c.setG r x).vrt = c.vrt := by unfold Ctx.setG; split <;> rfl
@[simp] theorem ctx_ld_setG (c : Ctx) (r : BitVec 5) (x : Word) : (c.setG r x).ld = c.ld := by unfold Ctx.setG; split <;> rfl
@[simp] theorem ctx_st_setG (c : Ctx) (r : BitVec 5) (x : Word) : (c.setG r x).st = c.st := by unfold Ctx.setG; split <;> rfl
@[simp] theorem ctx_cp_setG (c : Ctx) (r : BitVec 5) (x : Word) : (c.setG r x).cp = c.cp := by unfold Ctx.setG; split <;> rfl
@[simp] theorem ctx_mx_setG (c : Ctx) (r : BitVec 5) (x : Word) : (c.setG r x).mx = c.mx := by unfold Ctx.setG; split <;> rfl
@[simp] theorem ctx_fx_setG (c : Ctx) (r : BitVec 5) (x : Word) : (c.setG r x).fx = c.fx := by unfold Ctx.setG; split <;> rfl
@[simp] theorem ctx_seq_setG (c : Ctx) (r : BitVec 5) (x : Word) : (c.setG r x).seq = c.seq := by unfold Ctx.setG; split <;> rfl
@[simp] theorem ctx_run_setG (c : Ctx) (r : BitVec 5) (x : Word) : (c.setG r x).run = c.run := by unfold Ctx.setG; split <;> rfl
@[simp] theorem ctx_waiting_setG (c : Ctx) (r : BitVec 5) (x : Word) : (c.setG r x).waiting = c.waiting := by unfold Ctx.setG; split <;> rfl
@[simp] theorem ctx_pushWait_setG (c : Ctx) (r : BitVec 5) (x : Word) : (c.setG r x).pushWait = c.pushWait := by unfold Ctx.setG; split <;> rfl
@[simp] theorem ctx_wfi_setG (c : Ctx) (r : BitVec 5) (x : Word) : (c.setG r x).wfi = c.wfi := by unfold Ctx.setG; split <;> rfl
@[simp] theorem ctx_wake_setG (c : Ctx) (r : BitVec 5) (x : Word) : (c.setG r x).wake = c.wake := by unfold Ctx.setG; split <;> rfl
@[simp] theorem ctx_inst_setG (c : Ctx) (r : BitVec 5) (x : Word) : (c.setG r x).inst = c.inst := by unfold Ctx.setG; split <;> rfl
@[simp] theorem ctx_pendTrap_setG (c : Ctx) (r : BitVec 5) (x : Word) : (c.setG r x).pendTrap = c.pendTrap := by unfold Ctx.setG; split <;> rfl
@[simp] theorem ctx_fabStop_setG (c : Ctx) (r : BitVec 5) (x : Word) : (c.setG r x).fabStop = c.fabStop := by unfold Ctx.setG; split <;> rfl
@[simp] theorem ctx_declined_setG (c : Ctx) (r : BitVec 5) (x : Word) : (c.setG r x).declined = c.declined := by unfold Ctx.setG; split <;> rfl
@[simp] theorem ctx_preempt_setG (c : Ctx) (r : BitVec 5) (x : Word) : (c.setG r x).preempt = c.preempt := by unfold Ctx.setG; split <;> rfl
@[simp] theorem ctx_board_setG (c : Ctx) (r : BitVec 5) (x : Word) : (c.setG r x).board = c.board := by unfold Ctx.setG; split <;> rfl
@[simp] theorem ctx_inv_setG (c : Ctx) (r : BitVec 5) (x : Word) : (c.setG r x).inv = c.inv := by unfold Ctx.setG; split <;> rfl
@[simp] theorem ctx_mxJobs_setG (c : Ctx) (r : BitVec 5) (x : Word) : (c.setG r x).mxJobs = c.mxJobs := by unfold Ctx.setG; split <;> rfl
@[simp] theorem ctx_mxWait_setG (c : Ctx) (r : BitVec 5) (x : Word) : (c.setG r x).mxWait = c.mxWait := by unfold Ctx.setG; split <;> rfl
@[simp] theorem ctx_xfers_setG (c : Ctx) (r : BitVec 5) (x : Word) : (c.setG r x).xfers = c.xfers := by unfold Ctx.setG; split <;> rfl
@[simp] theorem ctx_issued_setG (c : Ctx) (r : BitVec 5) (x : Word) : (c.setG r x).issued = c.issued := by unfold Ctx.setG; split <;> rfl
@[simp] theorem ctx_groups_setG (c : Ctx) (r : BitVec 5) (x : Word) : (c.setG r x).groups = c.groups := by unfold Ctx.setG; split <;> rfl
@[simp] theorem ctx_lchk_setG (c : Ctx) (r : BitVec 5) (x : Word) : (c.setG r x).lchk = c.lchk := by unfold Ctx.setG; split <;> rfl
@[simp] theorem ctx_resumed_setG (c : Ctx) (r : BitVec 5) (x : Word) : (c.setG r x).resumed = c.resumed := by unfold Ctx.setG; split <;> rfl
@[simp] theorem ctx_issuedAt_setG (c : Ctx) (r : BitVec 5) (x : Word) : (c.setG r x).issuedAt = c.issuedAt := by unfold Ctx.setG; split <;> rfl
@[simp] theorem ctx_cvtSrc_setG (c : Ctx) (r : BitVec 5) (x : Word) : (c.setG r x).cvtSrc = c.cvtSrc := by unfold Ctx.setG; split <;> rfl
@[simp] theorem ctx_leftRows_setG (c : Ctx) (r : BitVec 5) (x : Word) : (c.setG r x).leftRows = c.leftRows := by unfold Ctx.setG; split <;> rfl
@[simp] theorem ctx_stepFx_setG (c : Ctx) (r : BitVec 5) (x : Word) : (c.setG r x).stepFx = c.stepFx := by unfold Ctx.setG; split <;> rfl
@[simp] theorem ctx_parked_setG (c : Ctx) (r : BitVec 5) (x : Word) : (c.setG r x).parked = c.parked := by unfold Ctx.setG; split <;> rfl
@[simp] theorem ctx_g_setM (c : Ctx) (r : BitVec 3) (x : BitVec 512) : (c.setM r x).g = c.g := by unfold Ctx.setM; split <;> rfl
@[simp] theorem ctx_v_setM (c : Ctx) (r : BitVec 3) (x : BitVec 512) : (c.setM r x).v = c.v := by unfold Ctx.setM; split <;> rfl
@[simp] theorem ctx_fill_setM (c : Ctx) (r : BitVec 3) (x : BitVec 512) : (c.setM r x).fill = c.fill := by unfold Ctx.setM; split <;> rfl
@[simp] theorem ctx_pc_setM (c : Ctx) (r : BitVec 3) (x : BitVec 512) : (c.setM r x).pc = c.pc := by unfold Ctx.setM; split <;> rfl
@[simp] theorem ctx_vl_setM (c : Ctx) (r : BitVec 3) (x : BitVec 512) : (c.setM r x).vl = c.vl := by unfold Ctx.setM; split <;> rfl
@[simp] theorem ctx_vtype_setM (c : Ctx) (r : BitVec 3) (x : BitVec 512) : (c.setM r x).vtype = c.vtype := by unfold Ctx.setM; split <;> rfl
@[simp] theorem ctx_vstart_setM (c : Ctx) (r : BitVec 3) (x : BitVec 512) : (c.setM r x).vstart = c.vstart := by unfold Ctx.setM; split <;> rfl
@[simp] theorem ctx_fcsr_setM (c : Ctx) (r : BitVec 3) (x : BitVec 512) : (c.setM r x).fcsr = c.fcsr := by unfold Ctx.setM; split <;> rfl
@[simp] theorem ctx_status_setM (c : Ctx) (r : BitVec 3) (x : BitVec 512) : (c.setM r x).status = c.status := by unfold Ctx.setM; split <;> rfl
@[simp] theorem ctx_tstat_setM (c : Ctx) (r : BitVec 3) (x : BitVec 512) : (c.setM r x).tstat = c.tstat := by unfold Ctx.setM; split <;> rfl
@[simp] theorem ctx_tcause_setM (c : Ctx) (r : BitVec 3) (x : BitVec 512) : (c.setM r x).tcause = c.tcause := by unfold Ctx.setM; split <;> rfl
@[simp] theorem ctx_tpc_setM (c : Ctx) (r : BitVec 3) (x : BitVec 512) : (c.setM r x).tpc = c.tpc := by unfold Ctx.setM; split <;> rfl
@[simp] theorem ctx_tval_setM (c : Ctx) (r : BitVec 3) (x : BitVec 512) : (c.setM r x).tval = c.tval := by unfold Ctx.setM; split <;> rfl
@[simp] theorem ctx_tframe_setM (c : Ctx) (r : BitVec 3) (x : BitVec 512) : (c.setM r x).tframe = c.tframe := by unfold Ctx.setM; split <;> rfl
@[simp] theorem ctx_yreq_setM (c : Ctx) (r : BitVec 3) (x : BitVec 512) : (c.setM r x).yreq = c.yreq := by unfold Ctx.setM; split <;> rfl
@[simp] theorem ctx_cancel_setM (c : Ctx) (r : BitVec 3) (x : BitVec 512) : (c.setM r x).cancel = c.cancel := by unfold Ctx.setM; split <;> rfl
@[simp] theorem ctx_tenant_setM (c : Ctx) (r : BitVec 3) (x : BitVec 512) : (c.setM r x).tenant = c.tenant := by unfold Ctx.setM; split <;> rfl
@[simp] theorem ctx_quota_setM (c : Ctx) (r : BitVec 3) (x : BitVec 512) : (c.setM r x).quota = c.quota := by unfold Ctx.setM; split <;> rfl
@[simp] theorem ctx_lim1_setM (c : Ctx) (r : BitVec 3) (x : BitVec 512) : (c.setM r x).lim1 = c.lim1 := by unfold Ctx.setM; split <;> rfl
@[simp] theorem ctx_lim2_setM (c : Ctx) (r : BitVec 3) (x : BitVec 512) : (c.setM r x).lim2 = c.lim2 := by unfold Ctx.setM; split <;> rfl
@[simp] theorem ctx_slots_setM (c : Ctx) (r : BitVec 3) (x : BitVec 512) : (c.setM r x).slots = c.slots := by unfold Ctx.setM; split <;> rfl
@[simp] theorem ctx_vrt_setM (c : Ctx) (r : BitVec 3) (x : BitVec 512) : (c.setM r x).vrt = c.vrt := by unfold Ctx.setM; split <;> rfl
@[simp] theorem ctx_ld_setM (c : Ctx) (r : BitVec 3) (x : BitVec 512) : (c.setM r x).ld = c.ld := by unfold Ctx.setM; split <;> rfl
@[simp] theorem ctx_st_setM (c : Ctx) (r : BitVec 3) (x : BitVec 512) : (c.setM r x).st = c.st := by unfold Ctx.setM; split <;> rfl
@[simp] theorem ctx_cp_setM (c : Ctx) (r : BitVec 3) (x : BitVec 512) : (c.setM r x).cp = c.cp := by unfold Ctx.setM; split <;> rfl
@[simp] theorem ctx_mx_setM (c : Ctx) (r : BitVec 3) (x : BitVec 512) : (c.setM r x).mx = c.mx := by unfold Ctx.setM; split <;> rfl
@[simp] theorem ctx_fx_setM (c : Ctx) (r : BitVec 3) (x : BitVec 512) : (c.setM r x).fx = c.fx := by unfold Ctx.setM; split <;> rfl
@[simp] theorem ctx_seq_setM (c : Ctx) (r : BitVec 3) (x : BitVec 512) : (c.setM r x).seq = c.seq := by unfold Ctx.setM; split <;> rfl
@[simp] theorem ctx_run_setM (c : Ctx) (r : BitVec 3) (x : BitVec 512) : (c.setM r x).run = c.run := by unfold Ctx.setM; split <;> rfl
@[simp] theorem ctx_waiting_setM (c : Ctx) (r : BitVec 3) (x : BitVec 512) : (c.setM r x).waiting = c.waiting := by unfold Ctx.setM; split <;> rfl
@[simp] theorem ctx_pushWait_setM (c : Ctx) (r : BitVec 3) (x : BitVec 512) : (c.setM r x).pushWait = c.pushWait := by unfold Ctx.setM; split <;> rfl
@[simp] theorem ctx_wfi_setM (c : Ctx) (r : BitVec 3) (x : BitVec 512) : (c.setM r x).wfi = c.wfi := by unfold Ctx.setM; split <;> rfl
@[simp] theorem ctx_wake_setM (c : Ctx) (r : BitVec 3) (x : BitVec 512) : (c.setM r x).wake = c.wake := by unfold Ctx.setM; split <;> rfl
@[simp] theorem ctx_inst_setM (c : Ctx) (r : BitVec 3) (x : BitVec 512) : (c.setM r x).inst = c.inst := by unfold Ctx.setM; split <;> rfl
@[simp] theorem ctx_pendTrap_setM (c : Ctx) (r : BitVec 3) (x : BitVec 512) : (c.setM r x).pendTrap = c.pendTrap := by unfold Ctx.setM; split <;> rfl
@[simp] theorem ctx_fabStop_setM (c : Ctx) (r : BitVec 3) (x : BitVec 512) : (c.setM r x).fabStop = c.fabStop := by unfold Ctx.setM; split <;> rfl
@[simp] theorem ctx_declined_setM (c : Ctx) (r : BitVec 3) (x : BitVec 512) : (c.setM r x).declined = c.declined := by unfold Ctx.setM; split <;> rfl
@[simp] theorem ctx_preempt_setM (c : Ctx) (r : BitVec 3) (x : BitVec 512) : (c.setM r x).preempt = c.preempt := by unfold Ctx.setM; split <;> rfl
@[simp] theorem ctx_board_setM (c : Ctx) (r : BitVec 3) (x : BitVec 512) : (c.setM r x).board = c.board := by unfold Ctx.setM; split <;> rfl
@[simp] theorem ctx_inv_setM (c : Ctx) (r : BitVec 3) (x : BitVec 512) : (c.setM r x).inv = c.inv := by unfold Ctx.setM; split <;> rfl
@[simp] theorem ctx_mxJobs_setM (c : Ctx) (r : BitVec 3) (x : BitVec 512) : (c.setM r x).mxJobs = c.mxJobs := by unfold Ctx.setM; split <;> rfl
@[simp] theorem ctx_mxWait_setM (c : Ctx) (r : BitVec 3) (x : BitVec 512) : (c.setM r x).mxWait = c.mxWait := by unfold Ctx.setM; split <;> rfl
@[simp] theorem ctx_xfers_setM (c : Ctx) (r : BitVec 3) (x : BitVec 512) : (c.setM r x).xfers = c.xfers := by unfold Ctx.setM; split <;> rfl
@[simp] theorem ctx_issued_setM (c : Ctx) (r : BitVec 3) (x : BitVec 512) : (c.setM r x).issued = c.issued := by unfold Ctx.setM; split <;> rfl
@[simp] theorem ctx_groups_setM (c : Ctx) (r : BitVec 3) (x : BitVec 512) : (c.setM r x).groups = c.groups := by unfold Ctx.setM; split <;> rfl
@[simp] theorem ctx_lchk_setM (c : Ctx) (r : BitVec 3) (x : BitVec 512) : (c.setM r x).lchk = c.lchk := by unfold Ctx.setM; split <;> rfl
@[simp] theorem ctx_resumed_setM (c : Ctx) (r : BitVec 3) (x : BitVec 512) : (c.setM r x).resumed = c.resumed := by unfold Ctx.setM; split <;> rfl
@[simp] theorem ctx_issuedAt_setM (c : Ctx) (r : BitVec 3) (x : BitVec 512) : (c.setM r x).issuedAt = c.issuedAt := by unfold Ctx.setM; split <;> rfl
@[simp] theorem ctx_cvtSrc_setM (c : Ctx) (r : BitVec 3) (x : BitVec 512) : (c.setM r x).cvtSrc = c.cvtSrc := by unfold Ctx.setM; split <;> rfl
@[simp] theorem ctx_leftRows_setM (c : Ctx) (r : BitVec 3) (x : BitVec 512) : (c.setM r x).leftRows = c.leftRows := by unfold Ctx.setM; split <;> rfl
@[simp] theorem ctx_stepFx_setM (c : Ctx) (r : BitVec 3) (x : BitVec 512) : (c.setM r x).stepFx = c.stepFx := by unfold Ctx.setM; split <;> rfl
@[simp] theorem ctx_parked_setM (c : Ctx) (r : BitVec 3) (x : BitVec 512) : (c.setM r x).parked = c.parked := by unfold Ctx.setM; split <;> rfl
@[simp] theorem ctx_g_setVreg (c : Ctx) (r : Nat) (x : BitVec 4096) : (c.setVreg r x).g = c.g := rfl
@[simp] theorem ctx_fill_setVreg (c : Ctx) (r : Nat) (x : BitVec 4096) : (c.setVreg r x).fill = c.fill := rfl
@[simp] theorem ctx_m_setVreg (c : Ctx) (r : Nat) (x : BitVec 4096) : (c.setVreg r x).m = c.m := rfl
@[simp] theorem ctx_pc_setVreg (c : Ctx) (r : Nat) (x : BitVec 4096) : (c.setVreg r x).pc = c.pc := rfl
@[simp] theorem ctx_vl_setVreg (c : Ctx) (r : Nat) (x : BitVec 4096) : (c.setVreg r x).vl = c.vl := rfl
@[simp] theorem ctx_vtype_setVreg (c : Ctx) (r : Nat) (x : BitVec 4096) : (c.setVreg r x).vtype = c.vtype := rfl
@[simp] theorem ctx_vstart_setVreg (c : Ctx) (r : Nat) (x : BitVec 4096) : (c.setVreg r x).vstart = c.vstart := rfl
@[simp] theorem ctx_fcsr_setVreg (c : Ctx) (r : Nat) (x : BitVec 4096) : (c.setVreg r x).fcsr = c.fcsr := rfl
@[simp] theorem ctx_status_setVreg (c : Ctx) (r : Nat) (x : BitVec 4096) : (c.setVreg r x).status = c.status := rfl
@[simp] theorem ctx_tstat_setVreg (c : Ctx) (r : Nat) (x : BitVec 4096) : (c.setVreg r x).tstat = c.tstat := rfl
@[simp] theorem ctx_tcause_setVreg (c : Ctx) (r : Nat) (x : BitVec 4096) : (c.setVreg r x).tcause = c.tcause := rfl
@[simp] theorem ctx_tpc_setVreg (c : Ctx) (r : Nat) (x : BitVec 4096) : (c.setVreg r x).tpc = c.tpc := rfl
@[simp] theorem ctx_tval_setVreg (c : Ctx) (r : Nat) (x : BitVec 4096) : (c.setVreg r x).tval = c.tval := rfl
@[simp] theorem ctx_tframe_setVreg (c : Ctx) (r : Nat) (x : BitVec 4096) : (c.setVreg r x).tframe = c.tframe := rfl
@[simp] theorem ctx_yreq_setVreg (c : Ctx) (r : Nat) (x : BitVec 4096) : (c.setVreg r x).yreq = c.yreq := rfl
@[simp] theorem ctx_cancel_setVreg (c : Ctx) (r : Nat) (x : BitVec 4096) : (c.setVreg r x).cancel = c.cancel := rfl
@[simp] theorem ctx_tenant_setVreg (c : Ctx) (r : Nat) (x : BitVec 4096) : (c.setVreg r x).tenant = c.tenant := rfl
@[simp] theorem ctx_quota_setVreg (c : Ctx) (r : Nat) (x : BitVec 4096) : (c.setVreg r x).quota = c.quota := rfl
@[simp] theorem ctx_lim1_setVreg (c : Ctx) (r : Nat) (x : BitVec 4096) : (c.setVreg r x).lim1 = c.lim1 := rfl
@[simp] theorem ctx_lim2_setVreg (c : Ctx) (r : Nat) (x : BitVec 4096) : (c.setVreg r x).lim2 = c.lim2 := rfl
@[simp] theorem ctx_slots_setVreg (c : Ctx) (r : Nat) (x : BitVec 4096) : (c.setVreg r x).slots = c.slots := rfl
@[simp] theorem ctx_vrt_setVreg (c : Ctx) (r : Nat) (x : BitVec 4096) : (c.setVreg r x).vrt = c.vrt := rfl
@[simp] theorem ctx_ld_setVreg (c : Ctx) (r : Nat) (x : BitVec 4096) : (c.setVreg r x).ld = c.ld := rfl
@[simp] theorem ctx_st_setVreg (c : Ctx) (r : Nat) (x : BitVec 4096) : (c.setVreg r x).st = c.st := rfl
@[simp] theorem ctx_cp_setVreg (c : Ctx) (r : Nat) (x : BitVec 4096) : (c.setVreg r x).cp = c.cp := rfl
@[simp] theorem ctx_mx_setVreg (c : Ctx) (r : Nat) (x : BitVec 4096) : (c.setVreg r x).mx = c.mx := rfl
@[simp] theorem ctx_fx_setVreg (c : Ctx) (r : Nat) (x : BitVec 4096) : (c.setVreg r x).fx = c.fx := rfl
@[simp] theorem ctx_seq_setVreg (c : Ctx) (r : Nat) (x : BitVec 4096) : (c.setVreg r x).seq = c.seq := rfl
@[simp] theorem ctx_run_setVreg (c : Ctx) (r : Nat) (x : BitVec 4096) : (c.setVreg r x).run = c.run := rfl
@[simp] theorem ctx_waiting_setVreg (c : Ctx) (r : Nat) (x : BitVec 4096) : (c.setVreg r x).waiting = c.waiting := rfl
@[simp] theorem ctx_pushWait_setVreg (c : Ctx) (r : Nat) (x : BitVec 4096) : (c.setVreg r x).pushWait = c.pushWait := rfl
@[simp] theorem ctx_wfi_setVreg (c : Ctx) (r : Nat) (x : BitVec 4096) : (c.setVreg r x).wfi = c.wfi := rfl
@[simp] theorem ctx_wake_setVreg (c : Ctx) (r : Nat) (x : BitVec 4096) : (c.setVreg r x).wake = c.wake := rfl
@[simp] theorem ctx_inst_setVreg (c : Ctx) (r : Nat) (x : BitVec 4096) : (c.setVreg r x).inst = c.inst := rfl
@[simp] theorem ctx_pendTrap_setVreg (c : Ctx) (r : Nat) (x : BitVec 4096) : (c.setVreg r x).pendTrap = c.pendTrap := rfl
@[simp] theorem ctx_fabStop_setVreg (c : Ctx) (r : Nat) (x : BitVec 4096) : (c.setVreg r x).fabStop = c.fabStop := rfl
@[simp] theorem ctx_declined_setVreg (c : Ctx) (r : Nat) (x : BitVec 4096) : (c.setVreg r x).declined = c.declined := rfl
@[simp] theorem ctx_preempt_setVreg (c : Ctx) (r : Nat) (x : BitVec 4096) : (c.setVreg r x).preempt = c.preempt := rfl
@[simp] theorem ctx_board_setVreg (c : Ctx) (r : Nat) (x : BitVec 4096) : (c.setVreg r x).board = c.board := rfl
@[simp] theorem ctx_inv_setVreg (c : Ctx) (r : Nat) (x : BitVec 4096) : (c.setVreg r x).inv = c.inv := rfl
@[simp] theorem ctx_mxJobs_setVreg (c : Ctx) (r : Nat) (x : BitVec 4096) : (c.setVreg r x).mxJobs = c.mxJobs := rfl
@[simp] theorem ctx_mxWait_setVreg (c : Ctx) (r : Nat) (x : BitVec 4096) : (c.setVreg r x).mxWait = c.mxWait := rfl
@[simp] theorem ctx_xfers_setVreg (c : Ctx) (r : Nat) (x : BitVec 4096) : (c.setVreg r x).xfers = c.xfers := rfl
@[simp] theorem ctx_issued_setVreg (c : Ctx) (r : Nat) (x : BitVec 4096) : (c.setVreg r x).issued = c.issued := rfl
@[simp] theorem ctx_groups_setVreg (c : Ctx) (r : Nat) (x : BitVec 4096) : (c.setVreg r x).groups = c.groups := rfl
@[simp] theorem ctx_lchk_setVreg (c : Ctx) (r : Nat) (x : BitVec 4096) : (c.setVreg r x).lchk = c.lchk := rfl
@[simp] theorem ctx_resumed_setVreg (c : Ctx) (r : Nat) (x : BitVec 4096) : (c.setVreg r x).resumed = c.resumed := rfl
@[simp] theorem ctx_issuedAt_setVreg (c : Ctx) (r : Nat) (x : BitVec 4096) : (c.setVreg r x).issuedAt = c.issuedAt := rfl
@[simp] theorem ctx_cvtSrc_setVreg (c : Ctx) (r : Nat) (x : BitVec 4096) : (c.setVreg r x).cvtSrc = c.cvtSrc := rfl
@[simp] theorem ctx_leftRows_setVreg (c : Ctx) (r : Nat) (x : BitVec 4096) : (c.setVreg r x).leftRows = c.leftRows := rfl
@[simp] theorem ctx_stepFx_setVreg (c : Ctx) (r : Nat) (x : BitVec 4096) : (c.setVreg r x).stepFx = c.stepFx := rfl
@[simp] theorem ctx_parked_setVreg (c : Ctx) (r : Nat) (x : BitVec 4096) : (c.setVreg r x).parked = c.parked := rfl
@[simp] theorem ctx_g_setEl (c : Ctx) (ew d i v : Nat) : (c.setEl ew d i v).g = c.g := rfl
@[simp] theorem ctx_fill_setEl (c : Ctx) (ew d i v : Nat) : (c.setEl ew d i v).fill = c.fill := rfl
@[simp] theorem ctx_m_setEl (c : Ctx) (ew d i v : Nat) : (c.setEl ew d i v).m = c.m := rfl
@[simp] theorem ctx_pc_setEl (c : Ctx) (ew d i v : Nat) : (c.setEl ew d i v).pc = c.pc := rfl
@[simp] theorem ctx_vl_setEl (c : Ctx) (ew d i v : Nat) : (c.setEl ew d i v).vl = c.vl := rfl
@[simp] theorem ctx_vtype_setEl (c : Ctx) (ew d i v : Nat) : (c.setEl ew d i v).vtype = c.vtype := rfl
@[simp] theorem ctx_vstart_setEl (c : Ctx) (ew d i v : Nat) : (c.setEl ew d i v).vstart = c.vstart := rfl
@[simp] theorem ctx_fcsr_setEl (c : Ctx) (ew d i v : Nat) : (c.setEl ew d i v).fcsr = c.fcsr := rfl
@[simp] theorem ctx_status_setEl (c : Ctx) (ew d i v : Nat) : (c.setEl ew d i v).status = c.status := rfl
@[simp] theorem ctx_tstat_setEl (c : Ctx) (ew d i v : Nat) : (c.setEl ew d i v).tstat = c.tstat := rfl
@[simp] theorem ctx_tcause_setEl (c : Ctx) (ew d i v : Nat) : (c.setEl ew d i v).tcause = c.tcause := rfl
@[simp] theorem ctx_tpc_setEl (c : Ctx) (ew d i v : Nat) : (c.setEl ew d i v).tpc = c.tpc := rfl
@[simp] theorem ctx_tval_setEl (c : Ctx) (ew d i v : Nat) : (c.setEl ew d i v).tval = c.tval := rfl
@[simp] theorem ctx_tframe_setEl (c : Ctx) (ew d i v : Nat) : (c.setEl ew d i v).tframe = c.tframe := rfl
@[simp] theorem ctx_yreq_setEl (c : Ctx) (ew d i v : Nat) : (c.setEl ew d i v).yreq = c.yreq := rfl
@[simp] theorem ctx_cancel_setEl (c : Ctx) (ew d i v : Nat) : (c.setEl ew d i v).cancel = c.cancel := rfl
@[simp] theorem ctx_tenant_setEl (c : Ctx) (ew d i v : Nat) : (c.setEl ew d i v).tenant = c.tenant := rfl
@[simp] theorem ctx_quota_setEl (c : Ctx) (ew d i v : Nat) : (c.setEl ew d i v).quota = c.quota := rfl
@[simp] theorem ctx_lim1_setEl (c : Ctx) (ew d i v : Nat) : (c.setEl ew d i v).lim1 = c.lim1 := rfl
@[simp] theorem ctx_lim2_setEl (c : Ctx) (ew d i v : Nat) : (c.setEl ew d i v).lim2 = c.lim2 := rfl
@[simp] theorem ctx_slots_setEl (c : Ctx) (ew d i v : Nat) : (c.setEl ew d i v).slots = c.slots := rfl
@[simp] theorem ctx_vrt_setEl (c : Ctx) (ew d i v : Nat) : (c.setEl ew d i v).vrt = c.vrt := rfl
@[simp] theorem ctx_ld_setEl (c : Ctx) (ew d i v : Nat) : (c.setEl ew d i v).ld = c.ld := rfl
@[simp] theorem ctx_st_setEl (c : Ctx) (ew d i v : Nat) : (c.setEl ew d i v).st = c.st := rfl
@[simp] theorem ctx_cp_setEl (c : Ctx) (ew d i v : Nat) : (c.setEl ew d i v).cp = c.cp := rfl
@[simp] theorem ctx_mx_setEl (c : Ctx) (ew d i v : Nat) : (c.setEl ew d i v).mx = c.mx := rfl
@[simp] theorem ctx_fx_setEl (c : Ctx) (ew d i v : Nat) : (c.setEl ew d i v).fx = c.fx := rfl
@[simp] theorem ctx_seq_setEl (c : Ctx) (ew d i v : Nat) : (c.setEl ew d i v).seq = c.seq := rfl
@[simp] theorem ctx_run_setEl (c : Ctx) (ew d i v : Nat) : (c.setEl ew d i v).run = c.run := rfl
@[simp] theorem ctx_waiting_setEl (c : Ctx) (ew d i v : Nat) : (c.setEl ew d i v).waiting = c.waiting := rfl
@[simp] theorem ctx_pushWait_setEl (c : Ctx) (ew d i v : Nat) : (c.setEl ew d i v).pushWait = c.pushWait := rfl
@[simp] theorem ctx_wfi_setEl (c : Ctx) (ew d i v : Nat) : (c.setEl ew d i v).wfi = c.wfi := rfl
@[simp] theorem ctx_wake_setEl (c : Ctx) (ew d i v : Nat) : (c.setEl ew d i v).wake = c.wake := rfl
@[simp] theorem ctx_inst_setEl (c : Ctx) (ew d i v : Nat) : (c.setEl ew d i v).inst = c.inst := rfl
@[simp] theorem ctx_pendTrap_setEl (c : Ctx) (ew d i v : Nat) : (c.setEl ew d i v).pendTrap = c.pendTrap := rfl
@[simp] theorem ctx_fabStop_setEl (c : Ctx) (ew d i v : Nat) : (c.setEl ew d i v).fabStop = c.fabStop := rfl
@[simp] theorem ctx_declined_setEl (c : Ctx) (ew d i v : Nat) : (c.setEl ew d i v).declined = c.declined := rfl
@[simp] theorem ctx_preempt_setEl (c : Ctx) (ew d i v : Nat) : (c.setEl ew d i v).preempt = c.preempt := rfl
@[simp] theorem ctx_board_setEl (c : Ctx) (ew d i v : Nat) : (c.setEl ew d i v).board = c.board := rfl
@[simp] theorem ctx_inv_setEl (c : Ctx) (ew d i v : Nat) : (c.setEl ew d i v).inv = c.inv := rfl
@[simp] theorem ctx_mxJobs_setEl (c : Ctx) (ew d i v : Nat) : (c.setEl ew d i v).mxJobs = c.mxJobs := rfl
@[simp] theorem ctx_mxWait_setEl (c : Ctx) (ew d i v : Nat) : (c.setEl ew d i v).mxWait = c.mxWait := rfl
@[simp] theorem ctx_xfers_setEl (c : Ctx) (ew d i v : Nat) : (c.setEl ew d i v).xfers = c.xfers := rfl
@[simp] theorem ctx_issued_setEl (c : Ctx) (ew d i v : Nat) : (c.setEl ew d i v).issued = c.issued := rfl
@[simp] theorem ctx_groups_setEl (c : Ctx) (ew d i v : Nat) : (c.setEl ew d i v).groups = c.groups := rfl
@[simp] theorem ctx_lchk_setEl (c : Ctx) (ew d i v : Nat) : (c.setEl ew d i v).lchk = c.lchk := rfl
@[simp] theorem ctx_resumed_setEl (c : Ctx) (ew d i v : Nat) : (c.setEl ew d i v).resumed = c.resumed := rfl
@[simp] theorem ctx_issuedAt_setEl (c : Ctx) (ew d i v : Nat) : (c.setEl ew d i v).issuedAt = c.issuedAt := rfl
@[simp] theorem ctx_cvtSrc_setEl (c : Ctx) (ew d i v : Nat) : (c.setEl ew d i v).cvtSrc = c.cvtSrc := rfl
@[simp] theorem ctx_leftRows_setEl (c : Ctx) (ew d i v : Nat) : (c.setEl ew d i v).leftRows = c.leftRows := rfl
@[simp] theorem ctx_stepFx_setEl (c : Ctx) (ew d i v : Nat) : (c.setEl ew d i v).stepFx = c.stepFx := rfl
@[simp] theorem ctx_parked_setEl (c : Ctx) (ew d i v : Nat) : (c.setEl ew d i v).parked = c.parked := rfl
@[simp] theorem ctx_g_setFill (c : Ctx) (r x : Nat) : (c.setFill r x).g = c.g := rfl
@[simp] theorem ctx_v_setFill (c : Ctx) (r x : Nat) : (c.setFill r x).v = c.v := rfl
@[simp] theorem ctx_m_setFill (c : Ctx) (r x : Nat) : (c.setFill r x).m = c.m := rfl
@[simp] theorem ctx_pc_setFill (c : Ctx) (r x : Nat) : (c.setFill r x).pc = c.pc := rfl
@[simp] theorem ctx_vl_setFill (c : Ctx) (r x : Nat) : (c.setFill r x).vl = c.vl := rfl
@[simp] theorem ctx_vtype_setFill (c : Ctx) (r x : Nat) : (c.setFill r x).vtype = c.vtype := rfl
@[simp] theorem ctx_vstart_setFill (c : Ctx) (r x : Nat) : (c.setFill r x).vstart = c.vstart := rfl
@[simp] theorem ctx_fcsr_setFill (c : Ctx) (r x : Nat) : (c.setFill r x).fcsr = c.fcsr := rfl
@[simp] theorem ctx_status_setFill (c : Ctx) (r x : Nat) : (c.setFill r x).status = c.status := rfl
@[simp] theorem ctx_tstat_setFill (c : Ctx) (r x : Nat) : (c.setFill r x).tstat = c.tstat := rfl
@[simp] theorem ctx_tcause_setFill (c : Ctx) (r x : Nat) : (c.setFill r x).tcause = c.tcause := rfl
@[simp] theorem ctx_tpc_setFill (c : Ctx) (r x : Nat) : (c.setFill r x).tpc = c.tpc := rfl
@[simp] theorem ctx_tval_setFill (c : Ctx) (r x : Nat) : (c.setFill r x).tval = c.tval := rfl
@[simp] theorem ctx_tframe_setFill (c : Ctx) (r x : Nat) : (c.setFill r x).tframe = c.tframe := rfl
@[simp] theorem ctx_yreq_setFill (c : Ctx) (r x : Nat) : (c.setFill r x).yreq = c.yreq := rfl
@[simp] theorem ctx_cancel_setFill (c : Ctx) (r x : Nat) : (c.setFill r x).cancel = c.cancel := rfl
@[simp] theorem ctx_tenant_setFill (c : Ctx) (r x : Nat) : (c.setFill r x).tenant = c.tenant := rfl
@[simp] theorem ctx_quota_setFill (c : Ctx) (r x : Nat) : (c.setFill r x).quota = c.quota := rfl
@[simp] theorem ctx_lim1_setFill (c : Ctx) (r x : Nat) : (c.setFill r x).lim1 = c.lim1 := rfl
@[simp] theorem ctx_lim2_setFill (c : Ctx) (r x : Nat) : (c.setFill r x).lim2 = c.lim2 := rfl
@[simp] theorem ctx_slots_setFill (c : Ctx) (r x : Nat) : (c.setFill r x).slots = c.slots := rfl
@[simp] theorem ctx_vrt_setFill (c : Ctx) (r x : Nat) : (c.setFill r x).vrt = c.vrt := rfl
@[simp] theorem ctx_ld_setFill (c : Ctx) (r x : Nat) : (c.setFill r x).ld = c.ld := rfl
@[simp] theorem ctx_st_setFill (c : Ctx) (r x : Nat) : (c.setFill r x).st = c.st := rfl
@[simp] theorem ctx_cp_setFill (c : Ctx) (r x : Nat) : (c.setFill r x).cp = c.cp := rfl
@[simp] theorem ctx_mx_setFill (c : Ctx) (r x : Nat) : (c.setFill r x).mx = c.mx := rfl
@[simp] theorem ctx_fx_setFill (c : Ctx) (r x : Nat) : (c.setFill r x).fx = c.fx := rfl
@[simp] theorem ctx_seq_setFill (c : Ctx) (r x : Nat) : (c.setFill r x).seq = c.seq := rfl
@[simp] theorem ctx_run_setFill (c : Ctx) (r x : Nat) : (c.setFill r x).run = c.run := rfl
@[simp] theorem ctx_waiting_setFill (c : Ctx) (r x : Nat) : (c.setFill r x).waiting = c.waiting := rfl
@[simp] theorem ctx_pushWait_setFill (c : Ctx) (r x : Nat) : (c.setFill r x).pushWait = c.pushWait := rfl
@[simp] theorem ctx_wfi_setFill (c : Ctx) (r x : Nat) : (c.setFill r x).wfi = c.wfi := rfl
@[simp] theorem ctx_wake_setFill (c : Ctx) (r x : Nat) : (c.setFill r x).wake = c.wake := rfl
@[simp] theorem ctx_inst_setFill (c : Ctx) (r x : Nat) : (c.setFill r x).inst = c.inst := rfl
@[simp] theorem ctx_pendTrap_setFill (c : Ctx) (r x : Nat) : (c.setFill r x).pendTrap = c.pendTrap := rfl
@[simp] theorem ctx_fabStop_setFill (c : Ctx) (r x : Nat) : (c.setFill r x).fabStop = c.fabStop := rfl
@[simp] theorem ctx_declined_setFill (c : Ctx) (r x : Nat) : (c.setFill r x).declined = c.declined := rfl
@[simp] theorem ctx_preempt_setFill (c : Ctx) (r x : Nat) : (c.setFill r x).preempt = c.preempt := rfl
@[simp] theorem ctx_board_setFill (c : Ctx) (r x : Nat) : (c.setFill r x).board = c.board := rfl
@[simp] theorem ctx_inv_setFill (c : Ctx) (r x : Nat) : (c.setFill r x).inv = c.inv := rfl
@[simp] theorem ctx_mxJobs_setFill (c : Ctx) (r x : Nat) : (c.setFill r x).mxJobs = c.mxJobs := rfl
@[simp] theorem ctx_mxWait_setFill (c : Ctx) (r x : Nat) : (c.setFill r x).mxWait = c.mxWait := rfl
@[simp] theorem ctx_xfers_setFill (c : Ctx) (r x : Nat) : (c.setFill r x).xfers = c.xfers := rfl
@[simp] theorem ctx_issued_setFill (c : Ctx) (r x : Nat) : (c.setFill r x).issued = c.issued := rfl
@[simp] theorem ctx_groups_setFill (c : Ctx) (r x : Nat) : (c.setFill r x).groups = c.groups := rfl
@[simp] theorem ctx_lchk_setFill (c : Ctx) (r x : Nat) : (c.setFill r x).lchk = c.lchk := rfl
@[simp] theorem ctx_resumed_setFill (c : Ctx) (r x : Nat) : (c.setFill r x).resumed = c.resumed := rfl
@[simp] theorem ctx_issuedAt_setFill (c : Ctx) (r x : Nat) : (c.setFill r x).issuedAt = c.issuedAt := rfl
@[simp] theorem ctx_cvtSrc_setFill (c : Ctx) (r x : Nat) : (c.setFill r x).cvtSrc = c.cvtSrc := rfl
@[simp] theorem ctx_leftRows_setFill (c : Ctx) (r x : Nat) : (c.setFill r x).leftRows = c.leftRows := rfl
@[simp] theorem ctx_stepFx_setFill (c : Ctx) (r x : Nat) : (c.setFill r x).stepFx = c.stepFx := rfl
@[simp] theorem ctx_parked_setFill (c : Ctx) (r x : Nat) : (c.setFill r x).parked = c.parked := rfl
@[simp] theorem ctx_g_raiseFlags (c : Ctx) (f : BitVec 5) : (c.raiseFlags f).g = c.g := rfl
@[simp] theorem ctx_v_raiseFlags (c : Ctx) (f : BitVec 5) : (c.raiseFlags f).v = c.v := rfl
@[simp] theorem ctx_fill_raiseFlags (c : Ctx) (f : BitVec 5) : (c.raiseFlags f).fill = c.fill := rfl
@[simp] theorem ctx_m_raiseFlags (c : Ctx) (f : BitVec 5) : (c.raiseFlags f).m = c.m := rfl
@[simp] theorem ctx_pc_raiseFlags (c : Ctx) (f : BitVec 5) : (c.raiseFlags f).pc = c.pc := rfl
@[simp] theorem ctx_vl_raiseFlags (c : Ctx) (f : BitVec 5) : (c.raiseFlags f).vl = c.vl := rfl
@[simp] theorem ctx_vtype_raiseFlags (c : Ctx) (f : BitVec 5) : (c.raiseFlags f).vtype = c.vtype := rfl
@[simp] theorem ctx_vstart_raiseFlags (c : Ctx) (f : BitVec 5) : (c.raiseFlags f).vstart = c.vstart := rfl
@[simp] theorem ctx_status_raiseFlags (c : Ctx) (f : BitVec 5) : (c.raiseFlags f).status = c.status := rfl
@[simp] theorem ctx_tstat_raiseFlags (c : Ctx) (f : BitVec 5) : (c.raiseFlags f).tstat = c.tstat := rfl
@[simp] theorem ctx_tcause_raiseFlags (c : Ctx) (f : BitVec 5) : (c.raiseFlags f).tcause = c.tcause := rfl
@[simp] theorem ctx_tpc_raiseFlags (c : Ctx) (f : BitVec 5) : (c.raiseFlags f).tpc = c.tpc := rfl
@[simp] theorem ctx_tval_raiseFlags (c : Ctx) (f : BitVec 5) : (c.raiseFlags f).tval = c.tval := rfl
@[simp] theorem ctx_tframe_raiseFlags (c : Ctx) (f : BitVec 5) : (c.raiseFlags f).tframe = c.tframe := rfl
@[simp] theorem ctx_yreq_raiseFlags (c : Ctx) (f : BitVec 5) : (c.raiseFlags f).yreq = c.yreq := rfl
@[simp] theorem ctx_cancel_raiseFlags (c : Ctx) (f : BitVec 5) : (c.raiseFlags f).cancel = c.cancel := rfl
@[simp] theorem ctx_tenant_raiseFlags (c : Ctx) (f : BitVec 5) : (c.raiseFlags f).tenant = c.tenant := rfl
@[simp] theorem ctx_quota_raiseFlags (c : Ctx) (f : BitVec 5) : (c.raiseFlags f).quota = c.quota := rfl
@[simp] theorem ctx_lim1_raiseFlags (c : Ctx) (f : BitVec 5) : (c.raiseFlags f).lim1 = c.lim1 := rfl
@[simp] theorem ctx_lim2_raiseFlags (c : Ctx) (f : BitVec 5) : (c.raiseFlags f).lim2 = c.lim2 := rfl
@[simp] theorem ctx_slots_raiseFlags (c : Ctx) (f : BitVec 5) : (c.raiseFlags f).slots = c.slots := rfl
@[simp] theorem ctx_vrt_raiseFlags (c : Ctx) (f : BitVec 5) : (c.raiseFlags f).vrt = c.vrt := rfl
@[simp] theorem ctx_ld_raiseFlags (c : Ctx) (f : BitVec 5) : (c.raiseFlags f).ld = c.ld := rfl
@[simp] theorem ctx_st_raiseFlags (c : Ctx) (f : BitVec 5) : (c.raiseFlags f).st = c.st := rfl
@[simp] theorem ctx_cp_raiseFlags (c : Ctx) (f : BitVec 5) : (c.raiseFlags f).cp = c.cp := rfl
@[simp] theorem ctx_mx_raiseFlags (c : Ctx) (f : BitVec 5) : (c.raiseFlags f).mx = c.mx := rfl
@[simp] theorem ctx_fx_raiseFlags (c : Ctx) (f : BitVec 5) : (c.raiseFlags f).fx = c.fx := rfl
@[simp] theorem ctx_seq_raiseFlags (c : Ctx) (f : BitVec 5) : (c.raiseFlags f).seq = c.seq := rfl
@[simp] theorem ctx_run_raiseFlags (c : Ctx) (f : BitVec 5) : (c.raiseFlags f).run = c.run := rfl
@[simp] theorem ctx_waiting_raiseFlags (c : Ctx) (f : BitVec 5) : (c.raiseFlags f).waiting = c.waiting := rfl
@[simp] theorem ctx_pushWait_raiseFlags (c : Ctx) (f : BitVec 5) : (c.raiseFlags f).pushWait = c.pushWait := rfl
@[simp] theorem ctx_wfi_raiseFlags (c : Ctx) (f : BitVec 5) : (c.raiseFlags f).wfi = c.wfi := rfl
@[simp] theorem ctx_wake_raiseFlags (c : Ctx) (f : BitVec 5) : (c.raiseFlags f).wake = c.wake := rfl
@[simp] theorem ctx_inst_raiseFlags (c : Ctx) (f : BitVec 5) : (c.raiseFlags f).inst = c.inst := rfl
@[simp] theorem ctx_pendTrap_raiseFlags (c : Ctx) (f : BitVec 5) : (c.raiseFlags f).pendTrap = c.pendTrap := rfl
@[simp] theorem ctx_fabStop_raiseFlags (c : Ctx) (f : BitVec 5) : (c.raiseFlags f).fabStop = c.fabStop := rfl
@[simp] theorem ctx_declined_raiseFlags (c : Ctx) (f : BitVec 5) : (c.raiseFlags f).declined = c.declined := rfl
@[simp] theorem ctx_preempt_raiseFlags (c : Ctx) (f : BitVec 5) : (c.raiseFlags f).preempt = c.preempt := rfl
@[simp] theorem ctx_board_raiseFlags (c : Ctx) (f : BitVec 5) : (c.raiseFlags f).board = c.board := rfl
@[simp] theorem ctx_inv_raiseFlags (c : Ctx) (f : BitVec 5) : (c.raiseFlags f).inv = c.inv := rfl
@[simp] theorem ctx_mxJobs_raiseFlags (c : Ctx) (f : BitVec 5) : (c.raiseFlags f).mxJobs = c.mxJobs := rfl
@[simp] theorem ctx_mxWait_raiseFlags (c : Ctx) (f : BitVec 5) : (c.raiseFlags f).mxWait = c.mxWait := rfl
@[simp] theorem ctx_xfers_raiseFlags (c : Ctx) (f : BitVec 5) : (c.raiseFlags f).xfers = c.xfers := rfl
@[simp] theorem ctx_issued_raiseFlags (c : Ctx) (f : BitVec 5) : (c.raiseFlags f).issued = c.issued := rfl
@[simp] theorem ctx_groups_raiseFlags (c : Ctx) (f : BitVec 5) : (c.raiseFlags f).groups = c.groups := rfl
@[simp] theorem ctx_lchk_raiseFlags (c : Ctx) (f : BitVec 5) : (c.raiseFlags f).lchk = c.lchk := rfl
@[simp] theorem ctx_resumed_raiseFlags (c : Ctx) (f : BitVec 5) : (c.raiseFlags f).resumed = c.resumed := rfl
@[simp] theorem ctx_issuedAt_raiseFlags (c : Ctx) (f : BitVec 5) : (c.raiseFlags f).issuedAt = c.issuedAt := rfl
@[simp] theorem ctx_cvtSrc_raiseFlags (c : Ctx) (f : BitVec 5) : (c.raiseFlags f).cvtSrc = c.cvtSrc := rfl
@[simp] theorem ctx_leftRows_raiseFlags (c : Ctx) (f : BitVec 5) : (c.raiseFlags f).leftRows = c.leftRows := rfl
@[simp] theorem ctx_stepFx_raiseFlags (c : Ctx) (f : BitVec 5) : (c.raiseFlags f).stepFx = c.stepFx := rfl
@[simp] theorem ctx_parked_raiseFlags (c : Ctx) (f : BitVec 5) : (c.raiseFlags f).parked = c.parked := rfl
@[simp] theorem ctx_g_setTxa (c : Ctx) (b : Bool) : (c.setTxa b).g = c.g := rfl
@[simp] theorem ctx_v_setTxa (c : Ctx) (b : Bool) : (c.setTxa b).v = c.v := rfl
@[simp] theorem ctx_fill_setTxa (c : Ctx) (b : Bool) : (c.setTxa b).fill = c.fill := rfl
@[simp] theorem ctx_m_setTxa (c : Ctx) (b : Bool) : (c.setTxa b).m = c.m := rfl
@[simp] theorem ctx_pc_setTxa (c : Ctx) (b : Bool) : (c.setTxa b).pc = c.pc := rfl
@[simp] theorem ctx_vl_setTxa (c : Ctx) (b : Bool) : (c.setTxa b).vl = c.vl := rfl
@[simp] theorem ctx_vtype_setTxa (c : Ctx) (b : Bool) : (c.setTxa b).vtype = c.vtype := rfl
@[simp] theorem ctx_vstart_setTxa (c : Ctx) (b : Bool) : (c.setTxa b).vstart = c.vstart := rfl
@[simp] theorem ctx_fcsr_setTxa (c : Ctx) (b : Bool) : (c.setTxa b).fcsr = c.fcsr := rfl
@[simp] theorem ctx_tstat_setTxa (c : Ctx) (b : Bool) : (c.setTxa b).tstat = c.tstat := rfl
@[simp] theorem ctx_tcause_setTxa (c : Ctx) (b : Bool) : (c.setTxa b).tcause = c.tcause := rfl
@[simp] theorem ctx_tpc_setTxa (c : Ctx) (b : Bool) : (c.setTxa b).tpc = c.tpc := rfl
@[simp] theorem ctx_tval_setTxa (c : Ctx) (b : Bool) : (c.setTxa b).tval = c.tval := rfl
@[simp] theorem ctx_tframe_setTxa (c : Ctx) (b : Bool) : (c.setTxa b).tframe = c.tframe := rfl
@[simp] theorem ctx_yreq_setTxa (c : Ctx) (b : Bool) : (c.setTxa b).yreq = c.yreq := rfl
@[simp] theorem ctx_cancel_setTxa (c : Ctx) (b : Bool) : (c.setTxa b).cancel = c.cancel := rfl
@[simp] theorem ctx_tenant_setTxa (c : Ctx) (b : Bool) : (c.setTxa b).tenant = c.tenant := rfl
@[simp] theorem ctx_quota_setTxa (c : Ctx) (b : Bool) : (c.setTxa b).quota = c.quota := rfl
@[simp] theorem ctx_lim1_setTxa (c : Ctx) (b : Bool) : (c.setTxa b).lim1 = c.lim1 := rfl
@[simp] theorem ctx_lim2_setTxa (c : Ctx) (b : Bool) : (c.setTxa b).lim2 = c.lim2 := rfl
@[simp] theorem ctx_slots_setTxa (c : Ctx) (b : Bool) : (c.setTxa b).slots = c.slots := rfl
@[simp] theorem ctx_vrt_setTxa (c : Ctx) (b : Bool) : (c.setTxa b).vrt = c.vrt := rfl
@[simp] theorem ctx_ld_setTxa (c : Ctx) (b : Bool) : (c.setTxa b).ld = c.ld := rfl
@[simp] theorem ctx_st_setTxa (c : Ctx) (b : Bool) : (c.setTxa b).st = c.st := rfl
@[simp] theorem ctx_cp_setTxa (c : Ctx) (b : Bool) : (c.setTxa b).cp = c.cp := rfl
@[simp] theorem ctx_mx_setTxa (c : Ctx) (b : Bool) : (c.setTxa b).mx = c.mx := rfl
@[simp] theorem ctx_fx_setTxa (c : Ctx) (b : Bool) : (c.setTxa b).fx = c.fx := rfl
@[simp] theorem ctx_seq_setTxa (c : Ctx) (b : Bool) : (c.setTxa b).seq = c.seq := rfl
@[simp] theorem ctx_run_setTxa (c : Ctx) (b : Bool) : (c.setTxa b).run = c.run := rfl
@[simp] theorem ctx_waiting_setTxa (c : Ctx) (b : Bool) : (c.setTxa b).waiting = c.waiting := rfl
@[simp] theorem ctx_pushWait_setTxa (c : Ctx) (b : Bool) : (c.setTxa b).pushWait = c.pushWait := rfl
@[simp] theorem ctx_wfi_setTxa (c : Ctx) (b : Bool) : (c.setTxa b).wfi = c.wfi := rfl
@[simp] theorem ctx_wake_setTxa (c : Ctx) (b : Bool) : (c.setTxa b).wake = c.wake := rfl
@[simp] theorem ctx_inst_setTxa (c : Ctx) (b : Bool) : (c.setTxa b).inst = c.inst := rfl
@[simp] theorem ctx_pendTrap_setTxa (c : Ctx) (b : Bool) : (c.setTxa b).pendTrap = c.pendTrap := rfl
@[simp] theorem ctx_fabStop_setTxa (c : Ctx) (b : Bool) : (c.setTxa b).fabStop = c.fabStop := rfl
@[simp] theorem ctx_declined_setTxa (c : Ctx) (b : Bool) : (c.setTxa b).declined = c.declined := rfl
@[simp] theorem ctx_preempt_setTxa (c : Ctx) (b : Bool) : (c.setTxa b).preempt = c.preempt := rfl
@[simp] theorem ctx_board_setTxa (c : Ctx) (b : Bool) : (c.setTxa b).board = c.board := rfl
@[simp] theorem ctx_inv_setTxa (c : Ctx) (b : Bool) : (c.setTxa b).inv = c.inv := rfl
@[simp] theorem ctx_mxJobs_setTxa (c : Ctx) (b : Bool) : (c.setTxa b).mxJobs = c.mxJobs := rfl
@[simp] theorem ctx_mxWait_setTxa (c : Ctx) (b : Bool) : (c.setTxa b).mxWait = c.mxWait := rfl
@[simp] theorem ctx_xfers_setTxa (c : Ctx) (b : Bool) : (c.setTxa b).xfers = c.xfers := rfl
@[simp] theorem ctx_issued_setTxa (c : Ctx) (b : Bool) : (c.setTxa b).issued = c.issued := rfl
@[simp] theorem ctx_groups_setTxa (c : Ctx) (b : Bool) : (c.setTxa b).groups = c.groups := rfl
@[simp] theorem ctx_lchk_setTxa (c : Ctx) (b : Bool) : (c.setTxa b).lchk = c.lchk := rfl
@[simp] theorem ctx_resumed_setTxa (c : Ctx) (b : Bool) : (c.setTxa b).resumed = c.resumed := rfl
@[simp] theorem ctx_issuedAt_setTxa (c : Ctx) (b : Bool) : (c.setTxa b).issuedAt = c.issuedAt := rfl
@[simp] theorem ctx_cvtSrc_setTxa (c : Ctx) (b : Bool) : (c.setTxa b).cvtSrc = c.cvtSrc := rfl
@[simp] theorem ctx_leftRows_setTxa (c : Ctx) (b : Bool) : (c.setTxa b).leftRows = c.leftRows := rfl
@[simp] theorem ctx_stepFx_setTxa (c : Ctx) (b : Bool) : (c.setTxa b).stepFx = c.stepFx := rfl
@[simp] theorem ctx_parked_setTxa (c : Ctx) (b : Bool) : (c.setTxa b).parked = c.parked := rfl

/-! ### General registers (R44) -/

@[simp] theorem G_zero (c : Ctx) : c.G 0#5 = 0 := rfl

@[simp] theorem setG_zero (c : Ctx) (x : Word) : c.setG 0#5 x = c := rfl

theorem G_setG (c : Ctx) {r : BitVec 5} (x : Word) (h : r ≠ 0) : (c.setG r x).G r = x := by
  unfold Ctx.G Ctx.setG
  rw [if_neg h, if_neg h]
  simp

theorem G_setG_ne (c : Ctx) {r q : BitVec 5} (x : Word) (h : q ≠ r) : (c.setG r x).G q = c.G q := by
  have : r.toNat ≠ q.toNat := fun e => h (BitVec.eq_of_toNat_eq e.symm)
  unfold Ctx.G Ctx.setG
  by_cases hr : r = 0
  · rw [if_pos hr]
  · rw [if_neg hr]
    simp [this]

/-! ### Mask registers (R47) -/

theorem M_zero (c : Ctx) : c.M 0 = BitVec.allOnes 512 := rfl

theorem M_setM (c : Ctx) {r : BitVec 3} (x : BitVec 512) (h : r ≠ 0) : (c.setM r x).M r = x := by
  unfold Ctx.M Ctx.setM
  rw [if_neg h, if_neg h]
  simp

theorem M_setM_ne (c : Ctx) {r q : BitVec 3} (x : BitVec 512) (h : q ≠ r) : (c.setM r x).M q = c.M q := by
  have : r.toNat ≠ q.toNat := fun e => h (BitVec.eq_of_toNat_eq e.symm)
  unfold Ctx.M Ctx.setM
  by_cases hr : r = 0
  · rw [if_pos hr]
  · rw [if_neg hr]
    simp [this]

/-! ### How a meaning ends -/

@[simp] theorem finish_ok (s : State) : finish (.ok s) = .next s := rfl

@[simp] theorem finish_trap (s : State) (q : Trap) : finish (.error (.trap s q)) = .next (s.raise s.cur q) := rfl

@[simp] theorem finish_wait (s : State) :
    finish (.error (.wait s)) = .next (s.onMe (fun c => { c with waiting := true })) := rfl

@[simp] theorem finish_abort (s : State) (c tc : Nat) : finish (.error (.abort s c tc)) = .next (s.abortTx s.cur c tc) := rfl

theorem raise_of_no_tx (s : State) (t : Tid) (q : Trap) (h : s.txOf t = none) : s.raise t q = s.takeTrap t q := by
  simp [State.raise, h]

end Sys2Proof.Machine
end

