-- ==== Sys2Proof/Laws/Space.lean ====
section
/-! SUPPORT. What the shared memory operations can do: caches alone change under a read or a write of a line, an access to
free lines passes its gate unchanged, and what a write leaves in memory. -/

namespace Sys2Proof.Machine

open Sys2Proof

/-! ### Only caches change -/

theorem onlyCaches_refl (s : State) : OnlyCaches s s := ⟨rfl, fun _ => rfl⟩

theorem onlyCaches_trans {s t u : State} (h : OnlyCaches s t) (k : OnlyCaches t u) : OnlyCaches s u := by
  refine ⟨?_, fun c => ?_⟩
  · rw [k.1, h.1]
  · rw [k.2 c, h.2 c]

theorem onlyCaches_foldl {α : Type} (f : State → α → State) (hf : ∀ s a, OnlyCaches s (f s a)) (l : List α) :
    ∀ s, OnlyCaches s (l.foldl f s) := by
  induction l with
  | nil => exact onlyCaches_refl
  | cons a l ih => exact fun s => onlyCaches_trans (hf s a) (ih (f s a))

theorem onlyCaches_setDir (s : State) (line : Nat) (e : DirEntry) : OnlyCaches s (s.setDir line e) :=
  ⟨rfl, fun _ => rfl⟩

theorem onlyCaches_onCore (s : State) (c : BitVec 6) (f : Core → Core) (hf : ∀ k, f k = { k with l1 := (f k).l1 }) :
    OnlyCaches s (s.onCore c f) := by
  refine ⟨rfl, fun d => ?_⟩
  by_cases h : d = c
  · subst h
    rw [core_onCore]
    exact hf _
  · rw [core_onCore_ne s f h]

theorem dropLine_l1 (k : Core) (line : Nat) : k.dropLine line = { k with l1 := (k.dropLine line).l1 } := rfl

theorem fillLine_l1 (k : Core) (line : Nat) (m : Bool) (x : Cx) :
    k.fillLine line m x = { k with l1 := (k.fillLine line m x).l1 } := by
  unfold Core.fillLine
  split <;> rfl

theorem onlyCaches_dropFrom (s : State) (line : Nat) (cs : List (BitVec 6)) : OnlyCaches s (s.dropFrom line cs) :=
  onlyCaches_foldl _ (fun s c => onlyCaches_onCore s c _ (fun k => dropLine_l1 k line)) cs s

theorem onlyCaches_readMiss (s : State) (c : BitVec 6) (x : Cx) (line : Nat) : OnlyCaches s (s.readMiss c x line) := by
  unfold State.readMiss
  refine onlyCaches_trans (t := (if (s.dirOf line).st == .owned then _ else s)) ?_
    (onlyCaches_trans (onlyCaches_setDir _ _ _) (onlyCaches_onCore _ _ _ (fun k => fillLine_l1 k _ _ _)))
  split
  · exact onlyCaches_foldl _ (fun s o => onlyCaches_onCore s o _ (fun _ => rfl)) _ s
  · exact onlyCaches_refl s

theorem onlyCaches_takeOwned (s : State) (c : BitVec 6) (x : Cx) (line : Nat) : OnlyCaches s (s.takeOwned c x line) :=
  onlyCaches_trans (onlyCaches_trans (onlyCaches_dropFrom _ _ _) (onlyCaches_setDir _ _ _))
    (onlyCaches_onCore _ _ _ (fun k => fillLine_l1 k _ _ _))

theorem onlyCaches_uncacheLine (s : State) (line : Nat) : OnlyCaches s (s.uncacheLine line) := by
  unfold State.uncacheLine
  dsimp only
  split
  · exact onlyCaches_refl s
  · exact onlyCaches_trans (onlyCaches_dropFrom _ _ _) (onlyCaches_setDir _ _ _)

theorem onlyCaches_l2 (s : State) (t : Tbl L2Line) : OnlyCaches s { s with l2 := t } := ⟨rfl, fun _ => rfl⟩

theorem onlyCaches_giveUp (s : State) (line : Nat) : OnlyCaches s (s.giveUp line) :=
  onlyCaches_trans (onlyCaches_uncacheLine s line) (onlyCaches_l2 _ _)

/-- Room in a slice is made by lines that leave it: only caches change. -/
theorem onlyCaches_makeRoom {s : State} {line : Nat} {pin : Bool} {r : State × Option (Cx × Fin 8)}
    (h : s.makeRoom line pin = some r) : OnlyCaches s r.1 := by
  unfold State.makeRoom at h
  simp only at h
  split at h
  · cases h; exact onlyCaches_refl s
  · split at h
    · cases h; exact onlyCaches_refl s
    · split at h
      · cases h; exact onlyCaches_refl s
      · obtain ⟨p, -, rfl⟩ := Option.map_eq_some_iff.1 h
        exact onlyCaches_giveUp s p.1

theorem onlyCaches_fillL2 (s : State) (t : Tid) (line : Nat) : OnlyCaches s (s.fillL2 t line) := by
  unfold State.fillL2
  split
  · exact onlyCaches_refl s
  · split
    · rename_i h; exact onlyCaches_trans (onlyCaches_makeRoom h) (onlyCaches_l2 _ _)
    · exact onlyCaches_refl s

theorem onlyCaches_touchRead (s : State) (c : BitVec 6) (x : Cx) (unc : Bool) (line : Nat) :
    OnlyCaches s (s.touchRead c x unc line) := by
  unfold State.touchRead
  dsimp only
  split
  · exact onlyCaches_fillL2 _ _ _
  · exact onlyCaches_trans (onlyCaches_fillL2 _ _ _) (onlyCaches_readMiss _ _ _ _)

theorem onlyCaches_touchWrite (s : State) (c : BitVec 6) (x : Cx) (unc : Bool) (line : Nat) :
    OnlyCaches s (s.touchWrite c x unc line) := by
  unfold State.touchWrite
  dsimp only
  have hm (b : Bool) : OnlyCaches s (if b then
      { s with host := { s.host with modified := NatSet.add s.host.modified line } } else s.fillL2 ⟨c, x⟩ line) := by
    cases b
    · exact onlyCaches_fillL2 _ _ _
    · exact ⟨rfl, fun _ => rfl⟩
  split
  · exact onlyCaches_trans (hm _) (onlyCaches_setDir _ _ _)
  · split
    · exact hm _
    · exact onlyCaches_trans (hm _) (onlyCaches_takeOwned _ _ _ _)

theorem onlyCaches_ctx {s t : State} (h : OnlyCaches s t) (u : Tid) : t.ctx u = s.ctx u := by
  unfold State.ctx
  rw [h.2 u.core]
  cases u.cx <;> rfl

theorem onlyCaches_me {s t : State} (h : OnlyCaches s t) : t.me = s.me := by
  have hc : t.cur = s.cur := by rw [h.1]
  unfold State.me
  rw [hc, onlyCaches_ctx h]

/-! ### Gates -/

theorem rivals_of_no_tx {s : State} (h : s.txs = []) (who : Option Tid) (line : Nat) (w : Bool) :
    s.rivals who line w = [] := by
  simp [State.rivals, State.allRivals, h]

theorem txOf_of_no_tx {s : State} (h : s.txs = []) (t : Tid) : s.txOf t = none := by
  simp [State.txOf, h]

theorem abortLater_of_no_tx {s : State} (h : s.txs = []) (who : Option Tid) (w : Bool) (line : Nat) :
    s.abortLater who w line = s := by
  simp [State.abortLater, State.allRivals, h]

theorem foldl_abortLater_of_no_tx {s : State} (h : s.txs = []) (who : Option Tid) (w : Bool) (ls : List Nat) :
    ls.foldl (fun s l => s.abortLater who w l) s = s := by
  induction ls with
  | nil => rfl
  | cons l ls ih => rw [List.foldl_cons, abortLater_of_no_tx h, ih]

/-- A read of free lines by an agent that uses up no answer of a host is not held up. -/
theorem heldUp_free {s : State} (htx : s.txs = []) {ls : List Nat} (h : ∀ l ∈ ls, LineFree s l) : s.heldUp ls = none := by
  unfold State.heldUp
  rw [if_neg]
  intro hc
  obtain ⟨l, hl, hb⟩ := List.any_eq_true.1 hc
  obtain ⟨-, -, h3, h4, h5⟩ := h l hl
  simp [h3, h4, h5, rivals_of_no_tx htx] at hb

/-- A free line passes its gate and changes nothing. -/
theorem gateLine_free {s : State} {line : Nat} (htx : s.txs = []) (h : LineFree s line) (who : Option Tid) (w : Bool) :
    s.gateLine who line w = .pass s := by
  obtain ⟨h1, h2, h3, h4, h5⟩ := h
  unfold State.gateLine State.gateBias
  simp only [h1, rivals_of_no_tx htx, h3, h4, h5]
  cases hp : hostPortOf (line * 128) <;> cases hq : peerPortOf (line * 128) <;> simp_all

theorem gateLines_free {s : State} (htx : s.txs = []) (who : Option Tid) (w : Bool) :
    ∀ ls : List Nat, (∀ l ∈ ls, LineFree s l) → s.gateLines who w ls = .pass s := by
  intro ls
  induction ls with
  | nil => intro _; rfl
  | cons l ls ih =>
    intro h
    unfold State.gateLines
    rw [gateLine_free htx (h l (by simp)) who w]
    exact ih (fun l' hl => h l' (by simp [hl]))

/-- An access to free bytes passes its gate and changes nothing. -/
theorem gate_free {s : State} {pa n : Nat} (h : BytesFree s pa n) (who : Option Tid) (w : Bool) :
    s.gate who pa n w = .pass s := by
  unfold State.gate
  rw [gateLines_free h.1 who w _ h.2]
  exact congrArg _ (foldl_abortLater_of_no_tx h.1 _ _ _)

/-- A free line meets no down link and is not orphaned. -/
theorem linkFault_free {s : State} (htx : s.txs = []) {line : Nat} (h : LineFree s line) : s.linkFault line = none := by
  simp [State.linkFault, gateLine_free htx h]

/-! ### A thread's reads and writes of free bytes outside a transaction -/

/-- A read of free, clean bytes gives them and changes caches alone. -/
theorem lsRead_free {s : State} {pa n : Nat} (h : BytesFree s pa n) (hp : s.poisoned pa n = false) (t : Tid) (va : Word)
    (unc : Bool) :
    ∃ s1, lsRead s t va pa n unc = .ok (s1, s.bytes pa n) ∧ OnlyCaches s s1 := by
  refine ⟨_, ?_, onlyCaches_foldl _ (fun s l => onlyCaches_touchRead s t.core t.cx unc l) (linesOf pa n) s⟩
  simp [lsRead, State.admitLine, State.poisonedFor, txOf_of_no_tx h.1, gate_free h, Gate.toRun, hp, bind, Except.bind]

/-- A write of free bytes changes caches and then memory. -/
theorem lsWrite_free {s : State} {pa : Nat} {bs : List Byte} (h : BytesFree s pa bs.length) (t : Tid) (va : Word)
    (unc : Bool) :
    ∃ s1, lsWrite s t va pa unc bs = .ok (s1.put pa bs) ∧ OnlyCaches s s1 := by
  refine ⟨_, ?_, onlyCaches_foldl _ (fun s l => onlyCaches_touchWrite s t.core t.cx unc l) (linesOf pa bs.length) s⟩
  simp [lsWrite, State.admitLine, txOf_of_no_tx h.1, gate_free h, Gate.toRun, bind, Except.bind]

/-- A write at the home slices changes caches and then memory. -/
theorem homeWrite_caches (s : State) (pa : Nat) (bs : List Byte) :
    ∃ s1, s.homeWrite pa bs = s1.put pa bs ∧ OnlyCaches s s1 := by
  refine ⟨_, rfl, onlyCaches_foldl (fun s l =>
      let s' := s.uncacheLine l
      let e := s'.dirOf l
      let s'' : State := if foreign (l * 128)
        then { s' with host := { s'.host with modified := NatSet.add s'.host.modified l } } else s'
      if e.st == .pipped then s''.setDir l { e with dirty := true } else s'') ?_ (linesOf pa bs.length) s⟩
  intro s l
  have h1 := onlyCaches_uncacheLine s l
  have h2 : OnlyCaches (s.uncacheLine l) (if foreign (l * 128)
      then { s.uncacheLine l with host := { (s.uncacheLine l).host with modified := NatSet.add (s.uncacheLine l).host.modified l } }
      else s.uncacheLine l) := by
    split
    · exact ⟨rfl, fun _ => rfl⟩
    · exact onlyCaches_refl _
  dsimp only
  split
  · exact onlyCaches_trans (onlyCaches_trans h1 h2) (onlyCaches_setDir _ _ _)
  · exact onlyCaches_trans h1 h2

/-- A write of free bytes by another agent changes caches and then memory. -/
theorem agentWrite_free {s : State} {pa : Nat} {bs : List Byte} (h : BytesFree s pa bs.length) :
    ∃ s1, s.agentWrite pa bs = (s1.put pa bs, true) ∧ OnlyCaches s s1 := by
  obtain ⟨s1, h1, h2⟩ := homeWrite_caches s pa bs
  exact ⟨s1, by simp only [State.agentWrite, gate_free h, h1], h2⟩

/-! ### What a write leaves in memory -/

/-- The byte at an address after bytes have been put. -/
theorem byte_put {s : State} (h : Memory.wf memDefault s.mem = true) (pa : Nat) (bs : List Byte) (b : Nat) :
    (s.put pa bs).byte b = if pa ≤ b ∧ b < pa + bs.length then bs.getD (b - pa) 0 else s.byte b :=
  read_writeBytes bs pa b h

theorem put_wf {s : State} (h : Memory.wf memDefault s.mem = true) (pa : Nat) (bs : List Byte) :
    Memory.wf memDefault (s.put pa bs).mem = true := writeBytes_wf bs pa h

@[simp] theorem ctx_put (s : State) (pa : Nat) (bs : List Byte) (u : Tid) : (s.put pa bs).ctx u = s.ctx u := rfl

@[simp] theorem cur_put (s : State) (pa : Nat) (bs : List Byte) : (s.put pa bs).cur = s.cur := rfl

/-- Bytes apart from those that have been put are as before. -/
theorem bytes_put_apart {s : State} (h : Memory.wf memDefault s.mem = true) (pa : Nat) (bs : List Byte) (n : Nat) :
    ∀ q, q + n ≤ pa ∨ pa + bs.length ≤ q → (s.put pa bs).bytes q n = s.bytes q n := by
  induction n with
  | zero => intro q _; rfl
  | succ n ih =>
    intro q hq
    have hb : (s.put pa bs).byte q = s.byte q := by rw [byte_put h, if_neg (by omega)]
    have ht := ih (q + 1) (by omega)
    show Memory.read memDefault _ q :: Memory.readBytes memDefault _ (q + 1) n
      = Memory.read memDefault _ q :: Memory.readBytes memDefault _ (q + 1) n
    rw [show Memory.read memDefault (s.put pa bs).mem q = Memory.read memDefault s.mem q from hb]
    exact congrArg _ ht

theorem num_eq_of_mem {s t : State} (h : t.mem = s.mem) (pa n : Nat) : t.num pa n = s.num pa n := by
  simp [State.num, State.bytes, h]

end Sys2Proof.Machine
end

