-- ==== Sys2Proof/Laws/Safe.lean ====
section
/-! SUPPORT. Safe states are kept: one lemma for each update of the state, for traps, aborts and the end of a meaning, and the
rule that takes a meaning apart. -/

namespace Sys2Proof

open Sys2Proof.Machine

/-! ### The directory's form -/

theorem put_sorted {α : Type} (k : Nat) (x : α) : ∀ t : Tbl α, t.Pairwise (fun p q => p.1 < q.1) →
    (Tbl.put t k x).Pairwise (fun p q => p.1 < q.1) ∧ ∀ p ∈ Tbl.put t k x, p.1 = k ∨ ∃ q ∈ t, p.1 = q.1 := by
  intro t
  induction t with
  | nil => intro _; simp [Tbl.put]
  | cons e t ih =>
    intro h
    obtain ⟨j, y⟩ := e
    obtain ⟨h1, h2⟩ := List.pairwise_cons.1 h
    obtain ⟨i1, i2⟩ := ih h2
    unfold Tbl.put
    split
    · rename_i hk
      refine ⟨List.pairwise_cons.2 ⟨fun p hp => ?_, h⟩, ?_⟩
      · rcases List.mem_cons.1 hp with rfl | hp
        · exact hk
        · exact Nat.lt_trans hk (h1 p hp)
      · intro p hp
        rcases List.mem_cons.1 hp with rfl | hp
        · exact .inl rfl
        · exact .inr ⟨p, hp, rfl⟩
    · split
      · rename_i hk
        subst hk
        exact ⟨List.pairwise_cons.2 ⟨h1, h2⟩, fun p hp => by
          rcases List.mem_cons.1 hp with rfl | hp
          · exact .inl rfl
          · exact .inr ⟨p, List.mem_cons_of_mem _ hp, rfl⟩⟩
      · refine ⟨List.pairwise_cons.2 ⟨fun p hp => ?_, i1⟩, fun p hp => ?_⟩
        · rcases i2 p hp with e | ⟨q, hq, e⟩
          · show j < p.1; omega
          · have := h1 q hq; show j < p.1; omega
        · rcases List.mem_cons.1 hp with rfl | hp
          · exact .inr ⟨_, List.mem_cons_self, rfl⟩
          · rcases i2 p hp with e | ⟨q, hq, e⟩
            · exact .inl e
            · exact .inr ⟨q, List.mem_cons_of_mem _ hq, e⟩

theorem drop_sublist {α : Type} (k : Nat) : ∀ t : Tbl α, (Tbl.drop t k).Sublist t := by
  intro t
  induction t with
  | nil => exact List.Sublist.refl _
  | cons e t ih =>
    obtain ⟨j, y⟩ := e
    unfold Tbl.drop
    split
    · exact List.Sublist.refl _
    · split
      · exact List.sublist_cons_self _ _
      · exact ih.cons_cons _

theorem drop_sorted {α : Type} (k : Nat) {t : Tbl α} (h : t.Pairwise (fun p q => p.1 < q.1)) :
    (Tbl.drop t k).Pairwise (fun p q => p.1 < q.1) := h.sublist (drop_sublist k t)

/-! ### Safe states, core by core -/

/-- A core whose buffers keep their canonical form, and whose contexts have `vl` within VLMAX. -/
def CoreSafe (k : Core) : Prop :=
  Memory.wf zeroByte k.bufW = true ∧ Memory.wf zeroByte k.bufA = true ∧ Memory.wf zeroByte k.bufC = true ∧
  VlBounded k.ctxN ∧ VlBounded k.ctxU

theorem safe_iff (s : State) : Safe s ↔
    Memory.wf memDefault s.mem = true ∧ DirSorted s ∧ ∀ c : BitVec 6, CoreSafe (s.core c) := by
  constructor
  · rintro ⟨h1, h2, h3, h4⟩
    exact ⟨h1, h2, fun c => ⟨(h3 c).1, (h3 c).2.1, (h3 c).2.2, h4 ⟨c, .n⟩, h4 ⟨c, .u⟩⟩⟩
  · rintro ⟨h1, h2, h3⟩
    exact ⟨h1, h2, fun c => ⟨(h3 c).1, (h3 c).2.1, (h3 c).2.2.1⟩, fun ⟨c, x⟩ => by
      cases x
      · exact (h3 c).2.2.2.1
      · exact (h3 c).2.2.2.2⟩

/-- Whatever else changes, a state with the memory, directory and cores of a safe state is safe. -/
theorem safe_of_eq {s t : State} (h : Safe s) (hm : t.mem = s.mem) (hd : t.dir = s.dir) (hc : t.cores = s.cores) : Safe t := by
  have e : ∀ c, t.core c = s.core c := fun c => by unfold State.core; rw [hc]
  obtain ⟨h1, h2, h3⟩ := (safe_iff s).1 h
  refine (safe_iff t).2 ⟨by rw [hm]; exact h1, by unfold DirSorted; rw [hd]; exact h2, fun c => by rw [e]; exact h3 c⟩

theorem safe_mem {s : State} (h : Safe s) {m : Memory} (hm : Memory.wf memDefault m = true) : Safe { s with mem := m } :=
  ⟨hm, h.2.1, h.2.2.1, h.2.2.2⟩

theorem safe_put {s : State} (h : Safe s) (pa : Nat) (bs : List Byte) : Safe (s.put pa bs) :=
  ⟨writeBytes_wf bs pa h.1, h.2.1, h.2.2.1, h.2.2.2⟩

theorem safe_setDir {s : State} (h : Safe s) (line : Nat) (e : DirEntry) : Safe (s.setDir line e) := by
  refine ⟨h.1, ?_, h.2.2.1, h.2.2.2⟩
  show List.Pairwise _ (if _ then _ else _)
  split
  · exact drop_sorted _ h.2.1
  · exact (put_sorted _ _ _ h.2.1).1

theorem safe_onCore {s : State} (h : Safe s) (c : BitVec 6) {f : Core → Core} (hf : ∀ k, CoreSafe k → CoreSafe (f k)) :
    Safe (s.onCore c f) := by
  obtain ⟨h1, h2, h3⟩ := (safe_iff s).1 h
  refine (safe_iff _).2 ⟨h1, h2, fun d => ?_⟩
  by_cases hd : d = c
  · subst hd; rw [core_onCore]; exact hf _ (h3 d)
  · rw [core_onCore_ne _ _ hd]; exact h3 d

theorem safe_onCtx {s : State} (h : Safe s) (t : Tid) {f : Ctx → Ctx} (hf : ∀ c, VlBounded c → VlBounded (f c)) :
    Safe (s.onCtx t f) := by
  refine (safe_iff _).2 ⟨h.1, h.2.1, fun d => ?_⟩
  have h3 := ((safe_iff s).1 h).2.2
  by_cases hd : d = t.core
  · subst hd
    have e : (s.onCtx t f).core t.core = (s.core t.core).setCtx t.cx (f (s.ctx t)) := by
      unfold State.onCtx State.setCtx; rw [core_setCore]
    rw [e]
    obtain ⟨a, b, c, n, u⟩ := h3 t.core
    unfold State.ctx
    cases t.cx
    · exact ⟨a, b, c, hf _ n, u⟩
    · exact ⟨a, b, c, n, hf _ u⟩
  · have e : (s.onCtx t f).core d = s.core d := by unfold State.onCtx State.setCtx; exact core_setCore_ne _ _ hd
    rw [e]; exact h3 d

theorem safe_onMe {s : State} (h : Safe s) {f : Ctx → Ctx} (hf : ∀ c, VlBounded c → VlBounded (f c)) : Safe (s.onMe f) :=
  safe_onCtx h s.cur hf

theorem safe_foldl {α : Type} {f : State → α → State} (hf : ∀ s a, Safe s → Safe (f s a)) (l : List α) :
    ∀ {s : State}, Safe s → Safe (l.foldl f s) := by
  induction l with
  | nil => intro s h; exact h
  | cons a l ih => intro s h; exact ih (hf s a h)

/-- A state of which only caches and the directory have changed. -/
theorem coreSafe_l1 {k : Core} (h : CoreSafe k) (l : List L1Line) : CoreSafe { k with l1 := l } := h

theorem safe_dropFrom {s : State} (h : Safe s) (line : Nat) (cs : List (BitVec 6)) : Safe (s.dropFrom line cs) := by
  unfold State.dropFrom
  refine safe_foldl (fun s c hs => ?_) cs h
  refine safe_onCore hs c ?_
  exact fun _ hk => hk

theorem safe_uncacheLine {s : State} (h : Safe s) (line : Nat) : Safe (s.uncacheLine line) := by
  unfold State.uncacheLine
  dsimp only
  split
  · exact h
  · exact safe_setDir (safe_dropFrom h _ _) _ _

theorem safe_uncacheLines {s : State} (h : Safe s) (ls : List Nat) : Safe (ls.foldl (fun s l => s.uncacheLine l) s) :=
  safe_foldl (f := fun s l => s.uncacheLine l) (fun _ l hs => safe_uncacheLine hs l) ls h

theorem safe_homeWrite {s : State} (h : Safe s) (pa : Nat) (bs : List Byte) : Safe (s.homeWrite pa bs) := by
  unfold State.homeWrite
  refine safe_put (safe_foldl (fun s l hs => ?_) _ h) _ _
  have h1 := safe_uncacheLine hs l
  dsimp only
  split <;> split <;> first | exact safe_setDir h1 _ _ | exact h1

/-! ### Aborts, gates, notices and traps -/

theorem vlBounded_setG {c : Ctx} (h : VlBounded c) (r : BitVec 5) (x : Word) : VlBounded (c.setG r x) := by
  unfold Ctx.setG; split <;> exact h

theorem safe_abortTx {s : State} (h : Safe s) (t : Tid) (c tc : Nat) : Safe (s.abortTx t c tc) := by
  unfold State.abortTx
  split
  · exact h
  · dsimp only
    refine safe_onCtx ?_ t ?_
    · exact safe_of_eq (s := s) h rfl rfl rfl
    intro c hc
    exact vlBounded_setG (c := c.setTxa false) hc _ _

theorem safe_abortLater {s : State} (h : Safe s) (who : Option Tid) (w : Bool) (line : Nat) : Safe (s.abortLater who w line) :=
  safe_foldl (f := fun s (p : Tid × Tx) => s.abortTx p.1 1 0) (fun _ p hs => safe_abortTx hs p.1 1 0) _ h

/-- Every state that an access to a gate can go on from is safe. -/
def GateSafe : Gate → Prop
  | .pass s | .hold s | .conflict s => Safe s
  | .linkDown | .orphaned => True

theorem safe_holdFrom {s : State} (h : Safe s) (s1 : State) : Safe (s.holdFrom s1) := safe_of_eq h rfl rfl rfl

theorem safe_markBlocks {s : State} (h : Safe s) (ts : List (Tid × Tx)) : Safe (s.markBlocks ts) :=
  safe_foldl (f := fun s (p : Tid × Tx) => s.setTx p.1 { p.2 with blocks := true })
    (fun _ _ hs => safe_of_eq hs rfl rfl rfl) ts h

theorem gateSafe_line {s : State} (h : Safe s) (who : Option Tid) (line : Nat) (w : Bool) : GateSafe (s.gateLine who line w) := by
  have hb : GateSafe (s.gateBias line w) := by
    unfold State.gateBias
    split
    · exact h
    · split
      · exact h
      · split
        · exact safe_of_eq h rfl rfl rfl
        · split <;> exact safe_of_eq h rfl rfl rfl
  have hl (d : Bool) : GateSafe (if s.host.orphans.contains line && !w then .orphaned else if d then .linkDown else
      if (s.rivals who line w).isEmpty then s.gateBias line w else .conflict (s.markBlocks (s.rivals who line w))) := by
    split
    · trivial
    · split
      · trivial
      · split
        · exact hb
        · exact safe_markBlocks h _
  exact hl _

theorem gateSafe_lines (who : Option Tid) (w : Bool) (ls : List Nat) : ∀ {s : State}, Safe s → GateSafe (s.gateLines who w ls) := by
  induction ls with
  | nil => intro s h; exact h
  | cons l ls ih =>
    intro s h
    have hl := gateSafe_line h who l w
    unfold State.gateLines
    cases hg : s.gateLine who l w <;> rw [hg] at hl
    case pass s1 => exact ih hl
    all_goals exact hl

theorem gateSafe_gate {s : State} (h : Safe s) (who : Option Tid) (pa n : Nat) (w : Bool) : GateSafe (s.gate who pa n w) := by
  have hl := gateSafe_lines who w (linesOf pa n) h
  unfold State.gate
  cases hg : s.gateLines who w (linesOf pa n) <;> rw [hg] at hl
  case pass s1 =>
    exact safe_foldl (f := fun s l => s.abortLater who w l) (fun _ l hs => safe_abortLater hs who w l) _ hl
  case hold s1 => exact safe_holdFrom h _
  case conflict s1 => exact safe_holdFrom h _
  all_goals trivial

theorem safe_passed {s : State} (h : Safe s) {g : Gate} (hg : GateSafe g) : Safe (s.passed g) := by
  cases g
  case pass s1 => exact hg
  all_goals exact h

theorem safe_writeNotice {s : State} (h : Safe s) (c : BitVec 6) (bs : List Byte) : Safe (s.writeNotice c bs) := by
  unfold State.writeNotice
  refine safe_onCore (safe_homeWrite (safe_passed h (gateSafe_gate h _ _ _ _)) _ _) c ?_
  exact fun _ hk => hk

theorem safe_notify {s : State} (h : Safe s) (c : BitVec 6) (n : Notice) : Safe (s.notify c n) := by
  have h1 : Safe (s.onCore c (fun k => { k with nseq := k.nseq + 1 })) := by
    refine safe_onCore h c ?_
    exact fun _ hk => hk
  unfold State.notify
  dsimp only
  split
  · exact safe_writeNotice h1 _ _
  · refine safe_onCore (safe_holdFrom h1 _) c ?_
    exact fun _ hk => hk

theorem safe_stopFor {s : State} (h : Safe s) (t : Tid) (r : RunState) : Safe (s.onCtx t (fun c => c.stopFor r)) := by
  refine safe_onCtx h t ?_
  exact fun _ hc => hc

theorem safe_trapTaken {s : State} (h : Safe s) (t : Tid) (q : Trap) : Safe (s.trapNow t q) := by
  unfold State.trapNow
  dsimp only
  split
  · exact safe_notify (safe_stopFor h t _) _ _
  · split
    · exact safe_notify (safe_stopFor h t _) _ _
    · refine safe_notify (safe_onCtx (safe_homeWrite (safe_passed h (gateSafe_gate h _ _ _ _)) _ _) t ?_) _ _
      exact fun _ hc => hc

theorem safe_takeTrap {s : State} (h : Safe s) (t : Tid) (q : Trap) : Safe (s.takeTrap t q) := by
  have hp (s1 : State) : Safe ((s.holdFrom s1).onCtx t (fun c => c.pendFor q)) := by
    refine safe_onCtx (safe_holdFrom h s1) t ?_
    exact fun _ hc => hc
  unfold State.takeTrap
  split
  · exact hp _
  · split
    · exact hp _
    · exact safe_trapTaken h t q

theorem safe_raise {s : State} (h : Safe s) (t : Tid) (q : Trap) : Safe (s.raise t q) := by
  unfold State.raise
  split
  · exact safe_abortTx h _ _ _
  · exact safe_takeTrap h _ _

/-! ### Meanings -/

/-- The state in which a meaning stops. -/
def Stop.state : Stop → State
  | .trap s _ => s
  | .abort s _ _ => s
  | .wait s => s

/-- A meaning under way that is safe: it answers what P says of, or stops in a safe state. -/
def RunSafe {α : Type} (P : α → Prop) : Run α → Prop
  | .ok a => P a
  | .error e => Safe (Stop.state e)

theorem runSafe_bind {α β : Type} {P : α → Prop} {Q : β → Prop} {r : Run α} {f : α → Run β} (h : RunSafe P r)
    (hf : ∀ a, P a → RunSafe Q (f a)) : RunSafe Q (r >>= f) := by
  cases r with
  | ok a => exact hf a h
  | error e => exact h

theorem runSafe_mono {α : Type} {P Q : α → Prop} {r : Run α} (h : RunSafe P r) (hq : ∀ a, P a → Q a) : RunSafe Q r := by
  cases r with
  | ok a => exact hq a h
  | error e => exact h

/-- A safe meaning ends in a safe state. -/
theorem safe_settle {r : Run State} (h : RunSafe Safe r) : Safe (settle r) := by
  cases r with
  | ok s => exact h
  | error e =>
    cases e with
    | trap s q => exact safe_raise h _ _
    | abort s c tc => exact safe_abortTx h _ _ _
    | wait s =>
      refine safe_onMe h ?_
      exact fun _ hc => hc

theorem safe_finish {r : Run State} (h : RunSafe Safe r) : ∀ t, finish r = .next t → Safe t := by
  intro t ht
  have e : settle r = t := by injection ht
  exact e ▸ safe_settle h

theorem runSafe_trapNow {α : Type} {P : α → Prop} {s : State} (h : Safe s) (c : Cause) (v : Word) :
    RunSafe P (trapNow s c v : Run α) := h

theorem runSafe_trapRes {α : Type} {P : α → Prop} {s : State} (h : Safe s) (c : Cause) (v : Word) (b : Bool) :
    RunSafe P (trapRes s c v b : Run α) := h

theorem runSafe_waitNow {α : Type} {P : α → Prop} {s : State} (h : Safe s) : RunSafe P (waitNow s : Run α) := h

theorem runSafe_illop {α : Type} {P : α → Prop} {s : State} (h : Safe s) (i : Instr) : RunSafe P (illop s i : Run α) := by
  unfold illop; split <;> exact h

theorem runSafe_legal {s : State} (h : Safe s) (i : Instr) (b : Bool) : RunSafe (fun _ => True) (legal s i b) := by
  unfold legal; split
  · trivial
  · exact runSafe_illop h i

theorem runSafe_notInTx {s : State} (h : Safe s) : RunSafe (fun _ => True) (notInTx s) := by
  unfold notInTx; split
  · exact h
  · trivial

theorem safe_setG {s : State} (h : Safe s) (r : BitVec 5) (x : Word) : Safe (s.setG r x) :=
  safe_onMe (f := fun c => c.setG r x) h (fun _ hc => vlBounded_setG hc _ _)

theorem safe_advance {s : State} (h : Safe s) (n : Nat) : Safe (s.advance n) := by
  unfold State.advance
  refine safe_onMe h ?_
  exact fun _ hc => hc

end Sys2Proof
end

