-- ==== Sys2Proof/Laws/Scalar.lean ====
section
/-! SUPPORT. What the operations that scalar instructions share can do: the answers of integer results and of instructions
that only go on, a scalar access that can be performed at once, and what a transaction does to the checks. -/

namespace Sys2Proof

open Sys2Proof.Machine

/-! ### Answers -/

/-- The outcome of an integer instruction writes G(d) and goes on. -/
theorem writeInt_eq (d : BitVec 5) (x : Word) (s : State) : writeInt d x s = wroteG s d x := by
  unfold writeInt wroteG State.result State.setG State.advance
  rw [onMe_onMe, finish_ok]
  refine congrArg _ (onMe_congr _ ?_)
  simp only [ctx_pc_setG]
  rfl

/-- An answer that changes the moving context by f and goes on. -/
theorem wentOn_eq (s : State) (f g : Ctx → Ctx) (h : g s.me = { f s.me with pc := s.pc + 4, waiting := false }) :
    Host.Outcome.next (s.onMe g) = wentOn s f := by
  unfold wentOn; exact congrArg _ (onMe_congr _ h)

/-! ### Transactions -/

theorem notInTx_out {s : State} (h : s.me.txa = false) : notInTx s = .ok () := by simp [notInTx, h]

theorem notInTx_in {s : State} (h : s.me.txa = true) : notInTx s = .error (.abort s 7 0) := by simp [notInTx, h]

/-- Outside a transaction a trap condition is a trap. -/
theorem raise_out {s : State} (h : s.txs = []) (t : Tid) (q : Trap) : s.raise t q = s.takeTrap t q := by
  simp [State.raise, txOf_of_no_tx h]

/-! ### Scalar accesses that can be performed at once -/

/-- A reachable scalar access is one of memory. -/
theorem scalarPlace_reach {s : State} {va : Word} {n : Nat} {k : Need} {l : Leaf} (h : Reachable s va n k l) (b1 b2 : Bool) :
    scalarPlace s va n k b1 b2 = .ok (.mem l.pa l.unc) := by
  obtain ⟨h1, h2, h3, h4, h5, -⟩ := h
  simp [scalarPlace, h1, h2, State.walkWaits, heldUp_free h5.1 h3, h4]

/-- A reachable load gives the bytes at its physical address, and changes only caches. -/
theorem loadNum_reach {s : State} {va : Word} {n : Nat} {l : Leaf} (h : Reachable s va n .read l) :
    ∃ s1, loadNum s va n = .ok (s1, leNat (s.bytes l.pa n)) ∧ OnlyCaches s s1 := by
  obtain ⟨s1, h1, h2⟩ := lsRead_free h.2.2.2.2.1 (h.2.2.2.2.2 (by decide)) s.cur va l.unc
  refine ⟨s1, ?_, h2⟩
  simp [loadNum, scalarPlace_reach h, h1, bind, Except.bind]

/-- A reachable store puts the low bytes of its value at its physical address, and changes only caches beside. -/
theorem storeNum_reach {s : State} {va : Word} {n : Nat} {l : Leaf} (h : Reachable s va n .write l) (x : Word) :
    ∃ s1, storeNum s va n x = .ok (s1.put l.pa (leBytes n x.toNat)) ∧ OnlyCaches s s1 := by
  have hb : BytesFree s l.pa (leBytes n x.toNat).length := by rw [leBytes_length]; exact h.2.2.2.2.1
  obtain ⟨s1, h1, h2⟩ := lsWrite_free hb s.cur va l.unc
  refine ⟨s1, ?_, h2⟩
  simp [storeNum, scalarPlace_reach h, h1, bind, Except.bind]

/-! ### Frames -/

theorem onlyMemory_of_caches {s t : State} (h : OnlyCaches s t) : OnlyMemory s t :=
  ⟨by rw [h.1], fun c => by rw [h.2 c]⟩

theorem onlyMemory_put {s t : State} (h : OnlyMemory s t) (pa : Nat) (bs : List Byte) : OnlyMemory s (t.put pa bs) := by
  refine ⟨?_, fun c => h.2 c⟩
  unfold State.put; rw [h.1]

theorem onlyMemory_onMe {s t : State} (h : OnlyMemory s t) (f : Ctx → Ctx) : OnlyMemory s (t.onMe f) := by
  refine ⟨?_, fun c => ?_⟩
  · rw [h.1]; rfl
  · by_cases hc : c = t.cur.core
    · subst hc
      have hk := h.2 t.cur.core
      have e : (t.onMe f).core t.cur.core = (t.core t.cur.core).setCtx t.cur.cx (f t.me) := by
        unfold State.onMe State.onCtx State.setCtx; rw [core_setCore]; rfl
      rw [e]
      cases hx : t.cur.cx <;> simp only [Core.setCtx] <;> rw [hk]
    · have e : (t.onMe f).core c = t.core c := by
        unfold State.onMe State.onCtx State.setCtx; exact core_setCore_ne _ _ hc
      rw [e]; exact h.2 c

/-- From a state of which only caches have changed, a change of the moving context that goes on. -/
theorem went_of_caches {s t : State} (h : OnlyCaches s t) (n : Nat) (f g : Ctx → Ctx)
    (hg : g s.me = { f s.me with pc := s.pc + BitVec.ofNat 64 n, waiting := false }) : Went s (t.onMe g) n f := by
  have hc : t.cur = s.cur := by rw [h.1]
  refine ⟨?_, ?_, fun u hu => ?_⟩
  · rw [me_onMe, onlyCaches_me h, hg]
  · rw [cur_onMe, hc]
  · rw [ctx_onMe_ne _ _ (by rw [hc]; exact hu), onlyCaches_ctx h]

end Sys2Proof
end

