-- ==== Sys2Proof/Laws/Vec.lean ====
section
/-! SUPPORT. Elements of vector register groups (R45): what a write of one element, and a loop over elements, leaves in every
other one. -/

namespace Sys2Proof.Machine

/-! ### A bit field of a register replaced -/

theorem setBits_toNat {n : Nat} (x : BitVec n) (lo w v : Nat) (h : lo + w ≤ n) :
    (setBits x lo w v).toNat = x.toNat / 2 ^ (lo + w) * 2 ^ (lo + w) + v % 2 ^ w * 2 ^ lo + x.toNat % 2 ^ lo := by
  have hx := x.isLt
  have h1 : x.toNat = x.toNat / 2 ^ (lo + w) * 2 ^ (lo + w) + x.toNat / 2 ^ lo % 2 ^ w * 2 ^ lo + x.toNat % 2 ^ lo := by
    have e1 := Nat.div_add_mod x.toNat (2 ^ lo)
    have e2 := Nat.div_add_mod (x.toNat / 2 ^ lo) (2 ^ w)
    rw [Nat.div_div_eq_div_mul, ← Nat.pow_add] at e2
    have e3 : x.toNat / 2 ^ lo * 2 ^ lo =
        x.toNat / 2 ^ (lo + w) * 2 ^ (lo + w) + x.toNat / 2 ^ lo % 2 ^ w * 2 ^ lo := by
      conv_lhs => rw [← e2]
      rw [Nat.add_mul, Nat.pow_add]
      ring
    rw [← e3]
    linarith [Nat.mul_comm (2 ^ lo) (x.toNat / 2 ^ lo)]
  have hA : x.toNat / 2 ^ (lo + w) < 2 ^ (n - (lo + w)) := by
    apply Nat.div_lt_of_lt_mul
    rw [← Nat.pow_add]
    have : lo + w + (n - (lo + w)) = n := by omega
    rwa [this]
  have hv : v % 2 ^ w * 2 ^ lo + x.toNat % 2 ^ lo < 2 ^ (lo + w) := by
    have a := Nat.mod_lt v (Nat.two_pow_pos w)
    have b := Nat.mod_lt x.toNat (Nat.two_pow_pos lo)
    rw [Nat.pow_add]
    calc v % 2 ^ w * 2 ^ lo + x.toNat % 2 ^ lo < v % 2 ^ w * 2 ^ lo + 2 ^ lo := by omega
      _ = (v % 2 ^ w + 1) * 2 ^ lo := by ring
      _ ≤ 2 ^ w * 2 ^ lo := Nat.mul_le_mul_right _ a
      _ = 2 ^ lo * 2 ^ w := Nat.mul_comm _ _
  have hlt : x.toNat / 2 ^ (lo + w) * 2 ^ (lo + w) + v % 2 ^ w * 2 ^ lo + x.toNat % 2 ^ lo < 2 ^ n := by
    have : 2 ^ n = 2 ^ (n - (lo + w)) * 2 ^ (lo + w) := by
      rw [← Nat.pow_add]; congr 1; omega
    rw [this]
    calc _ < x.toNat / 2 ^ (lo + w) * 2 ^ (lo + w) + 2 ^ (lo + w) := by omega
      _ = (x.toNat / 2 ^ (lo + w) + 1) * 2 ^ (lo + w) := by ring
      _ ≤ _ := Nat.mul_le_mul_right _ hA
  unfold setBits
  rw [BitVec.toNat_ofNat]
  have h2 : x.toNat - x.toNat / 2 ^ lo % 2 ^ w * 2 ^ lo + v % 2 ^ w * 2 ^ lo =
      x.toNat / 2 ^ (lo + w) * 2 ^ (lo + w) + v % 2 ^ w * 2 ^ lo + x.toNat % 2 ^ lo := by omega
  rw [h2, Nat.mod_eq_of_lt hlt]

/-- The field written. -/
theorem field_setBits {n : Nat} (x : BitVec n) (lo w v : Nat) (h : lo + w ≤ n) :
    ((setBits x lo w v).extractLsb' lo w).toNat = v % 2 ^ w := by
  rw [BitVec.extractLsb'_toNat, setBits_toNat x lo w v h, Nat.shiftRight_eq_div_pow]
  have b := Nat.mod_lt x.toNat (Nat.two_pow_pos lo)
  have : (x.toNat / 2 ^ (lo + w) * 2 ^ (lo + w) + v % 2 ^ w * 2 ^ lo + x.toNat % 2 ^ lo) / 2 ^ lo =
      x.toNat / 2 ^ (lo + w) * 2 ^ w + v % 2 ^ w := by
    rw [show x.toNat / 2 ^ (lo + w) * 2 ^ (lo + w) + v % 2 ^ w * 2 ^ lo + x.toNat % 2 ^ lo =
      x.toNat % 2 ^ lo + (x.toNat / 2 ^ (lo + w) * 2 ^ w + v % 2 ^ w) * 2 ^ lo by rw [Nat.pow_add]; ring,
      Nat.add_mul_div_right _ _ (Nat.two_pow_pos lo), Nat.div_eq_of_lt b, Nat.zero_add]
  rw [this, Nat.mul_add_mod_self_right, Nat.mod_mod]

/-- A field below or above the one written. -/
theorem field_setBits_ne {n : Nat} (x : BitVec n) (lo w v l2 w2 : Nat) (h : lo + w ≤ n)
    (hd : l2 + w2 ≤ lo ∨ lo + w ≤ l2) :
    (setBits x lo w v).extractLsb' l2 w2 = x.extractLsb' l2 w2 := by
  apply BitVec.eq_of_toNat_eq
  rw [BitVec.extractLsb'_toNat, BitVec.extractLsb'_toNat, setBits_toNat x lo w v h, Nat.shiftRight_eq_div_pow,
    Nat.shiftRight_eq_div_pow]
  rcases hd with hd | hd
  · have key (y : Nat) (hy : y % 2 ^ lo = x.toNat % 2 ^ lo) : y / 2 ^ l2 % 2 ^ w2 = x.toNat / 2 ^ l2 % 2 ^ w2 := by
      have e (z : Nat) : z / 2 ^ l2 % 2 ^ w2 = z % 2 ^ lo / 2 ^ l2 % 2 ^ w2 := by
        have hp : 2 ^ lo = 2 ^ l2 * (2 ^ w2 * 2 ^ (lo - l2 - w2)) := by
          rw [← Nat.pow_add, ← Nat.pow_add]; congr 1; omega
        rw [hp, Nat.mod_mul_right_div_self, Nat.mod_mul_right_mod]
      rw [e y, e x.toNat, hy]
    apply key
    rw [show x.toNat / 2 ^ (lo + w) * 2 ^ (lo + w) + v % 2 ^ w * 2 ^ lo + x.toNat % 2 ^ lo =
      x.toNat % 2 ^ lo + 2 ^ lo * (x.toNat / 2 ^ (lo + w) * 2 ^ w + v % 2 ^ w) by rw [Nat.pow_add]; ring,
      Nat.add_mul_mod_self_left, Nat.mod_mod]
  · have key (y : Nat) (hy : y / 2 ^ (lo + w) = x.toNat / 2 ^ (lo + w)) : y / 2 ^ l2 % 2 ^ w2 = x.toNat / 2 ^ l2 % 2 ^ w2 := by
      have hp : 2 ^ l2 = 2 ^ (lo + w) * 2 ^ (l2 - (lo + w)) := by rw [← Nat.pow_add]; congr 1; omega
      rw [hp, ← Nat.div_div_eq_div_mul, ← Nat.div_div_eq_div_mul, hy]
    apply key
    have hv : v % 2 ^ w * 2 ^ lo + x.toNat % 2 ^ lo < 2 ^ (lo + w) := by
      have a := Nat.mod_lt v (Nat.two_pow_pos w)
      have b := Nat.mod_lt x.toNat (Nat.two_pow_pos lo)
      rw [Nat.pow_add]
      calc v % 2 ^ w * 2 ^ lo + x.toNat % 2 ^ lo < v % 2 ^ w * 2 ^ lo + 2 ^ lo := by omega
        _ = (v % 2 ^ w + 1) * 2 ^ lo := by ring
        _ ≤ 2 ^ w * 2 ^ lo := Nat.mul_le_mul_right _ a
        _ = 2 ^ lo * 2 ^ w := Nat.mul_comm _ _
    rw [Nat.add_assoc, Nat.add_comm, Nat.add_mul_div_right _ _ (Nat.two_pow_pos (lo + w)), Nat.div_eq_of_lt hv,
      Nat.zero_add]

/-! ### Registers and elements -/

theorem vreg_setVreg (c : Ctx) (r : Nat) (x : BitVec 4096) : (c.setVreg r x).vreg r = x := by
  simp [Ctx.vreg, Ctx.setVreg]

theorem vreg_setVreg_ne (c : Ctx) {r q : Nat} (x : BitVec 4096) (h : q % 32 ≠ r % 32) :
    (c.setVreg r x).vreg q = c.vreg q := by
  unfold Ctx.vreg Ctx.setVreg
  exact Vector.getElem_set_ne (Nat.mod_lt _ (by decide)) (Nat.mod_lt _ (by decide)) (fun e => h e.symm)

/-- The element widths (R51). -/
def IsEw (ew : Nat) : Prop := ew = 8 ∨ ew = 16 ∨ ew = 32 ∨ ew = 64

theorem isEw_ewOf (vt : BitVec 4) : IsEw (ewOf vt) := by
  unfold ewOf IsEw
  have := (vt.extractLsb' 0 2).isLt
  generalize (vt.extractLsb' 0 2).toNat = n at *
  have : n = 0 ∨ n = 1 ∨ n = 2 ∨ n = 3 := by omega
  rcases this with h | h | h | h <;> subst h <;> simp

theorem el_fits {ew : Nat} (h : IsEw ew) (i : Nat) : ew * (i % (4096 / ew)) + ew ≤ 4096 := by
  rcases h with h | h | h | h <;> subst h <;> omega

/-- The element written. -/
theorem el_setEl (c : Ctx) {ew : Nat} (h : IsEw ew) (d i v : Nat) : (c.setEl ew d i v).el ew d i = v % 2 ^ ew := by
  unfold Ctx.setEl Ctx.el
  rw [vreg_setVreg, field_setBits _ _ _ _ (el_fits h i)]

/-- Every other element of the group. -/
theorem el_setEl_ne (c : Ctx) {ew : Nat} (h : IsEw ew) (d v : Nat) {i j : Nat} (hij : j ≠ i)
    (hi : i / (4096 / ew) < 32) (hj : j / (4096 / ew) < 32) : (c.setEl ew d i v).el ew d j = c.el ew d j := by
  unfold Ctx.setEl Ctx.el
  by_cases hr : j / (4096 / ew) = i / (4096 / ew)
  · rw [hr, vreg_setVreg]
    congr 1
    refine field_setBits_ne _ _ _ _ _ _ (el_fits h i) ?_
    have hm : j % (4096 / ew) ≠ i % (4096 / ew) := by
      intro e
      apply hij
      rw [← Nat.div_add_mod j (4096 / ew), ← Nat.div_add_mod i (4096 / ew), hr, e]
    rcases Nat.lt_or_gt_of_ne hm with hlt | hlt
    · left
      calc ew * (j % (4096 / ew)) + ew = ew * (j % (4096 / ew) + 1) := by ring
        _ ≤ ew * (i % (4096 / ew)) := Nat.mul_le_mul_left _ hlt
    · right
      calc ew * (i % (4096 / ew)) + ew = ew * (i % (4096 / ew) + 1) := by ring
        _ ≤ ew * (j % (4096 / ew)) := Nat.mul_le_mul_left _ hlt
  · rw [vreg_setVreg_ne]
    generalize j / (4096 / ew) = a at *
    generalize i / (4096 / ew) = b at *
    omega

/-- A register outside the group. -/
theorem vreg_setEl_ne (c : Ctx) (ew d i v q : Nat) (h : q % 32 ≠ (d + i / (4096 / ew)) % 32) :
    (c.setEl ew d i v).vreg q = c.vreg q := vreg_setVreg_ne c _ h

/-! ### A loop over elements -/

/-- Elements k of a list, each once, written with val k where act k holds. -/
def setEls (ew d : Nat) (act : Nat → Bool) (val : Nat → Nat) (c : Ctx) (ks : List Nat) : Ctx :=
  ks.foldl (fun c k => if act k then c.setEl ew d k (val k) else c) c

theorem el_setEls {ew : Nat} (h : IsEw ew) (d : Nat) (act : Nat → Bool) (val : Nat → Nat) (ks : List Nat) :
    ∀ (c : Ctx) (j : Nat), ks.Nodup → (∀ k ∈ ks, k / (4096 / ew) < 32) → j / (4096 / ew) < 32 →
      (setEls ew d act val c ks).el ew d j = if j ∈ ks ∧ act j = true then val j % 2 ^ ew else c.el ew d j := by
  induction ks with
  | nil => intro c j _ _ _; simp [setEls]
  | cons k ks ih =>
    intro c j hn hb hj
    have hk := hb k (by simp)
    obtain ⟨hkn, hn'⟩ := List.nodup_cons.1 hn
    have ih' := ih (if act k then c.setEl ew d k (val k) else c) j hn' (fun q hq => hb q (by simp [hq])) hj
    show (setEls ew d act val (if act k then c.setEl ew d k (val k) else c) ks).el ew d j = _
    rw [ih']
    by_cases hjk : j = k
    · subst hjk
      rw [if_neg (fun e => hkn e.1)]
      by_cases ha : act j = true
      · rw [if_pos ha, el_setEl c h, if_pos ⟨by simp, ha⟩]
      · rw [if_neg ha, if_neg (fun e => ha e.2)]
    · have hm : (j ∈ k :: ks ∧ act j = true) ↔ (j ∈ ks ∧ act j = true) := by simp [hjk]
      simp only [hm]
      by_cases hc : j ∈ ks ∧ act j = true
      · rw [if_pos hc, if_pos hc]
      · rw [if_neg hc, if_neg hc]
        split
        · rw [el_setEl_ne c h d _ hjk hk hj]
        · rfl

theorem vreg_setEls {ew : Nat} (d q : Nat) (act : Nat → Bool) (val : Nat → Nat) (ks : List Nat) :
    ∀ c : Ctx, (∀ k ∈ ks, q % 32 ≠ (d + k / (4096 / ew)) % 32) → (setEls ew d act val c ks).vreg q = c.vreg q := by
  induction ks with
  | nil => intro c _; rfl
  | cons k ks ih =>
    intro c h
    show (setEls ew d act val (if act k then c.setEl ew d k (val k) else c) ks).vreg q = _
    rw [ih _ (fun j hj => h j (by simp [hj]))]
    split
    · exact vreg_setEl_ne c ew d k _ q (h k (by simp))
    · rfl

/-! ### The elements to do -/

theorem mem_drop_range (n m k : Nat) : k ∈ (List.range n).drop m ↔ m ≤ k ∧ k < n := by
  rw [List.mem_iff_getElem?]
  constructor
  · rintro ⟨i, hi⟩
    rw [List.getElem?_drop] at hi
    have hl := (List.getElem?_eq_some_iff.1 hi).1
    rw [List.length_range] at hl
    rw [List.getElem?_range hl] at hi
    simp at hi
    omega
  · rintro ⟨h1, h2⟩
    refine ⟨k - m, ?_⟩
    rw [List.getElem?_drop, List.getElem?_range (by omega)]
    congr 1
    omega

theorem nodup_drop_range (n m : Nat) : ((List.range n).drop m).Nodup :=
  List.Nodup.sublist (List.drop_sublist m _) List.nodup_range

/-- Where no portion is asked for and with no record, one execution does the whole body. -/
theorem share_all (c : Ctx) (hr : c.resumed = none) :
    c.share false c.todo = ((List.range c.vl.toNat).drop c.vstart.toNat, []) := by
  simp [Ctx.share, Ctx.todo, hr]

end Sys2Proof.Machine
end

