-- ==== Sys2Proof/Laws/VecOps.lean ====
section
/-! SUPPORT. What the shared vector loops do when nothing stops them (R151 to R154). -/

namespace Sys2Proof.Machine

open Sys2Proof

/-! ### Fill counts -/

theorem fillOf_setFill (c : Ctx) (r x : Nat) : (c.setFill r x).fillOf r = x := by
  simp [Ctx.fillOf, Ctx.setFill]

theorem fillOf_setFill_ne (c : Ctx) {r q : Nat} (x : Nat) (h : q % 32 ≠ r % 32) : (c.setFill r x).fillOf q = c.fillOf q := by
  unfold Ctx.fillOf Ctx.setFill
  exact Vector.getElem_set_ne (Nat.mod_lt _ (by decide)) (Nat.mod_lt _ (by decide)) (fun e => h e.symm)

/-- Fill counts of consecutive registers written one after another. -/
theorem fillOf_foldl (d : Nat) (g : Nat → Nat) (n : Nat) (hn : d + n ≤ 32) : ∀ (c : Ctx) (r : Nat), r < 32 →
    ((List.range n).foldl (fun k j => k.setFill (d + j) (g j)) c).fillOf r =
      if d ≤ r ∧ r < d + n then g (r - d) else c.fillOf r := by
  induction n with
  | zero => intro c r _; rw [if_neg (by omega)]; rfl
  | succ n ih =>
    intro c r hr
    rw [List.range_succ, List.foldl_append]
    simp only [List.foldl_cons, List.foldl_nil]
    by_cases h : r = d + n
    · subst h
      rw [fillOf_setFill, if_pos (by omega)]
      congr 1
      omega
    · rw [fillOf_setFill_ne _ _ (by omega), ih (by omega) c r hr]
      by_cases h2 : d ≤ r ∧ r < d + n
      · rw [if_pos h2, if_pos (by omega)]
      · rw [if_neg h2, if_neg (by omega)]

/-- A loop of fill writes changes the fill counts alone. -/
theorem setFill_foldl_eq (d : Nat) (g : Nat → Nat) (l : List Nat) : ∀ c : Ctx,
    l.foldl (fun k j => k.setFill (d + j) (g j)) c =
      { c with fill := (l.foldl (fun k j => k.setFill (d + j) (g j)) c).fill } := by
  induction l with
  | nil => intro c; rfl
  | cons j l ih =>
    intro c
    rw [List.foldl_cons, ih]
    rfl

theorem gf_cases (vt : BitVec 4) : gfOf vt = 1 ∨ gfOf vt = 2 ∨ gfOf vt = 4 ∨ gfOf vt = 8 := by
  unfold gfOf
  have := (vt.extractLsb' 2 2).isLt
  generalize (vt.extractLsb' 2 2).toNat = n at *
  have : n = 0 ∨ n = 1 ∨ n = 2 ∨ n = 3 := by omega
  rcases this with h | h | h | h <;> subst h <;> simp

/-- A group lies within the 32 registers. -/
theorem group_fits {c : Ctx} {d : BitVec 5} (h : c.group d = true) : d.toNat + c.gf ≤ 32 := by
  have hd := d.isLt
  unfold Ctx.group at h
  have h' : d.toNat % c.gf = 0 := by simpa using h
  have := gf_cases c.vtype
  unfold Ctx.gf at *
  rcases this with e | e | e | e <;> rw [e] at h' ⊢ <;> omega

/-- An element of a group lies in one of its registers. -/
theorem el_reg {c : Ctx} {k : Nat} (h : k < c.vlmax) : k / (4096 / c.ew) < c.gf := by
  unfold Ctx.vlmax vlmaxOf at h
  have he := isEw_ewOf c.vtype
  unfold Ctx.ew Ctx.gf at *
  apply Nat.div_lt_of_lt_mul
  rcases he with e | e | e | e <;> rw [e] at h ⊢ <;> have := gf_cases c.vtype <;> omega

theorem gf_le (c : Ctx) : c.gf ≤ 8 := by
  have := gf_cases c.vtype
  unfold Ctx.gf
  omega

/-! ### A loop that changes elements and flags -/

/-- One turn of a loop over elements: element k and flags. -/
def turn (ew d : Nat) (act : Nat → Bool) (val : Nat → Nat × FpFlags) (c : Ctx) (k : Nat) : Ctx :=
  if act k then (c.setEl ew d k (val k).1).raiseFlags (val k).2 else c

theorem setEls_cons (ew d : Nat) (act : Nat → Bool) (val : Nat → Nat) (c : Ctx) (k : Nat) (l : List Nat) :
    setEls ew d act val c (k :: l) = setEls ew d act val (if act k then c.setEl ew d k (val k) else c) l := rfl

theorem turns_eq (ew d : Nat) (act : Nat → Bool) (val : Nat → Nat × FpFlags) (l : List Nat) : ∀ c e : Ctx,
    e = { c with fcsr := e.fcsr } →
    l.foldl (turn ew d act val) e =
      { setEls ew d act (fun k => (val k).1) c l with fcsr := (l.foldl (turn ew d act val) e).fcsr } := by
  induction l with
  | nil => intro c e h; exact h
  | cons k l ih =>
    intro c e h
    rw [List.foldl_cons, setEls_cons]
    unfold turn
    by_cases ha : act k = true
    · rw [if_pos ha, if_pos ha]
      apply ih
      rw [h]
      rfl
    · rw [if_neg ha, if_neg ha]
      exact ih c e h

theorem setEls_eq (ew d : Nat) (act : Nat → Bool) (val : Nat → Nat) (l : List Nat) : ∀ c : Ctx,
    setEls ew d act val c l = { c with v := (setEls ew d act val c l).v } := by
  induction l with
  | nil => intro c; rfl
  | cons k l ih =>
    intro c
    rw [setEls_cons]
    by_cases ha : act k = true
    · rw [if_pos ha]
      conv_lhs => rw [ih]
      rfl
    · rw [if_neg ha]
      exact ih c

/-- The flags of a loop: those it began with, and those of its active elements. -/
theorem turns_flags (ew d : Nat) (act : Nat → Bool) (val : Nat → Nat × FpFlags) (j : Nat) (l : List Nat) : ∀ c : Ctx,
    ((l.foldl (turn ew d act val) c).fcsr.getLsbD j = true ↔
      c.fcsr.getLsbD j = true ∨ ∃ k ∈ l, act k = true ∧ ((val k).2 ++ 0#2 : BitVec 7).getLsbD j = true) := by
  induction l with
  | nil => intro c; simp
  | cons k l ih =>
    intro c
    rw [List.foldl_cons, ih]
    unfold turn
    by_cases h : act k = true
    · rw [if_pos h]
      simp [Ctx.raiseFlags, h, or_assoc]
    · rw [if_neg h]
      simp [h]

/-! ### Completion -/

/-- A group's fill counts set to n elements. -/
theorem fillGroup_fill {c : Ctx} {d : BitVec 5} (hg : c.group d = true) (n r : Nat) (hr : r < 32) :
    (c.fillGroup d n).fillOf r =
      if d.toNat ≤ r ∧ r < d.toNat + c.gf then Nat.min (n * c.ew / 8 - 512 * (r - d.toNat)) 512 else c.fillOf r :=
  fillOf_foldl d.toNat _ c.gf (group_fits hg) c r hr

theorem fillGroup_eq (c : Ctx) (d : BitVec 5) (n : Nat) :
    c.fillGroup d n = { c with fill := (c.fillGroup d n).fill } :=
  setFill_foldl_eq d.toNat _ _ c

/-- A loop over the whole body of a group, with its completion: what the next state holds. -/
theorem vecPure_spec {s : State} {d : BitVec 5} (hv : VlBounded s.me) (hst : s.inParts = false)
    (hr : s.me.resumed = none) (hd : s.me.group d = true) (i : Instr) (m : BitVec 3) (val : Nat → Nat × FpFlags) :
    ∃ t, vecPure i s (turn s.me.ew d.toNat (s.me.active m) val) (fun c => c.fillGroup d c.vl.toNat) = .ok t ∧
      VecWent s t 4 ∧ GroupWrote s t d (inBody s.me m) (fun k => (val k).1) ∧ GroupFilled s t d s.me.vl.toNat ∧
      t.me.m = s.me.m ∧
      ∀ j, t.me.fcsr.getLsbD j = true ↔ s.me.fcsr.getLsbD j = true ∨
        ∃ k, inBody s.me m k = true ∧ ((val k).2 ++ 0#2 : BitVec 7).getLsbD j = true := by
  let c := s.me
  let l := (List.range c.vl.toNat).drop c.vstart.toNat
  let e := l.foldl (turn c.ew d.toNat (c.active m) val) c
  have he : e = { setEls c.ew d.toNat (c.active m) (fun k => (val k).1) c l with fcsr := e.fcsr } := turns_eq _ _ _ _ l c c rfl
  have he2 : e = { c with v := e.v, fcsr := e.fcsr } := by
    have h1 := setEls_eq c.ew d.toNat (c.active m) (fun k => (val k).1) l c
    rw [he, h1]
  have hgf : e.gf = c.gf := by rw [he2]; rfl
  have hew : e.ew = c.ew := by rw [he2]; rfl
  have hvl : e.vl = c.vl := by rw [he2]
  have hge : e.group d = true := by
    have : e.group d = c.group d := by unfold Ctx.group; rw [hgf]
    rw [this]; exact hd
  let k := e.fillGroup d e.vl.toNat
  have hk : k = { e with fill := k.fill } := fillGroup_eq ..
  refine ⟨s.onMe (fun _ => { k with vstart := 0, resumed := none, pc := s.pc + 4, waiting := false }), ?_, ?_, ?_, ?_, ?_, ?_⟩
  · unfold vecPure
    rw [hst, share_all s.me hr]
    simp only [List.isEmpty_nil, if_true, State.vdone, State.advance, onMe_onMe]
    congr 1
    apply onMe_congr
    show Ctx.mk .. = _
    have hpc : k.pc = s.pc := by rw [hk, he2]; rfl
    simp only [Ctx.complete]
    show { Ctx.complete k with pc := k.pc + BitVec.ofNat 64 4, waiting := false } = _
    rw [hpc]
    rfl
  · refine ⟨?_, ?_⟩
    · rw [me_onMe]; rfl
    · rw [me_onMe, hk, he2]
      rfl
  · have hme : (s.onMe (fun _ => { k with vstart := 0, resumed := none, pc := s.pc + 4, waiting := false })).me.v = e.v := by
      rw [me_onMe, hk]
    have hel (j : Nat) : Ctx.el (s.onMe (fun _ => { k with vstart := 0, resumed := none, pc := s.pc + 4, waiting := false })).me
        c.ew d.toNat j = (setEls c.ew d.toNat (c.active m) (fun k => (val k).1) c l).el c.ew d.toNat j := by
      unfold Ctx.el Ctx.vreg
      rw [hme, he]
    have hreg (r : Nat) : Ctx.vreg (s.onMe (fun _ => { k with vstart := 0, resumed := none, pc := s.pc + 4, waiting := false })).me
        r = (setEls c.ew d.toNat (c.active m) (fun k => (val k).1) c l).vreg r := by
      unfold Ctx.vreg
      rw [hme, he]
    have hb (q : Nat) (hq : q ∈ l) : q / (4096 / c.ew) < c.gf := el_reg (Nat.lt_of_lt_of_le ((mem_drop_range _ _ _).1 hq).2 hv)
    have hg8 := gf_le c
    refine ⟨fun j hj => ?_, fun r hr hout => ?_⟩
    · show Ctx.el _ c.ew d.toNat j = _
      rw [hel, el_setEls (show IsEw c.ew from isEw_ewOf c.vtype) _ _ _ l c j (nodup_drop_range _ _) (fun q hq => by have := hb q hq; omega)
        (Nat.lt_of_lt_of_le (el_reg hj) (by have := gf_le s.me; omega))]
      have : (j ∈ l ∧ c.active m j = true) ↔ inBody s.me m j = true := by
        rw [mem_drop_range]; simp [inBody, c]
      by_cases hc : j ∈ l ∧ c.active m j = true
      · rw [if_pos hc, if_pos (this.1 hc)]
      · rw [if_neg hc, if_neg (fun e => hc (this.2 e))]
    · rw [hreg]
      have hf := group_fits hd
      apply vreg_setEls
      intro q hq
      have := hb q hq
      generalize q / (4096 / c.ew) = x at *
      have : c.gf = s.me.gf := rfl
      omega
  · have hf : (s.onMe (fun _ => { k with vstart := 0, resumed := none, pc := s.pc + 4, waiting := false })).me.fill = k.fill := by
      rw [me_onMe]
    have hfo (r : Nat) : Ctx.fillOf (s.onMe (fun _ => { k with vstart := 0, resumed := none, pc := s.pc + 4, waiting := false })).me r
        = k.fillOf r := by unfold Ctx.fillOf; rw [hf]
    have hfit := group_fits hd
    have hcg : c.gf = s.me.gf := rfl
    refine ⟨fun j hj => ?_, fun r hr hout => ?_⟩
    · rw [hfo, fillGroup_fill hge _ _ (by omega), hgf, if_pos (by omega), hew, hvl]
      have : d.toNat + j - d.toNat = j := by omega
      rw [this]
    · rw [hfo, fillGroup_fill hge _ _ hr, hgf, if_neg (by omega), he2]
      rfl
  · rw [me_onMe, hk, he2]
  · intro j
    have : (s.onMe (fun _ => { k with vstart := 0, resumed := none, pc := s.pc + 4, waiting := false })).me.fcsr = e.fcsr := by
      rw [me_onMe, hk]
    rw [this]
    show (l.foldl (turn c.ew d.toNat (c.active m) val) c).fcsr.getLsbD j = true ↔ _
    rw [turns_flags]
    constructor
    · rintro (h | ⟨q, hq, ha, hb⟩)
      · exact .inl h
      · refine .inr ⟨q, ?_⟩
        rw [mem_drop_range] at hq
        have ha' : s.me.active m q = true := ha
        exact ⟨by simp [inBody, ha', show s.me.vstart.toNat ≤ q from hq.1, show q < s.me.vl.toNat from hq.2], hb⟩
    · rintro (h | ⟨q, hq, hb⟩)
      · exact .inl h
      · refine .inr ⟨q, ?_, ?_, hb⟩
        · rw [mem_drop_range]; simp [inBody] at hq; exact ⟨hq.1.1, hq.1.2⟩
        · simp [inBody] at hq; exact hq.2

end Sys2Proof.Machine
end

