-- ==== Sys2Proof/Tests/Slice0.lean ====
section
/-! SUPPORT. Tests: ill-formed terms are refused, words of the spec decode to what they say, concrete states meet the
hypotheses of the statements, and single steps give what the rules say. -/

section Slice0Tests

open Sys2Proof Sys2Proof.Machine

set_option maxRecDepth 20000
set_option Elab.async false

/-! ### Small states -/

/-- Thread 0.n running at PC 0 with the first gigabyte mapped to memory, every permission, and hosts admitted. -/
def Sys2Proof.testBase : State :=
  let s := State.reset.placeBytes []
  { s with plat := { s.plat with toSet := [] } }

/-- The same with the thread's context changed. -/
def Sys2Proof.testCtx (f : Ctx → Ctx) : State := testBase.onMe f

/-- The same with core 0 changed. -/
def Sys2Proof.testCore (f : Core → Core) : State := testBase.onCore 0 f

/-- The state after an instruction. -/
def Sys2Proof.testAfter (i : Instr) (s : State) : State :=
  match exec i s with
  | .next t => t
  | _ => s

/-- The leaf that maps an address of the first gigabyte. -/
def Sys2Proof.testLeaf (va : Nat) : Leaf := ⟨loadBase + va, false, true, true, true, 0, 2⟩

/-- Something but the moving thread may hold a line. -/
def Sys2Proof.lineHeld (s : State) (l : Nat) : Bool :=
  s.host.orphans.contains l || (hostPortOf (l * 128)).isSome || (peerPortOf (l * 128)).isSome || s.flipping (l / 32) ||
    s.owningLine l || (Tbl.find s.host.lines l).isSome

theorem test_lineFree {s : State} {l : Nat} (h : lineHeld s l = false) : LineFree s l := by
  simp only [lineHeld, Bool.or_eq_false_iff, Option.isSome_eq_false_iff, Option.isNone_iff_eq_none] at h
  obtain ⟨⟨⟨⟨⟨a, b⟩, c⟩, d⟩, o⟩, e⟩ := h
  refine ⟨a, ?_, d, o, e⟩
  rw [b, c]; trivial

theorem test_linesFree {s : State} {ls : List Nat} (h : ls.all (fun l => !lineHeld s l) = true) : ∀ l ∈ ls, LineFree s l :=
  fun l hl => test_lineFree (by have := List.all_eq_true.1 h l hl; simpa using this)

/-- Bytes are free when no transaction is open and their lines are. -/
theorem test_bytesFree {s : State} {pa n : Nat} (h : s.txs = [])
    (hf : (linesOf pa n).all (fun l => !lineHeld s l) = true) : BytesFree s pa n := ⟨h, test_linesFree hf⟩

/-- The parts of a scalar access that can be performed. -/
theorem test_reach {s : State} {va : Word} {n : Nat} {k : Need} {l : Leaf}
    (h : va.toNat % n = 0 ∧ regionOf va = none ∧ (s.walkLines s.me.tenant va).all (fun m => !lineHeld s m) = true ∧
      s.translate s.me.tenant va k = .ok l ∧ s.txs = [] ∧ (linesOf l.pa n).all (fun m => !lineHeld s m) = true ∧
      s.poisoned l.pa n = false) : Reachable s va n k l :=
  ⟨h.1, h.2.1, test_linesFree h.2.2.1, h.2.2.2.1, test_bytesFree h.2.2.2.2.1 h.2.2.2.2.2.1, fun _ => h.2.2.2.2.2.2⟩

/-- An image with a BUF tile and an AGEN, whose entry 0 binds no port. -/
def Sys2Proof.testImage : Image :=
  ⟨0, 0, 0, 0xFFFF, [0x80000000#32], List.replicate 6 ⟨0xFFFF, []⟩, [⟨1, false, 0xFFFF, 0, 0, 0⟩], [⟨34, [], [], []⟩]⟩

/-- Its position, with every packet there. -/
def Sys2Proof.testPos : Position := { Position.ofImage testImage 0x1000 [] with arrived := 8 }

/-- The first address of the tile window, and of the queue ports. -/
def Sys2Proof.tileVa : Word := 0xFFFFFE0000000000#64
def Sys2Proof.queueVa : Word := 0xFFFFFF0000000000#64

/-- A transaction that has read and written nothing. -/
def Sys2Proof.testTx : Tx := ⟨4, 1, [], [], [], [], [], false, false⟩

/-- The thread inside that transaction. -/
def Sys2Proof.testInTx : State :=
  { testCtx (fun c => { c with status := 0b10000#5 }) with txs := [(⟨0, .n⟩, testTx)] }

/-! ### Ill-formed terms, and words that are no instruction -/

/-- A term for each check of the scalar forms. -/
theorem test_illScalar :
    (Instr.ori 0 0 1).ill = some .otherInstruction ∧ (Instr.fadd 1 2 3 3).ill = some .badFormat ∧
    (Instr.fsqrt 1 2 7).ill = some .badFormat ∧ (Instr.fcmpLe 1 2 3 4).ill = some .badFormat ∧
    (Instr.fcvt 1 2 3 0).ill = some .badFormat ∧ (Instr.fcvt 1 2 1 1).ill = some .equalFields ∧
    (Instr.fcvt 1 2 5 6).ill = some .badFormat ∧ (Instr.ld 1 2 7 0).ill = some .badWidth ∧
    (Instr.lda 1 2 7 0 0).ill = some .badWidth ∧ (Instr.ldc 1 2 7 0).ill = some .badWidth ∧
    (Instr.st 1 2 1 0).ill = some .badWidth ∧ (Instr.stl 1 2 5 0 0).ill = some .badWidth ∧
    (Instr.srd 1 4).ill = some .badSreg ∧ (Instr.swr 1 0x7FF).ill = some .badSreg ∧
    (Instr.sset 1 0x22).ill = some .badSreg ∧ (Instr.sclr 1 5).ill = some .badSreg ∧
    (Instr.fence 0 3).ill = some .badKind ∧ (Instr.fencex 0 1 0).ill = some .badKind ∧ (Instr.fencex 1 0 0).ill = some .badKind := by
  decide

/-- A term for each check of the vector, matrix and scheduling forms, and of the agents' steps. -/
theorem test_illVector :
    (Instr.vldm 8 1).ill = some .badRegister ∧ (Instr.vstm 8 1).ill = some .badRegister ∧
    (Instr.vldt 1 2 3 8 4 0 0).ill = some .badRegister ∧ (Instr.vcmp 1 2 3 0 0 10).ill = some .unassignedFn ∧
    (Instr.vcmp 8 2 3 0 0 0).ill = some .badRegister ∧ (Instr.vfcmp 1 2 3 0 0 6).ill = some .unassignedFn ∧
    (Instr.mand 8 1 1).ill = some .badRegister ∧ (Instr.mor 1 8 1).ill = some .badRegister ∧
    (Instr.mandn 1 1 8).ill = some .badRegister ∧ (Instr.mpop 1 8 0).ill = some .badRegister ∧
    (Instr.mfirst 1 8 0).ill = some .badRegister ∧ (Instr.viota 1 8 0).ill = some .badRegister ∧
    (Instr.vcvt 1 2 0 0 9 0).ill = some .badFormat ∧ (Instr.vcvt 1 2 0 0 1 1).ill = some .equalFields ∧
    (Instr.vcvt 1 2 3 0 1 0).ill = some .reservedField ∧ (Instr.lds 1 2 3 4).ill = some .badFormat ∧
    (Instr.ldsC 7 2 3 4).ill = some .badFormat ∧ (Instr.ldsl 1 2 3 0 4 1 0 0 0).ill = some .badFormat ∧
    (Instr.ldsl 1 2 3 8 4 0 0 0 0).ill = some .badRegister ∧ (Instr.ldslR 1 8 0).ill = some .badRegister ∧
    (Instr.mmab 1 2 3 8 4 0 0 0 0).ill = some .badRegister ∧ (Instr.qpop 2 2 1).ill = some .equalFields ∧
    (Instr.qpopNw 1 2 2).ill = some .equalFields ∧ (Instr.tenantScopeLimit 17 0).ill = some .badOperand ∧
    (Instr.functionLevelReset 17).ill = some .badOperand := by
  decide

/-- R58, R59, R61, R43: unassigned opcodes and non-zero reserved fields. -/
theorem test_decodeRefuses :
    decode 0x00000000#32 0 = .error .unassignedMajor ∧ decode 0xFC000000#32 0 = .error .unassignedMajor ∧
    decode 0x38000000#32 0 = .error .unassignedMajor ∧ decode 0x080007FF#32 0 = .error .unassignedFn ∧
    decode 0x07E00000#32 0 = .error .unassignedFn ∧ decode 0xF8000000#32 0 = .error .unassignedLop ∧
    decode 0x04400001#32 0 = .error .reservedField ∧ decode 0x28610000#32 0 = .error .reservedField ∧
    decode 0x04640004#32 0 = .error .badSreg ∧ decode 0x6061E008#32 0 = .error .badWidth ∧
    decode 0xF8312345#32 0x80#32 = .error .reservedField := by decide

/-- R128: `ori g0, g0, 1` is PAUSE, and a word of g0 with another immediate is not. -/
theorem test_decodePause : decode 0x14000001#32 0 = .ok .pause ∧ decode 0x14000002#32 0 = .ok (.ori 0 0 2) := by decide

/-- The encoder gives the spec's words back. -/
theorem test_encode : encode (.add 3 9 21) = some (.one 0x0869A800#32) ∧ encode .pause = some (.one 0x14000001#32) ∧
    encode (.ldslR 3 5 0xA5) = some (.two 0xF8518005#32 0x0000A500#32) ∧ encode .clockTick = none := by decide

/-! ### Words of the spec (R57 to R59): every instruction of a thread from a word of the encoding tables -/

theorem test_decodeImmediateArithmetic :
    decode 0x0C69A5C3#32 0 = .ok (.addi 3 9 42435) ∧
    decode 0x1069A5C3#32 0 = .ok (.andi 3 9 42435) ∧
    decode 0x1469A5C3#32 0 = .ok (.ori 3 9 42435) ∧
    decode 0x14000001#32 0 = .ok .pause ∧
    decode 0x1869A5C3#32 0 = .ok (.xori 3 9 42435) ∧
    decode 0x1C69A5C3#32 0 = .ok (.slti 3 9 42435) ∧
    decode 0x2069A5C3#32 0 = .ok (.sltiu 3 9 42435) ∧
    decode 0x2469002B#32 0 = .ok (.slli 3 9 43) ∧
    decode 0x2469012B#32 0 = .ok (.srli 3 9 43) ∧
    decode 0x2469022B#32 0 = .ok (.srai 3 9 43) ∧
    decode 0x2860A5C3#32 0 = .ok (.lui 3 42435) ∧
    decode 0x2C60A5C3#32 0 = .ok (.pchi 3 42435) := by decide

theorem test_decodeRegisterArithmetic :
    decode 0x0869A800#32 0 = .ok (.add 3 9 21) ∧
    decode 0x0869A801#32 0 = .ok (.sub 3 9 21) ∧
    decode 0x0869A802#32 0 = .ok (.and 3 9 21) ∧
    decode 0x0869A803#32 0 = .ok (.or 3 9 21) ∧
    decode 0x0869A804#32 0 = .ok (.xor 3 9 21) ∧
    decode 0x0869A805#32 0 = .ok (.andn 3 9 21) ∧
    decode 0x0869A808#32 0 = .ok (.sll 3 9 21) ∧
    decode 0x0869A809#32 0 = .ok (.srl 3 9 21) ∧
    decode 0x0869A80A#32 0 = .ok (.sra 3 9 21) ∧
    decode 0x0869A810#32 0 = .ok (.slt 3 9 21) ∧
    decode 0x0869A811#32 0 = .ok (.sltu 3 9 21) ∧
    decode 0x0869A812#32 0 = .ok (.min 3 9 21) ∧
    decode 0x0869A813#32 0 = .ok (.max 3 9 21) ∧
    decode 0x0869A814#32 0 = .ok (.minu 3 9 21) ∧
    decode 0x0869A815#32 0 = .ok (.maxu 3 9 21) ∧
    decode 0x08690020#32 0 = .ok (.clz 3 9) ∧
    decode 0x08690021#32 0 = .ok (.ctz 3 9) ∧
    decode 0x08690022#32 0 = .ok (.pop 3 9) ∧
    decode 0x08690024#32 0 = .ok (.sextB 3 9) ∧
    decode 0x08690025#32 0 = .ok (.sextH 3 9) ∧
    decode 0x08690026#32 0 = .ok (.sextW 3 9) ∧
    decode 0x08690027#32 0 = .ok (.zextW 3 9) := by decide

theorem test_decodeMultiplyDivideFloat :
    decode 0x3069A800#32 0 = .ok (.mul 3 9 21) ∧
    decode 0x3069A801#32 0 = .ok (.mulh 3 9 21) ∧
    decode 0x3069A802#32 0 = .ok (.mulhu 3 9 21) ∧
    decode 0x3069A803#32 0 = .ok (.mulhsu 3 9 21) ∧
    decode 0x3069A804#32 0 = .ok (.div 3 9 21) ∧
    decode 0x3069A805#32 0 = .ok (.divu 3 9 21) ∧
    decode 0x3069A806#32 0 = .ok (.rem 3 9 21) ∧
    decode 0x3069A807#32 0 = .ok (.remu 3 9 21) ∧
    decode 0x3469A808#32 0 = .ok (.fadd 3 9 21 1) ∧
    decode 0x3469A848#32 0 = .ok (.fsub 3 9 21 1) ∧
    decode 0x3469A888#32 0 = .ok (.fmul 3 9 21 1) ∧
    decode 0x3469A8C8#32 0 = .ok (.fma 3 9 21 1) ∧
    decode 0x3469A908#32 0 = .ok (.fdiv 3 9 21 1) ∧
    decode 0x34690148#32 0 = .ok (.fsqrt 3 9 1) ∧
    decode 0x3469A988#32 0 = .ok (.fmin 3 9 21 1) ∧
    decode 0x3469A9C8#32 0 = .ok (.fmax 3 9 21 1) ∧
    decode 0x3469AA08#32 0 = .ok (.fcmpEq 3 9 21 1) ∧
    decode 0x3469AA48#32 0 = .ok (.fcmpLt 3 9 21 1) ∧
    decode 0x3469AA88#32 0 = .ok (.fcmpLe 3 9 21 1) ∧
    decode 0x346902D0#32 0 = .ok (.fcvt 3 9 2 0) := by decide

theorem test_decodeBranches :
    decode 0x4135A5C3#32 0 = .ok (.beq 9 21 42435) ∧
    decode 0x4535A5C3#32 0 = .ok (.bne 9 21 42435) ∧
    decode 0x4935A5C3#32 0 = .ok (.blt 9 21 42435) ∧
    decode 0x4D35A5C3#32 0 = .ok (.bge 9 21 42435) ∧
    decode 0x5135A5C3#32 0 = .ok (.bltu 9 21 42435) ∧
    decode 0x5535A5C3#32 0 = .ok (.bgeu 9 21 42435) ∧
    decode 0x5860A5C3#32 0 = .ok (.jal 3 42435) ∧
    decode 0x5C69A5C3#32 0 = .ok (.jalr 3 9 42435) := by decide

theorem test_decodeMemory :
    decode 0x6069D555#32 0 = .ok (.ld 3 9 6 5461) ∧
    decode 0x6429D555#32 0 = .ok (.st 1 9 6 5461) ∧
    decode 0x6869DD55#32 0 = .ok (.lda 3 9 6 3 1365) ∧
    decode 0x6C29DD55#32 0 = .ok (.stl 1 9 6 3 1365) ∧
    decode 0x7069D555#32 0 = .ok (.ldc 3 9 6 5461) := by decide

theorem test_decodeAtomics :
    decode 0x7469A87E#32 0 = .ok (.amoAdd 3 9 21 1 3 1 1) ∧
    decode 0x7469A8FE#32 0 = .ok (.amoSwap 3 9 21 1 3 1 1) ∧
    decode 0x7469A97E#32 0 = .ok (.amoAnd 3 9 21 1 3 1 1) ∧
    decode 0x7469A9FE#32 0 = .ok (.amoOr 3 9 21 1 3 1 1) ∧
    decode 0x7469AA7E#32 0 = .ok (.amoXor 3 9 21 1 3 1 1) ∧
    decode 0x7469AAFE#32 0 = .ok (.amoMin 3 9 21 1 3 1 1) ∧
    decode 0x7469AB7E#32 0 = .ok (.amoMax 3 9 21 1 3 1 1) ∧
    decode 0x7469ABFE#32 0 = .ok (.amoMinu 3 9 21 1 3 1 1) ∧
    decode 0x7469AC7E#32 0 = .ok (.amoMaxu 3 9 21 1 3 1 1) ∧
    decode 0x7469ACFE#32 0 = .ok (.amoCas 3 9 21 1 3 1 1) := by decide

theorem test_decodeSystem :
    decode 0x0400A5C3#32 0 = .ok (.ecall 42435) ∧
    decode 0x0420A5C3#32 0 = .ok (.brk 42435) ∧
    decode 0x04400000#32 0 = .ok .tret ∧
    decode 0x04630018#32 0 = .ok (.srd 3 24) ∧
    decode 0x04890018#32 0 = .ok (.swr 9 24) ∧
    decode 0x04A90018#32 0 = .ok (.sset 9 24) ∧
    decode 0x04C90018#32 0 = .ok (.sclr 9 24) ∧
    decode 0x04E0A5C3#32 0 = .ok (.wfi 42435) ∧
    decode 0x05000000#32 0 = .ok .isync ∧
    decode 0x0600000A#32 0 = .ok (.fence 2 2) ∧
    decode 0x0635280C#32 0 = .ok (.fencex 21 5 3) ∧
    decode 0x065636B6#32 0 = .ok (.waitc 11 1 11 5 11) := by decide

theorem test_decodeVectorSetupAndMemory :
    decode 0x8069A800#32 0 = .ok (.vset 3 9 21) ∧
    decode 0x8069001F#32 0 = .ok (.vseti 3 9 3 3) ∧
    decode 0x80690020#32 0 = .ok (.vfill 3 9) ∧
    decode 0x80690030#32 0 = .ok (.vfillR 3 9) ∧
    decode 0x84690510#32 0 = .ok (.vld 3 9 5 1) ∧
    decode 0x8469AD20#32 0 = .ok (.vlds 3 9 21 5) ∧
    decode 0x8469AD43#32 0 = .ok (.vldx 3 9 21 5 3) ∧
    decode 0x84690570#32 0 = .ok (.vldff 3 9 5 1) ∧
    decode 0x84690580#32 0 = .ok (.vldc 3 9 5) ∧
    decode 0x8469ADB1#32 0 = .ok (.vldb 3 9 21 5 1 1) ∧
    decode 0x8469ADB3#32 0 = .ok (.vldbC 3 9 21 5 1 1) ∧
    decode 0x846900C0#32 0 = .ok (.vldm 3 9) ∧
    decode 0x88290510#32 0 = .ok (.vst 1 9 5 1) ∧
    decode 0x8829AD20#32 0 = .ok (.vsts 1 9 21 5) ∧
    decode 0x8829AD43#32 0 = .ok (.vstx 1 9 21 5 3) ∧
    decode 0x8829ADB1#32 0 = .ok (.vstb 1 9 21 5 1 1) ∧
    decode 0x882900C0#32 0 = .ok (.vstm 1 9) := by decide

theorem test_decodeVectorInteger :
    decode 0x8C69AD80#32 0 = .ok (.vadd 3 9 21 5 1) ∧
    decode 0x8C69AD81#32 0 = .ok (.vsub 3 9 21 5 1) ∧
    decode 0x8C69AD82#32 0 = .ok (.vmul 3 9 21 5 1) ∧
    decode 0x8C69AD83#32 0 = .ok (.vmulh 3 9 21 5 1) ∧
    decode 0x8C69AD84#32 0 = .ok (.vdiv 3 9 21 5 1) ∧
    decode 0x8C69AD85#32 0 = .ok (.vrem 3 9 21 5 1) ∧
    decode 0x8C69AD86#32 0 = .ok (.vmin 3 9 21 5 1) ∧
    decode 0x8C69AD87#32 0 = .ok (.vmax 3 9 21 5 1) ∧
    decode 0x8C69AD88#32 0 = .ok (.vminu 3 9 21 5 1) ∧
    decode 0x8C69AD89#32 0 = .ok (.vmaxu 3 9 21 5 1) ∧
    decode 0x8C69AD8A#32 0 = .ok (.vand 3 9 21 5 1) ∧
    decode 0x8C69AD8B#32 0 = .ok (.vor 3 9 21 5 1) ∧
    decode 0x8C69AD8C#32 0 = .ok (.vxor 3 9 21 5 1) ∧
    decode 0x8C69AD8D#32 0 = .ok (.vsll 3 9 21 5 1) ∧
    decode 0x8C69AD8E#32 0 = .ok (.vsrl 3 9 21 5 1) ∧
    decode 0x8C69AD8F#32 0 = .ok (.vsra 3 9 21 5 1) := by decide

theorem test_decodeVectorFloatAndConvert :
    decode 0x9069AD80#32 0 = .ok (.vfadd 3 9 21 5 1) ∧
    decode 0x9069AD81#32 0 = .ok (.vfsub 3 9 21 5 1) ∧
    decode 0x9069AD82#32 0 = .ok (.vfmul 3 9 21 5 1) ∧
    decode 0x9069AD83#32 0 = .ok (.vfma 3 9 21 5 1) ∧
    decode 0x9069AD84#32 0 = .ok (.vfnma 3 9 21 5 1) ∧
    decode 0x9069AD85#32 0 = .ok (.vfdiv 3 9 21 5 1) ∧
    decode 0x90690506#32 0 = .ok (.vfsqrt 3 9 5) ∧
    decode 0x9069AD87#32 0 = .ok (.vfmin 3 9 21 5 1) ∧
    decode 0x9069AD88#32 0 = .ok (.vfmax 3 9 21 5 1) ∧
    decode 0x90690509#32 0 = .ok (.vfexp2 3 9 5) ∧
    decode 0x9C69AD81#32 0 = .ok (.vcvt 3 9 21 5 8 1) := by decide

theorem test_decodeCompareMask :
    decode 0x9869AD89#32 0 = .ok (.vcmp 3 9 21 5 1 9) ∧
    decode 0x9869AD95#32 0 = .ok (.vfcmp 3 9 21 5 1 5) ∧
    decode 0x98662820#32 0 = .ok (.mand 3 6 5) ∧
    decode 0x98662821#32 0 = .ok (.mor 3 6 5) ∧
    decode 0x98662822#32 0 = .ok (.mxor 3 6 5) ∧
    decode 0x98662823#32 0 = .ok (.mandn 3 6 5) ∧
    decode 0x98660530#32 0 = .ok (.mpop 3 6 5) ∧
    decode 0x98660531#32 0 = .ok (.mfirst 3 6 5) := by decide

theorem test_decodePermute :
    decode 0x9469AD00#32 0 = .ok (.vslideup 3 9 21 5) ∧
    decode 0x9469AD01#32 0 = .ok (.vslidedn 3 9 21 5) ∧
    decode 0x9469AD02#32 0 = .ok (.vperm 3 9 21 5) ∧
    decode 0x9469AD03#32 0 = .ok (.vcompress 3 9 21 5) ∧
    decode 0x94690504#32 0 = .ok (.vexpand 3 9 5) ∧
    decode 0x94660505#32 0 = .ok (.viota 3 6 5) ∧
    decode 0x9469AD86#32 0 = .ok (.vmerge 3 9 21 5 1) ∧
    decode 0x94690508#32 0 = .ok (.vbcast 3 9 5) ∧
    decode 0x9469A809#32 0 = .ok (.vext 3 9 21) ∧
    decode 0x9469A80A#32 0 = .ok (.vins 3 9 21) ∧
    decode 0x9469AD10#32 0 = .ok (.vredsum 3 9 21 5) ∧
    decode 0x9469AD11#32 0 = .ok (.vredmin 3 9 21 5) ∧
    decode 0x9469AD12#32 0 = .ok (.vredmax 3 9 21 5) ∧
    decode 0x9469AD13#32 0 = .ok (.vfredsum 3 9 21 5) ∧
    decode 0x9469AD14#32 0 = .ok (.vfredmin 3 9 21 5) ∧
    decode 0x9469AD15#32 0 = .ok (.vfredmax 3 9 21 5) := by decide

theorem test_decodeMatrix :
    decode 0xC129A82B#32 0 = .ok (.lds 9 9 21 43) ∧
    decode 0xC129A86B#32 0 = .ok (.ldsC 9 9 21 43) ∧
    decode 0xC0600080#32 0 = .ok (.pswap 3) ∧
    decode 0xC009A8EB#32 0 = .ok (.mmavL6 9 21 43) ∧
    decode 0xC009A92B#32 0 = .ok (.mmavI8 9 21 43) ∧
    decode 0xC009A96B#32 0 = .ok (.mmavBf16 9 21 43) ∧
    decode 0xC009A9AB#32 0 = .ok (.mzero 9 21 43) ∧
    decode 0xC069AA00#32 0 = .ok (.vouter 3 9 21) := by decide

theorem test_decodeFactor :
    decode 0xC409A82B#32 0 = .ok (.finit 9 21 43) ∧
    decode 0xC409A86B#32 0 = .ok (.fscale 9 21 43) ∧
    decode 0xC409A8AB#32 0 = .ok (.fupd 9 21 43) ∧
    decode 0xC409A8EB#32 0 = .ok (.fdnd 9 21 43) ∧
    decode 0xC469A92B#32 0 = .ok (.fdndS 3 9 21 43) ∧
    decode 0xC469016B#32 0 = .ok (.fsolt 3 9 43) ∧
    decode 0xC46901AB#32 0 = .ok (.fsoln 3 9 43) ∧
    decode 0xC46901EB#32 0 = .ok (.fdiag 3 9 43) := by decide

theorem test_decodeFabric :
    decode 0xC8469AD0#32 0 = .ok (.fx 1 3 9 21 5) ∧
    decode 0xCC690000#32 0 = .ok (.fxload 3 9) ∧
    decode 0xCC095841#32 0 = .ok (.fxbind 9 11 1) ∧
    decode 0xCC000081#32 0 = .ok (.fxunbind 1) ∧
    decode 0xCC6000C1#32 0 = .ok (.fxstat 3 1) ∧
    decode 0xCC000100#32 0 = .ok .fxdrop ∧
    decode 0xCC090140#32 0 = .ok (.fxsave 9) ∧
    decode 0xCC090180#32 0 = .ok (.fxrest 9) := by decide

theorem test_decodeTransfer :
    decode 0xD069A82B#32 0 = .ok (.copy 3 9 21 43) ∧
    decode 0xD069A86B#32 0 = .ok (.drain 3 9 21 43) ∧
    decode 0xD069A8AB#32 0 = .ok (.drainR 3 9 21 43) ∧
    decode 0xD06000EB#32 0 = .ok (.hwait 3 43) ∧
    decode 0xD060012B#32 0 = .ok (.hrel 3 43) ∧
    decode 0xD000A96B#32 0 = .ok (.hrelP 21 43) ∧
    decode 0xD06001AB#32 0 = .ok (.hstat 3 43) ∧
    decode 0xD069A9C0#32 0 = .ok (.sinit 3 9 21) ∧
    decode 0xD069AA00#32 0 = .ok (.swait 3 9 21) ∧
    decode 0xD069AA40#32 0 = .ok (.pfill 3 9 21) ∧
    decode 0xD060028B#32 0 = .ok (.pclose 3 11) := by decide

theorem test_decodeBankTransaction :
    decode 0xD460000B#32 0 = .ok (.alloc 3 11) ∧
    decode 0xD409004B#32 0 = .ok (.free 9 11) ∧
    decode 0xD8600000#32 0 = .ok (.tbegin 3) ∧
    decode 0xD8000040#32 0 = .ok .tend ∧
    decode 0xD80000AB#32 0 = .ok (.tabort 43) ∧
    decode 0xD86000C0#32 0 = .ok (.tstat 3) := by decide

theorem test_decodeSchedule :
    decode 0xDC690000#32 0 = .ok (.launch 3 9) ∧
    decode 0xDC09A855#32 0 = .ok (.qpush 9 21 21) ∧
    decode 0xDC69A880#32 0 = .ok (.qpop 3 9 21) ∧
    decode 0xDC69A881#32 0 = .ok (.qpopNw 3 9 21) ∧
    decode 0xDC0000D5#32 0 = .ok (.qclose 21) ∧
    decode 0xDC000100#32 0 = .ok .retire ∧
    decode 0xDC000140#32 0 = .ok .yield ∧
    decode 0xDC690183#32 0 = .ok (.cancel 3 9 3) ∧
    decode 0xDC6901C3#32 0 = .ok (.cwait 3 9 3) ∧
    decode 0xDC6901C7#32 0 = .ok (.cwaitNw 3 9 3) := by decide

/-- R59, R170, R172, R251, R269, R274, R314: the long forms. -/
theorem test_decodeLong :
    decode 0xF831A6A5#32 0x88000009#32 = .ok (.vldt 3 9 21 5 17 2 1) ∧
    decode 0xF841A6A5#32 0x88006AD5#32 = .ok (.mmab 3 9 21 5 17 1 2 0x2B 0x15) ∧
    decode 0xF851A6A5#32 0x8A40A5EB#32 = .ok (.ldsl 3 9 21 5 17 9 0xA5 1 0x2B) ∧
    decode 0xF8518005#32 0x0000A500#32 = .ok (.ldslR 3 5 0xA5) ∧
    decode 0xF811A6A5#32 0x8F80006B#32 = .ok (.fxl 3 9 21 5 17 30 6 11) ∧
    decode 0xF82026A5#32 0x88000002#32 = .ok (.copyl 9 21 5 17 2) := by decide

/-! ### What the statements assume can be met: encoding and steps -/

theorem witness_WordsDecodeToTheirInstruction :
    (Instr.mmab 31 1 2 7 4 1 3 63 0).WellFormed ∧ agentStep (.mmab 31 1 2 7 4 1 3 63 0) = false := by decide

theorem witness_DecodedWordsAreTheirInstructions : decode 0x08641000#32 0 = .ok (.add 3 4 2) := by decide

/-- A word at the PC. -/
def Sys2Proof.testWord (w : Nat) : State := testBase.withFetchWord 32 w

theorem witness_StepRunsTheDecodedInstruction :
    (let s := testWord 0x08641000
     s.agenda = [] ∧ s.me.run = .running ∧ s.pendingStep s.cur = none ∧ s.fetchWords s.cur s.pc = .ok (0x08641000#32, 0) ∧
      decode 0x08641000#32 0 = .ok (.add 3 4 2) ∧ s.me.fxBlocks (.add 3 4 2) = false ∧ s.lanesTaken (.add 3 4 2) = false ∧
      s.storesBlock (.add 3 4 2) = false ∧ s.wordsWait s.cur s.pc = none) ∧
    (let s : State := { testWord 0x08641000 with agenda := [.run ⟨0, .n⟩] }
     let u : State := { s with agenda := [], cur := ⟨0, .n⟩ }
     (∃ t as, s.agenda = .run t :: as ∧ u = { s with agenda := as, cur := t }) ∧ u.me.run = .running ∧
      u.pendingStep u.cur = none ∧ u.fetchWords u.cur u.pc = .ok (0x08641000#32, 0)) ∧
    (let s : State := { testBase with agenda := [.event .clockTick] }
     s.agenda = .event .clockTick :: [] ∧ agentStep .clockTick = true) ∧
    ((testBase.ctx ⟨0, .n⟩).resumed = none ∧ (testBase.ctx ⟨0, .n⟩).estep = false) ∧
    (let s := testWord 0
     s.agenda = [] ∧ s.me.run = .running ∧ s.pendingStep s.cur = none ∧ s.txs = [] ∧ s.fetchWords s.cur s.pc = .ok (0, 0) ∧
      decode 0 0 = .error .unassignedMajor) ∧
    (let s := testCtx (fun c => { c with pc := 0x40000000#64 })
     s.agenda = [] ∧ s.me.run = .running ∧ s.pendingStep s.cur = none ∧ s.txs = [] ∧
      s.fetchWords s.cur s.pc = .error (.page, 0x40000000#64, true)) := by
  refine ⟨by decide, ⟨⟨⟨0, .n⟩, [], rfl, rfl⟩, by decide⟩, by decide, by decide, by decide, by decide⟩

/-! ### Scalar instructions -/

theorem witness_AluResults : (31#5 : BitVec 5) ≠ 0 ∧ (30#5 : BitVec 5) ≠ 31 := by decide

theorem witness_CountsAndImmediateResults : (3 : Nat) ≤ 64 ∧ (3 : Nat) < 64 := by decide

theorem witness_JumpsLinkAndTrap :
    (testBase.G 1 + (4#16).signExtend 64).toNat % 4 = 0 ∧ (testBase.G 1 + (2#16).signExtend 64).toNat % 4 ≠ 0 := by decide

theorem witness_FpResults : isFpType 2 = true ∧ (Instr.fcvt 1 2 4 2).WellFormed ∧ (Instr.fcvt 1 2 0 5).WellFormed ∧
    exactValue (typeFmt 0) 0x3F80 = some 1 ∧ exactValue (typeFmt 0) 0x8000 = some 0 ∧ (0 : ℚ) < 1 ∧ 4 ≤ (5#3).toNat ∧
    (let f := typeFmt 0
     let minus (v : Nat) : Bool := v / 2 ^ (f.eb + f.mb) % 2 == 1
     let special (v : Nat) : Prop := v / 2 ^ f.mb % 2 ^ f.eb = 2 ^ f.eb - 1
     isFpType 0 = true ∧ (special 0x7F80 ∧ 0x7F80 % 2 ^ f.mb = 0 ∧ minus 0x7F80 = false) ∧
      (special 0xFF80 ∧ 0xFF80 % 2 ^ f.mb = 0 ∧ minus 0xFF80 = true) ∧ (¬special 0x3F80 ∧ 0x3F80 % 2 ^ (f.eb + f.mb) ≠ 0) ∧
      0x8000 % 2 ^ (f.eb + f.mb) = 0 ∧ (special 0x7F81 ∧ 0x7F81 % 2 ^ f.mb ≠ 0 ∧ 0x7F81 % 2 ^ f.mb < 2 ^ (f.mb - 1)) ∧
      (special 0x7FC0 ∧ 0x7FC0 % 2 ^ f.mb ≠ 0 ∧ ¬0x7FC0 % 2 ^ f.mb < 2 ^ (f.mb - 1))) := by
  refine ⟨by decide, by decide, by decide, ?_, ?_, by norm_num, by decide, by decide⟩ <;>
    · rw [show typeFmt 0 = ⟨8, 7⟩ from rfl]; norm_num [exactValue]

theorem witness_NanOperandsGiveTheDefaultNan :
    let f := typeFmt 0
    let isNan (v : Nat) : Prop := v / 2 ^ f.mb % 2 ^ f.eb = 2 ^ f.eb - 1 ∧ v % 2 ^ f.mb ≠ 0
    isFpType 0 = true ∧ (isNan 0x7F81 ∧ 0x7F81 % 2 ^ f.mb < 2 ^ (f.mb - 1)) ∧ (isNan 0x7FC1 ∧ ¬ 0x7FC1 % 2 ^ f.mb < 2 ^ (f.mb - 1)) ∧
    (0x7F80 / 2 ^ f.mb % 2 ^ f.eb = 2 ^ f.eb - 1 ∧ 0x7F80 % 2 ^ f.mb = 0) ∧ 0x8000 % 2 ^ (f.eb + f.mb) = 0 ∧
    (0xBF80 / 2 ^ (f.eb + f.mb) % 2 = 1 ∧ 0xBF80 % 2 ^ (f.eb + f.mb) ≠ 0 ∧ ¬ isNan 0xBF80) ∧ 0x60 % 64 = 0x20 := by decide

/-! ### Scalar memory -/

theorem test_reach_both : Reachable testBase 0x100 8 .both (testLeaf 0x100) ∧ Reachable testBase 0x100 8 .read (testLeaf 0x100) ∧
    Reachable testBase 0x107 1 .write (testLeaf 0x107) :=
  ⟨test_reach (by decide), test_reach (by decide), test_reach (by decide)⟩

theorem witness_ScalarLoadsAndStores :
    Reachable testBase (testBase.G 0 + (0x100#13).signExtend 64) (widthBytes 6) .read (testLeaf 0x100) ∧
    Reachable testBase (testBase.G 0 + (0x100#11).signExtend 64) (widthBytes 6) .read (testLeaf 0x100) ∧
    Memory.wf memDefault testBase.mem = true ∧
    Reachable testBase (testBase.G 0 + (0x107#13).signExtend 64) (widthBytes 0) .write (testLeaf 0x107) ∧
    Reachable testBase (testBase.G 0 + (0x107#11).signExtend 64) (widthBytes 0) .write (testLeaf 0x107) :=
  ⟨test_reach_both.2.1, test_reach_both.2.1, by decide, test_reach_both.2.2, test_reach_both.2.2⟩

theorem witness_AtomicResults : testBase.me.txa = false ∧ Memory.wf memDefault testBase.mem = true ∧
    Reachable (testCtx (fun c => c.setG 1 0x100)) ((testCtx (fun c => c.setG 1 0x100)).G 1) 8 .both (testLeaf 0x100) :=
  ⟨by decide, by decide, test_reach (by decide)⟩

theorem witness_MisalignedAndTileAccesses :
    (testBase.G 0 + (1#13).signExtend 64).toNat % widthBytes 2 ≠ 0 ∧
    (let s := testCtx (fun c => c.setG 1 4)
     s.me.txa = false ∧ (s.G 1).toNat % amoBytes 1 ≠ 0) ∧
    (let s := testCtx (fun c => { c.setG 1 (tileVa + 0x1FFF8#64) with board := some testPos })
     let va := s.G 1 + (0#13).signExtend 64
     va.toNat % widthBytes 6 = 0 ∧ regionOf va = some .tile ∧ s.me.txa = false ∧ s.me.tilePlace va = some (0, 0x1FFF8) ∧
      s.me.dataWaits 0 0x1FFF8 (widthBytes 6) = false) := by decide

/-- Line 0x800002 pipped, with p pips, pending or live. -/
def Sys2Proof.testPipped (p : BitVec 8) (pend dirty : Bool) : State :=
  testBase.setDir 0x800002 { DirEntry.none with
    st := .pipped, pips := p, pending := pend, dirty := dirty, saved := List.replicate 128 0 }

theorem witness_ConsumingLoads :
    (testBase.me.txa = false ∧ Reachable testBase (testBase.G 0 + (0x100#13).signExtend 64) (widthBytes 6) .read (testLeaf 0x100) ∧
      (testBase.dirOf (lineOf (testLeaf 0x100).pa)).st ≠ .pipped) ∧
    (∀ x ∈ [(1#8, true, false), (1#8, false, false), (1#8, false, true), (2#8, false, false)],
      let s := testPipped x.1 x.2.1 x.2.2
      let e := s.dirOf (lineOf (testLeaf 0x100).pa)
      s.me.txa = false ∧ e.st = .pipped ∧ e.pending = x.2.1 ∧ e.pips = x.1 ∧ e.dirty = x.2.2) ∧
    Reachable (testPipped 1 false true) (testBase.G 0 + (0x100#13).signExtend 64) (widthBytes 6) .read (testLeaf 0x100) ∧
    Reachable (testPipped 1 false false) (testBase.G 0 + (0x100#13).signExtend 64) (widthBytes 6) .read (testLeaf 0x100) ∧
    Reachable (testPipped 2 false false) (testBase.G 0 + (0x100#13).signExtend 64) (widthBytes 6) .read (testLeaf 0x100) ∧
    Reachable (testPipped 1 true false) (testBase.G 0 + (0x100#13).signExtend 64) (widthBytes 6) .read (testLeaf 0x100) := by
  exact ⟨⟨by decide, test_reach_both.2.1, by decide⟩, by decide, test_reach (by decide), test_reach (by decide), test_reach (by decide),
    test_reach (by decide)⟩

/-! ### Traps, special registers, transactions, the bank -/

theorem witness_CallsTrap : testBase.txs = [] ∧ testBase.me.txa = false ∧ testInTx.me.txa = true := by decide

/-- A trap. -/
def Sys2Proof.testTrap : Trap := ⟨20, 5, 0, 4, true, false, 0, [], []⟩

theorem witness_TakingATrap :
    (Memory.wf memDefault testBase.mem = true ∧ testBase.noticeWaits 0 = none ∧ testBase.frameWaits ⟨0, .n⟩ = none ∧
      testBase.framePlace ⟨0, .n⟩ = some loadBase ∧ (testBase.byte (loadBase + 0x20)).getLsbD 0 = false ∧
      ringSlot testBase 0 + 64 ≤ loadBase) ∧
    (let s := testBase.put (loadBase + 0x20) [1]
     s.noticeWaits 0 = none ∧ s.frameWaits ⟨0, .n⟩ = none ∧ s.framePlace ⟨0, .n⟩ = some loadBase ∧
      (s.byte (loadBase + 0x20)).getLsbD 0 = true) ∧
    (let s := testCtx (fun c => { c with tframe := 0x40000000 })
     s.noticeWaits 0 = none ∧ s.frameWaits ⟨0, .n⟩ = none ∧ s.framePlace ⟨0, .n⟩ = none) ∧
    (testBase.txs = [] ∧ ((testCore (fun k => { k with tail := 1024 })).core 0).tail -
      ((testCore (fun k => { k with tail := 1024 })).core 0).head = 1024 ∧
      ((testCore (fun k => { k with notices := [[]] })).core 0).notices ≠ []) := by decide

/-- A thread with a frame at 0x1000 that holds a cause word, FLAGS and the first word of its recorded instruction. -/
def Sys2Proof.testFrame (cause flags word : Nat) : State :=
  (((testCtx (fun c => { c with tframe := 0x1000 })).put (loadBase + 0x1000) (leBytes 8 cause)).put (loadBase + 0x1020)
    (leBytes 4 flags)).put (loadBase + 0x1050) (leBytes 4 word)

theorem test_frame : ∀ x ∈ [(0x10014, 1, 0), (0x10114, 1, 0), (0x10114, 1, 5), (0x10214, 1, 0), (0x10314, 1, 0), (0x10414, 1, 0),
    (0x10514, 1, 0), (0x10614, 1, 0), (0x10014, 0, 0), (0x14, 1, 0)],
    frameFree (testFrame x.1 x.2.1 x.2.2) (loadBase + 0x1000) := by
  intro x hx
  simp only [List.mem_cons, List.not_mem_nil, or_false] at hx
  rcases hx with rfl | rfl | rfl | rfl | rfl | rfl | rfl | rfl | rfl | rfl <;>
    exact ⟨by decide, test_linesFree (by decide), ⟨testLeaf 0x1000, by decide, rfl⟩, test_bytesFree (by decide) (by decide), by decide⟩

theorem witness_SpecialRegisterWrites : isSreg 0x021 = true ∧ isSreg 0x000 = true ∧ testBase.me.txa = false := by decide

theorem witness_WaitsAndFences :
    testBase.me.txa = false ∧
    (∃ f : Ctx → Ctx, (testCtx f).me.txa = false ∧ (testCtx f).me.wfi = some (some 0) ∧ 0 ≤ (testCtx f).clock.toNat) ∧
    (testBase.me.yreq = false ∧ testBase.me.cancel = false ∧ testBase.me.wake = false ∧ testBase.me.wfi = none) ∧
    (testBase.me.ld ≤ (0#4).toNat ∧ (15#4 : BitVec 4) = 15) ∧
    ¬((0#4 : BitVec 4) = 15 ∨ (testCtx (fun c => { c with ld := 1 })).me.ld ≤ (0#4).toNat) :=
  ⟨by decide, ⟨fun c => { c with wfi := some (some 0) }, by decide⟩, by decide, by decide, by decide⟩

theorem witness_TransactionResults :
    testBase.me.txa = false ∧ testInTx.txOf testInTx.cur = some testTx ∧ testInTx.me.txa = true ∧ testInTx.me.estep = false ∧
    testBase.txOf testBase.cur = none ∧
    (let s := testInTx
     let va := s.G 0 + (0x100#13).signExtend 64
     let l := testLeaf 0x100
     let line := l.pa / 128
     va = s.G 0 + (0x100#11).signExtend 64 ∧ va.toNat % widthBytes 6 = 0 ∧ regionOf va = none ∧
      (∀ m ∈ s.walkLines s.me.tenant va, LineFree s m ∧ ∀ p ∈ s.txs, p.2.wset.contains m = false) ∧
      s.translate s.me.tenant va .read = .ok l ∧ s.translate s.me.tenant va .write = .ok l ∧ LineFree s line ∧
      foreign l.pa = false ∧ s.hostBias l.pa = false ∧ s.pipped line = false ∧ (∀ p ∈ s.txs, p.1 = s.cur) ∧ s.poison = [] ∧
      (NatSet.add testTx.rset line).length ≤ 64 ∧ (NatSet.add testTx.wset line).length ≤ 32) := by
  refine ⟨by decide, by decide, by decide, by decide, by decide, by decide, by decide, by decide,
    fun m hm => ⟨test_linesFree (by decide) m hm, ?_⟩, by decide, by decide, test_lineFree (by decide), by decide, by decide, by decide,
    by decide, by decide, by decide, by decide⟩
  intro p hp
  rw [List.mem_singleton.1 hp]
  rfl

/-- The thread's own bank list of class 0 with on-chip blocks and spilled ones. -/
def Sys2Proof.testBank (chip : List Word) (used : Nat) : State :=
  testBase.setBank 0 0 0 { testBase.bank 0 0 0 with chip := chip, used := used }

theorem witness_BankResults :
    testBase.me.txa = false ∧
    ((testBank [128] 0).bank (dieOf (testBank [128] 0).cur.core) (testBank [128] 0).me.tenant 0).chip = [128] ∧
    (let b := (testBank [] 0).bank 0 0 0; b.chip = [] ∧ b.used = 0) ∧ (let b := (testBank [] 3).bank 0 0 0; b.chip = [] ∧ b.used ≠ 0) ∧
    testBase.G 1 = 0 ∧
    (let s := testCtx (fun c => c.setG 1 128)
     s.G 1 ≠ 0 ∧ (s.G 1).toNat % (128 * 2 ^ (0#4).toNat) = 0 ∧ (s.bank 0 0 0).chip.length < 256) ∧
    (let s := testCtx (fun c => c.setG 1 128)
     s.G 1 ≠ 0 ∧ (s.G 1).toNat % (128 * 2 ^ (1#4).toNat) ≠ 0) := by decide

/-! ### Vectors -/

/-- The thread with an element width and grouping factor by `vtype`, a `vl`, and the first 64 MiB of the window at loadBase. -/
def Sys2Proof.testVec (vtype : BitVec 4) (vl : BitVec 13) : State :=
  testCtx (fun c => { c.setG 1 0x4000000100 with vtype := vtype, vl := vl, vrt := [(0, 0xE000000040000000#64)] })

theorem test_inBody_lt {c : Ctx} {m : BitVec 3} {k : Nat} (h : inBody c m k = true) : k < c.vl.toNat := by
  simp only [inBody, Bool.and_eq_true, decide_eq_true_eq] at h; exact h.1.2

/-- The premises on the context that most vector statements share. -/
theorem test_vec :
    (let s := testVec 1 2
     s.me.vl.toNat ≤ s.me.vlmax ∧ s.inParts = false ∧ s.me.resumed = none ∧ s.me.vstart = 0 ∧ s.me.txa = false ∧ s.txs = [] ∧
      s.me.group 8 = true ∧ s.me.maskOk 0 = true) ∧
    (let s := testVec 0 4
     s.me.vl.toNat ≤ s.me.vlmax ∧ s.inParts = false ∧ s.me.resumed = none ∧ s.me.vstart = 0 ∧ s.me.txa = false ∧ s.txs = [] ∧
      s.me.group 8 = true ∧ s.me.maskOk 0 = true) := by decide

theorem test_vec_wf : Memory.wf memDefault (testVec 1 2).mem = true ∧ Memory.wf memDefault (testVec 0 4).mem = true := by decide

theorem witness_VectorConfiguration : (testVec 12 0).me.group 24 = true ∧ (testVec 0 0).me.group 31 = true := by decide

theorem witness_VectorIntegerResults :
    let s := testVec 6 256
    VlBounded s.me ∧ s.inParts = false ∧ s.me.resumed = none ∧ s.me.group 30 = true ∧ s.me.group 0 = true ∧
      s.me.group 2 = true ∧ s.me.maskOk 7 = true := by unfold VlBounded; decide

theorem witness_VectorFpResults :
    let s := testVec 6 256
    VlBounded s.me ∧ s.inParts = false ∧ s.me.resumed = none ∧ s.me.group 30 = true ∧ s.me.group 0 = true ∧ s.me.maskOk 7 = true ∧
      s.me.ew ≠ 8 ∧ s.me.group 2 = true ∧ s.me.cvtOk 30 2 0xB 0xA = true := by unfold VlBounded; decide

/-- Numbers of an integer format, of L6 and of a binary format that a conversion takes, and an exponent that is no integer. -/
theorem witness_VectorFpResults_numbers :
    codeNumber 0 0x80 0 = some (-128) ∧ codeNumber 8 16 0 = some 1 ∧ codeNumber 8 0 5 = some 0 ∧ codeNumber 0xA 0x3F80 0 = some 1 ∧
    exactValue bf16 0x3FC0 = some (3 / 2) ∧ (1 : ℚ) < 3 / 2 ∧ (3 / 2 : ℚ) < 2 ∧ |(1 : ℚ)| ≤ quarterValue 15 ∧ quarterValue 15 < |(16 : ℚ)| ∧
    (0x7F80 / 2 ^ bf16.mb % 2 ^ bf16.eb = 2 ^ bf16.eb - 1 ∧ 0x7F80 % 2 ^ bf16.mb = 0) := by
  refine ⟨?_, ?_, by decide, ?_, ?_, by norm_num, by norm_num, ?_, ?_, by decide⟩
  · norm_num [codeNumber, codeWidth]
  · norm_num [codeNumber, quarterValue]
  · norm_num [codeNumber, exactValue, bf16]
  · norm_num [exactValue, bf16]
  · norm_num [quarterValue]
  · norm_num [quarterValue]

theorem witness_VectorComparesAndMasks :
    let s := testVec 6 256
    VlBounded s.me ∧ s.me.vlmax ≤ 512 ∧ s.inParts = false ∧ s.me.resumed = none ∧ s.me.group 30 = true ∧ s.me.group 2 = true ∧
      (9#4).toNat < 10 ∧ s.me.ew ≠ 8 ∧ (5#4).toNat < 6 ∧ s.me.vstart = 0 := by unfold VlBounded; decide

theorem witness_VectorPermutes :
    let s := testVec 6 256
    VlBounded s.me ∧ s.me.vstart = 0 ∧ s.me.group 30 = true ∧ s.me.group 2 = true ∧ s.me.maskOk 7 = true := by unfold VlBounded; decide

theorem witness_VectorReductions :
    let s := testVec 6 256
    VlBounded s.me ∧ s.me.vstart = 0 ∧ s.me.group 2 = true ∧ s.me.maskOk 7 = true ∧ s.me.ew ≠ 8 := by unfold VlBounded; decide

/-- n bytes at an address of the window, by the resident table. -/
theorem test_vecReach {s : State} {va : Word} {n : Nat} {w : Bool} {pa : Nat}
    (h : va.toNat % n = 0 ∧ regionOf va = none ∧ s.me.resident va n w = .ok (pa, false) ∧ s.txs = [] ∧
      (linesOf pa n).all (fun m => !lineHeld s m) = true ∧ s.poisoned pa n = false) : VecReachable s va n w pa false :=
  ⟨h.1, h.2.1, h.2.2.1, test_bytesFree h.2.2.2.1 h.2.2.2.2.1, fun _ => h.2.2.2.2.2⟩

/-- Where the elements of the tests lie. -/
def Sys2Proof.testPa (n k : Nat) : Nat := loadBase + 0x100 + k * n

theorem test_vec_elements (w : Bool) : ∀ k, inBody (testVec 1 2).me 0 k = true →
    VecReachable (testVec 1 2) ((testVec 1 2).G 1 + BitVec.ofNat 64 (k * 2)) 2 w (testPa 2 k) false := by
  intro k hk
  have h : k < 2 := test_inBody_lt hk
  refine test_vecReach ?_
  cases w <;> (interval_cases k <;> decide)

theorem test_vec_bytes (w : Bool) : ∀ k, inBody (testVec 0 4).me 0 k = true → ∀ j < 3,
    VecReachable (testVec 0 4) ((testVec 0 4).G 1 + BitVec.ofNat 64 (3 * (k / 4) + j)) 1 w (testPa 1 (3 * (k / 4) + j)) false := by
  intro k hk j hj
  have h : k < 4 := test_inBody_lt hk
  refine test_vecReach ?_
  have e : k / 4 = 0 := by omega
  rw [e]
  cases w <;> (interval_cases j <;> decide)

theorem test_vec_stride (w : Bool) : ∀ k, inBody (testVec 1 2).me 0 k = true →
    VecReachable (testVec 1 2) ((testVec 1 2).G 1 + BitVec.ofNat 64 k * (testVec 1 2).G 0) 2 w (testPa 2 0) false := by
  intro k hk
  have h : k < 2 := test_inBody_lt hk
  refine test_vecReach ?_
  cases w <;> (interval_cases k <;> decide)

theorem test_vec_index (w : Bool) : ∀ k, inBody (testVec 1 2).me 0 k = true →
    VecReachable (testVec 1 2) ((testVec 1 2).G 1 + BitVec.ofNat 64 ((testVec 1 2).me.el 16 4 k)) 2 w (testPa 2 0) false := by
  intro k hk
  have h : k < 2 := test_inBody_lt hk
  refine test_vecReach ?_
  cases w <;> (interval_cases k <;> decide)

theorem witness_VectorLoads :
    (∀ k, inBody (testVec 1 2).me 0 k = true →
      VecReachable (testVec 1 2) ((testVec 1 2).G 1 + BitVec.ofNat 64 (k * 2)) 2 false (testPa 2 k) false) ∧
    (∀ k, inBody (testVec 1 2).me 0 k = true →
      VecReachable (testVec 1 2) ((testVec 1 2).G 1 + BitVec.ofNat 64 k * (testVec 1 2).G 0) 2 false (testPa 2 0) false) ∧
    ((testVec 1 2).me.gf * 16 ≤ 8 * (testVec 1 2).me.ew ∧ (4#5).toNat % Max.max 1 ((testVec 1 2).me.gf * 16 / (testVec 1 2).me.ew) = 0 ∧
      (4#5).toNat + Max.max 1 ((testVec 1 2).me.gf * 16 / (testVec 1 2).me.ew) ≤ (8#5).toNat) ∧
    (∀ k, inBody (testVec 1 2).me 0 k = true →
      VecReachable (testVec 1 2) ((testVec 1 2).G 1 + BitVec.ofNat 64 ((testVec 1 2).me.el 16 4 k)) 2 false (testPa 2 0) false) ∧
    (∀ k, inBody (testVec 0 4).me 0 k = true → ∀ j < 3,
      VecReachable (testVec 0 4) ((testVec 0 4).G 1 + BitVec.ofNat 64 (3 * (k / 4) + j)) 1 false (testPa 1 (3 * (k / 4) + j)) false) :=
  ⟨test_vec_elements false, test_vec_stride false, by decide, test_vec_index false, test_vec_bytes false⟩

theorem witness_VectorStores :
    (regionOf ((testVec 1 2).G 1) ≠ some .queue ∧ ∀ k, inBody (testVec 1 2).me 0 k = true →
      VecReachable (testVec 1 2) ((testVec 1 2).G 1 + BitVec.ofNat 64 (k * 2)) 2 true (testPa 2 k) false) ∧
    (∀ k, inBody (testVec 1 2).me 0 k = true →
      VecReachable (testVec 1 2) ((testVec 1 2).G 1 + BitVec.ofNat 64 k * (testVec 1 2).G 0) 2 true (testPa 2 0) false) ∧
    (∀ k, inBody (testVec 1 2).me 0 k = true →
      VecReachable (testVec 1 2) ((testVec 1 2).G 1 + BitVec.ofNat 64 ((testVec 1 2).me.el 16 4 k)) 2 true (testPa 2 0) false) ∧
    (∀ k, inBody (testVec 0 4).me 0 k = true → ∀ j < 3,
      VecReachable (testVec 0 4) ((testVec 0 4).G 1 + BitVec.ofNat 64 (3 * (k / 4) + j)) 1 true (testPa 1 (3 * (k / 4) + j)) false) :=
  ⟨⟨by decide, test_vec_elements true⟩, test_vec_stride true, test_vec_index true, test_vec_bytes true⟩

/-- The thread at the last element of the first 64 MiB of the window: the next one misses the resident table. -/
def Sys2Proof.testEdge (vstart : BitVec 13) : State :=
  (testVec 1 2).onMe (fun c => { c.setG 1 0x4003FFFFFE with vstart := vstart })

theorem test_edge_element : VecReachable (testEdge 0) ((testEdge 0).G 1 + BitVec.ofNat 64 (0 * 2)) 2 false 0x43FFFFFE false :=
  test_vecReach (by decide)

theorem witness_VectorFaultsKeepProgress :
    (VlBounded (testEdge 0).me ∧ (testEdge 0).txs = [] ∧ (testEdge 0).me.txa = false ∧ (testEdge 0).inParts = false ∧
      (testEdge 0).me.resumed = none ∧ (testEdge 0).me.group 8 = true ∧ (testEdge 0).me.maskOk 0 = true) ∧
    (inBody (testEdge 0).me 0 1 = true ∧ ((testEdge 0).G 1 + BitVec.ofNat 64 (1 * 2)).toNat % 2 = 0 ∧
      regionOf ((testEdge 0).G 1 + BitVec.ofNat 64 (1 * 2)) = none ∧
      (testEdge 0).me.resident ((testEdge 0).G 1 + BitVec.ofNat 64 (1 * 2)) 2 false = .error .vpage) ∧
    (inBody (testEdge 1).me 0 1 = true ∧ ((testEdge 1).G 1 + BitVec.ofNat 64 (1 * 2)).toNat % 2 = 0 ∧
      regionOf ((testEdge 1).G 1 + BitVec.ofNat 64 (1 * 2)) = none ∧
      (testEdge 1).me.resident ((testEdge 1).G 1 + BitVec.ofNat 64 (1 * 2)) 2 false = .error .vpage) ∧
    (∀ j, inBody (testEdge 0).me 0 j = true → j < 1 →
      VecReachable (testEdge 0) ((testEdge 0).G 1 + BitVec.ofNat 64 (j * 2)) 2 false 0x43FFFFFE false) ∧
    (∀ j, inBody (testEdge 1).me 0 j = true → 1 ≤ j) ∧
    (inBody (testEdge 0).me 0 0 = true ∧ 0 < 1) := by
  refine ⟨by unfold VlBounded; decide, by decide, by decide, fun j _ hj => ?_, fun j hj => ?_, by decide⟩
  · obtain rfl : j = 0 := by omega
    exact test_edge_element
  · simp only [inBody, Bool.and_eq_true, decide_eq_true_eq] at hj
    exact hj.1.1

/-! ### Single steps, with the values the rules give -/

/-- The thread with two of its general registers set. -/
def Sys2Proof.testG (a b : BitVec 5) (x y : Word) : State := (testBase.setG a x).setG b y

/-- Thread 0.n after an instruction. -/
def Sys2Proof.testG2 (i : Instr) (x y : Word) : Word := (testAfter i (testG 4 5 x y)).G 3

/-- R96: sums wrap, and a source that is the destination is read first (R94). -/
theorem test_add : testG2 (.add 3 4 5) (-1) 2 = 1 ∧ (testAfter (.add 4 4 4) (testG 4 5 3 0)).G 4 = 6 ∧
    (testAfter (.add 0 4 5) (testG 4 5 3 1)).G 0 = 0 ∧ (testAfter (.add 3 4 5) (testG 4 5 3 1)).pc = testBase.pc + 4 := by
  decide +kernel

theorem test_alu : testG2 (.sub 3 4 5) 1 2 = -1 ∧ testG2 (.andn 3 4 5) 0xFF 0x0F = 0xF0 ∧ testG2 (.sll 3 4 5) 1 65 = 2 ∧
    testG2 (.sra 3 4 5) 0x8000000000000000 4 = 0xF800000000000000 ∧ testG2 (.srl 3 4 5) 0x8000000000000000 4 = 0x0800000000000000 ∧
    testG2 (.slt 3 4 5) (-1) 0 = 1 ∧ testG2 (.sltu 3 4 5) (-1) 0 = 0 ∧ testG2 (.minu 3 4 5) (-1) 2 = 2 ∧ testG2 (.min 3 4 5) (-1) 2 = -1 := by
  decide +kernel

theorem test_counts : testG2 (.clz 3 4) 1 0 = 63 ∧ testG2 (.ctz 3 4) 0 0 = 64 ∧ testG2 (.pop 3 4) 0xF0F 0 = 8 ∧
    testG2 (.sextB 3 4) 0x180 0 = 0xFFFFFFFFFFFFFF80 ∧ testG2 (.zextW 3 4) (-1) 0 = 0xFFFFFFFF := by decide +kernel

/-- R97 to R99. -/
theorem test_immediates : testG2 (.addi 3 4 0xFFFF) 5 0 = 4 ∧ testG2 (.sltiu 3 4 0xFFFF) 5 0 = 1 ∧ testG2 (.srai 3 4 63) (-2) 0 = -1 ∧
    testG2 (.lui 3 0x8000) 0 0 = 0xFFFFFFFF80000000 ∧ testG2 (.pchi 3 1) 0 0 = testBase.pc + 0x10000 := by decide +kernel

/-- R100, R101. -/
theorem test_multiply : testG2 (.mulh 3 4 5) (-1) (-1) = 0 ∧ testG2 (.mulhu 3 4 5) (-1) (-1) = 0xFFFFFFFFFFFFFFFE ∧
    testG2 (.mulhsu 3 4 5) (-1) (-1) = -1 ∧ testG2 (.div 3 4 5) (-7) 2 = -3 ∧ testG2 (.rem 3 4 5) (-7) 2 = -1 := by decide +kernel

theorem test_divideEdges : testG2 (.div 3 4 5) 7 0 = -1 ∧ testG2 (.rem 3 4 5) 7 0 = 7 ∧
    testG2 (.div 3 4 5) 0x8000000000000000 (-1) = 0x8000000000000000 ∧ testG2 (.rem 3 4 5) 0x8000000000000000 (-1) = 0 := by decide +kernel

/-- R102 to R106: FP32 1 + 2 = 3, FP64 1/0 is an infinity, BF16 -0 < 0 is false, and FP32 2.5 to a signed 32-bit integer is 2. -/
theorem test_fp : testG2 (.fadd 3 4 5 1) 0x3F800000 0x40000000 = 0x40400000 ∧
    testG2 (.fdiv 3 4 5 2) 0x3FF0000000000000 0 = 0x7FF0000000000000 ∧ testG2 (.fcmpLt 3 4 5 0) 0x8000 0 = 0 ∧
    testG2 (.fcvt 3 4 4 1) 0x40200000 0 = 2 := by decide +kernel

/-- R107, R108: a branch to itself plus 8, and a call. -/
theorem test_branches : (testAfter (.beq 4 5 2) (testG 4 5 7 7)).pc = testBase.pc + 8 ∧
    (testAfter (.beq 4 5 2) (testG 4 5 7 8)).pc = testBase.pc + 4 ∧ (testAfter (.jal 3 0x1FFFFF) testBase).pc = testBase.pc - 4 ∧
    (testAfter (.jal 3 2) testBase).G 3 = testBase.pc + 4 := by decide +kernel

/-- R112: a byte stored is loaded with its sign, and without. -/
theorem test_memory : (let s := testAfter (.st 5 4 0 8) (testG 4 5 0x2000 0x1F0)
      (testAfter (.ld 3 4 0 8) s).G 3 = 0xFFFFFFFFFFFFFFF0 ∧ (testAfter (.ld 3 4 1 8) s).G 3 = 0xF0 ∧
      s.byte (loadBase + 0x2008) = 0xF0 ∧ s.byte (loadBase + 0x2009) = 0) := by decide +kernel

/-- R117: an atomic add returns the old value and stores the sum. -/
theorem test_amo : (let s := testAfter (.amoAdd 3 4 5 1 2 0 0) (testG 4 5 0x2000 (-1))
    s.G 3 = 0 ∧ s.num (loadBase + 0x2000) 8 = 2 ^ 64 - 1) := by decide +kernel

/-- R110: a misaligned load traps MISALIGN (2) with its address in tval and leaves G(d). -/
theorem test_misalign : (let s := testAfter (.ld 3 4 6 0) (testG 4 3 0x2001 9)
    s.me.tcause.toNat % 256 = 2 ∧ s.me.tval = 0x2001 ∧ s.G 3 = 9) := by decide +kernel

/-- R121, R348: `ecall 5` traps ECALL (20) with the code in tval and its own address in tpc. -/
theorem test_ecall : (let s := testAfter (.ecall 5) testBase
    s.me.tcause.toNat % 256 = 20 ∧ s.me.tval = 5 ∧ s.me.tpc = testBase.pc) := by decide +kernel

/-- R106: the spec's table of `fcvt.w.s` of 2.5 and -2.5 under RM 0 to 3. -/
theorem test_fcvtModes : (List.range 4).map (fun m =>
      let s := (testG 4 5 0x40200000 0xC0200000).onMe (fun c => { c with fcsr := BitVec.ofNat 7 m })
      ((testAfter (.fcvt 3 4 4 1) s).G 3, (testAfter (.fcvt 3 5 4 1) s).G 3)) =
    [(2, -2), (2, -2), (2, -3), (3, -2)] := by decide +kernel

/-- Two vector registers in a vector thread. -/
def Sys2Proof.testV (vtype : BitVec 4) (vl : BitVec 13) (x y : BitVec 4096) : State :=
  (testVec vtype vl).onMe (fun c => { c with v := (c.v.set 1 x).set 2 y, m := c.m.set 1 1 })

/-- R151, R164: bytes wrap, and tail elements keep their values. -/
theorem test_vadd : (let s := testAfter (.vadd 2 1 2 0 0) (testV 0 2 0x0302FF 0x050402)
    s.me.v[2] = 0x050601 ∧ s.me.fillOf 2 = 2 ∧ s.me.vstart = 0) := by decide +kernel

/-- R151: an inactive element keeps its value. -/
theorem test_vaddMasked : (testAfter (.vadd 2 1 2 1 0) (testV 0 2 0x0302FF 0x050402)).me.v[2] = 0x050401 := by decide +kernel

/-- R179: elements past VLMAX read as zero, and the others move down by G(b). -/
theorem test_vslide : (testAfter (.vslidedn 2 1 0 0) (testV 0 1 0x0302FF 0)).me.v[2] = 0xFF ∧
    (testAfter (.vslidedn 2 1 3 0) ((testV 0 2 0x0302FF 0).setG 3 1)).me.v[2] = 0x0302 := by decide +kernel

/-- R175: bit i of the mask is the comparison of elements i. -/
theorem test_vcmp : (testAfter (.vcmp 3 1 2 0 0 0) (testV 0 3 0x020304 0x020404)).me.M 3 = 5 := by decide +kernel

/-- R180: the sum plus the seed, element 0 of the second operand. -/
theorem test_reduce : (testAfter (.vredsum 3 1 2 0) (testV 0 3 0x020304 0x101)).me.v[3] = 10 := by decide +kernel

/-- The first instruction after reset is the one placed where the machine fetches (DESIGN CHOICE, log 10). -/
theorem test_firstStep : (match step (State.reset.withFetchWord 32 0x0C64FFFF) with
    | .next t => t.G 3 == -1 && t.pc == (State.reset.withFetchWord 32 0x0C64FFFF).pc + 4
    | _ => false) = true ∧ decodeTableWord 32 0x0C64FFFF = some (.addi 3 4 0xFFFF) := by decide +kernel

/-- R342 to R344: a transaction opens with 0, and `tabort 5` goes to the instruction after `tbegin` with CAUSE 6 and CODE 5. -/
theorem test_transaction : (let s := testAfter (.tabort 5) (testAfter (.tbegin 3) testBase)
    (testAfter (.tbegin 3) testBase).G 3 = 0 ∧ (testAfter (.tbegin 3) testBase).me.txa = true ∧ s.me.txa = false ∧
      s.pc = testBase.pc + 4 ∧ s.G 3 = 5 * 2 ^ 10 + 6 * 2 ^ 4) := by decide +kernel

/-- The vector thread with line 0x800002 live pipped. -/
def Sys2Proof.testVecPip (p : BitVec 8) : State :=
  (testVec 1 2).setDir 0x800002 { DirEntry.none with st := .pipped, pips := p, saved := List.replicate 128 0 }

theorem test_vecPip (p : BitVec 8) (hp : p = 1 ∨ p = 2) : ∀ k, inBody (testVecPip p).me 0 k = true →
    VecReachable (testVecPip p) ((testVecPip p).G 1 + BitVec.ofNat 64 (k * 2)) 2 false (testPa 2 k) false := by
  intro k hk
  have h : k < 2 := test_inBody_lt hk
  refine test_vecReach ?_
  rcases hp with rfl | rfl <;> (interval_cases k <;> decide)

theorem witness_VectorConsumingLoads :
    (∀ k, inBody (testVecPip 1).me 0 k = true →
      VecReachable (testVecPip 1) ((testVecPip 1).G 1 + BitVec.ofNat 64 (k * 2)) 2 false (testPa 2 k) false) ∧
    (∀ k, inBody (testVecPip 2).me 0 k = true →
      VecReachable (testVecPip 2) ((testVecPip 2).G 1 + BitVec.ofNat 64 (k * 2)) 2 false (testPa 2 k) false) ∧
    DirSorted (testVecPip 1) ∧ ((testVecPip 1).G 1).toNat % 2 = 0 ∧
    (∀ k < 2, ((testVecPip 1).dirOf (testPa 2 k / 128)).st = .pipped ∧ ((testVecPip 1).dirOf (testPa 2 k / 128)).pending = false ∧
      ((testVecPip 1).dirOf (testPa 2 k / 128)).pips.toNat ≤ 1 ∧ 1 < ((testVecPip 2).dirOf (testPa 2 k / 128)).pips.toNat) ∧
    (∀ k < 2, ∀ j < 2, testPa 2 k / 128 = testPa 2 j / 128 →
      ((testVecPip 1).G 1 + BitVec.ofNat 64 (k * 2)).toNat / 128 = ((testVecPip 1).G 1 + BitVec.ofNat 64 (j * 2)).toNat / 128) ∧
    (∀ k < 2, testPa 2 k / 128 ≠ 0x800003) := by
  refine ⟨test_vecPip 1 (.inl rfl), test_vecPip 2 (.inr rfl), by unfold DirSorted; decide, by decide, by decide, by decide, by decide⟩

/-- The vector thread with handle 1 of its tenant over one block of the A buffer. -/
def Sys2Proof.testHandle (st : HState) (pips : BitVec 16) (unl : Bool) : State :=
  ((testVec 0 4).onMe (fun c => c.setG 1 60)).onCore 0 (fun k => k.setHandle 1 { Handle.reset with
    buf := some .a, offb := 1, sizeb := 1, ten := 0, st := st, pips := pips, unl := unl })

theorem witness_BufferLoadsAndStores :
    (∀ x ∈ [(HState.full, 1#16, false), (.full, 0#16, true), (.spent, 0#16, false)],
      let s := testHandle x.1 x.2.1 x.2.2
      let hd := (s.core s.cur.core).handle 1
      s.me.group 8 = true ∧ (s.G 1).toNat % (s.me.ew / 8) = 0 ∧ hd.buf = some .a ∧ hd.ten = s.me.tenant ∧
      s.me.vstart.toNat < s.me.vl.toNat ∧
      64 * hd.offb.toNat + (s.G 1).toNat + (s.me.vl.toNat - 1) * 1 + 1 ≤ 64 * hd.offb.toNat + 64 * hd.sizeb.toNat ∧
      hd.st = x.1 ∧ s.me.txa = false ∧ s.me.vstart = 0 ∧ hd.pips = x.2.1 ∧ hd.unl = x.2.2 ∧ s.me.ew / 8 = 1 ∧
      64 * hd.offb.toNat + (s.G 1).toNat + 3 * (3 / 4) + 3 ≤ 64 * hd.offb.toNat + 64 * hd.sizeb.toNat) ∧
    Memory.wf zeroByte (((testHandle .full 1 false).core 0).buf .a) = true := by decide

theorem witness_MaskLoadsAndStores :
    ((testVec 1 2).me.vlmax ≤ 512 ∧ Memory.wf memDefault (testVec 1 2).mem = true) ∧
    (∀ j ∈ (List.range (((testVec 1 2).me.vl.toNat + 7) / 8)).drop ((testVec 1 2).me.vstart.toNat / 8),
      VecReachable (testVec 1 2) ((testVec 1 2).G 1 + BitVec.ofNat 64 j) 1 false (testPa 1 j) false ∧
      VecReachable (testVec 1 2) ((testVec 1 2).G 1 + BitVec.ofNat 64 j) 1 true (testPa 1 j) false) := by
  refine ⟨by decide, fun j hj => ?_⟩
  have e : (List.range (((testVec 1 2).me.vl.toNat + 7) / 8)).drop ((testVec 1 2).me.vstart.toNat / 8) = [0] := by decide
  rw [e] at hj
  obtain rfl := List.mem_singleton.1 hj
  exact ⟨test_vecReach (by decide), test_vecReach (by decide)⟩

/-- The vector thread with a descriptor at G(1) of a tensor of one 16-bit element per dimension at that same address. -/
def Sys2Proof.testTensor : State :=
  (testVec 1 2).put (loadBase + 0x100) (leBytes 8 0x4000000100 ++ leBytes 4 1 ++ leBytes 4 1 ++ leBytes 4 1 ++ leBytes 4 1)

theorem witness_TensorTileLoads :
    (2 ^ (0#2).toNat * 2 ^ (0#2).toNat ≤ testTensor.me.gf ∧ testTensor.me.vl.toNat ≤ 4096 / testTensor.me.ew ∧
      testTensor.me.vlmax ≤ 512 ∧ (testTensor.G 1).toNat % 64 = 0 ∧ testTensor.me.group 8 = true ∧
      testTensor.num (loadBase + 0x100 + 0x30) 16 = 0) ∧
    (∀ j < 8, VecReachable testTensor (testTensor.G 1 + BitVec.ofNat 64 (8 * j)) 8 false (loadBase + 0x100 + 8 * j) false) ∧
    VecReachable testTensor (BitVec.ofNat 64 (testTensor.num (loadBase + 0x100) 8)) 2 false (loadBase + 0x100) false := by
  refine ⟨by decide, fun j hj => test_vecReach ?_, test_vecReach (by decide)⟩
  interval_cases j <;> decide

theorem witness_IllegalVectorForms :
    (testVec 12 0).me.group 4 = false ∧ 512 < (testVec 12 0).me.vlmax ∧ (1#3 : BitVec 3) ≠ 0 ∧
    (testEdge 1).me.vstart ≠ 0 ∧ (testVec 0 0).me.ew = 8 ∧ (testVec 1 0).me.ew ≠ 8 := by decide

/-! ### The matrix array and factor tiles -/

/-- Thread 0.n with a handle 1 over n blocks of buffer b, FULL with one pip, and G(1). -/
def Sys2Proof.testRegion (b : Buf) (n : BitVec 15) (g1 : Word) : State :=
  (testCtx (fun c => c.setG 1 g1)).onCore 0 (fun k =>
    k.setHandle 1 { Handle.reset with buf := some b, offb := 0, sizeb := n, ten := 0, st := .full, pips := 1, unl := false })

/-- A weight tile of one row of ones. -/
def Sys2Proof.testTile (f : BitVec 4) : Weights := ⟨f, 1, [List.replicate 64 1], List.replicate 64 0⟩

theorem test_shadowFree {k : Core} (h : k.shadow.epoch = none) : shadowFree k := by
  intro e he
  rw [h] at he; cases he

/-- The same with the core's other context at an instruction that uses the planes and waits. -/
def Sys2Proof.testWaiter (s : State) (latches : Bool) : State :=
  s.onCtx ⟨0, .u⟩ (fun c => { c with run := .running, waiting := true, mxWait := some ⟨c.pc, latches, some 5, 0⟩ })

theorem witness_PlaneLatchAndSwap :
    (let s := testRegion .w 2 1
     let k := (owned s).core s.cur.core
     s.me.txa = false ∧ planesFree s ∧ s.me.mx < 65535 ∧ (s.G 0).toNat % 64 = 0 ∧ namesBuf s 1 .w ∧ 1 ≤ (s.G 1).toNat ∧
      (s.G 1).toNat ≤ 256 ∧ (s.G 0).toNat + 64 + (s.G 1).toNat * 64 ≤ 64 * (k.handle 1).sizeb.toNat ∧ canRead false (k.handle 1) ∧
      canRead true (k.handle 1) ∧ shadowFree k ∧ k.badW = [] ∧ s.otherCtx.planesWait = none) ∧
    (let s := testWaiter (testRegion .w 2 1) true
     s.me.txa = false ∧ planesFree s ∧ s.me.mx < 65535 ∧ ∃ w, s.otherCtx.planesWait = some w ∧ w.latches = true) ∧
    (let s := (testRegion .w 2 1).onCore 0 (fun k => { k with owner := some 5 })
     s.me.tenant ≠ 5 ∧ planesFree s) := by
  refine ⟨⟨by decide, .inr (.inl (by decide)), by decide, by decide, ⟨by decide, by decide⟩, by decide, by decide, by decide,
    ⟨by decide, by decide⟩, ⟨by decide, by decide⟩, test_shadowFree (by decide), by decide, by decide⟩,
    ⟨by decide, .inr (.inl (by decide)), by decide, ⟨_, rfl, rfl⟩⟩, ⟨by decide, .inr (.inr ⟨by decide, by decide, .inl (by decide)⟩)⟩⟩

/-- The thread with the C region, the planes its own, and a front plane of the current generation. -/
def Sys2Proof.testMatrix (f : BitVec 4) (vtype : BitVec 4) (vl : BitVec 13) : State :=
  ((testRegion .c 4 1).onMe (fun c => { c with vtype := vtype, vl := vl })).onCore 0 (fun k =>
    { k with owner := some 0, front := ⟨some (testTile f), some k.gen⟩ })

theorem test_met (f : BitVec 4) (vt : BitVec 4) (vl : BitVec 13) (h : (f, vt, vl) ∈ [(8#4, 0#4, 512#13), (0#4, 0#4, 1#13), (0xA#4, 1#4, 256#13)]) :
    let s := testMatrix f vt vl
    let k := s.core s.cur.core
    k.owner = some s.me.tenant ∧
      ∃ p w, (if k.front.epoch = some k.gen then p = k.front else k.shadow.epoch = some k.gen ∧ p = k.shadow) ∧
        p.weights = some w ∧ w.fmt = f := by
  simp only [List.mem_cons, Prod.mk.injEq, List.not_mem_nil, or_false] at h
  rcases h with ⟨rfl, rfl, rfl⟩ | ⟨rfl, rfl, rfl⟩ | ⟨rfl, rfl, rfl⟩ <;>
    exact ⟨by decide, _, testTile _, by rw [if_pos (by decide)], by decide, rfl⟩

theorem witness_MatrixRowsIssue :
    (let s := testMatrix 8 0 512
     let hd := (s.core s.cur.core).handle 1
     s.me.txa = false ∧ s.me.mx < 65535 ∧ s.me.ew = 8 ∧ s.me.group 2 = true ∧ s.me.vl.toNat ≤ 4096 / s.me.ew ∧ namesBuf s 1 .c ∧
      256 * ((s.G 0).toNat % 2 ^ 32 + s.me.gf) ≤ 64 * hd.sizeb.toNat ∧ hd.st ≠ .filling ∧ hd.st ≠ .draining) ∧
    (let s := testMatrix 0xA 1 256
     s.me.ew = 16 ∧ s.me.vl.toNat ≤ 4096 / s.me.ew) ∧
    ((testMatrix 8 0 1).G 1).toNat = 1 ∧
    (let s := (testMatrix 8 0 1).onCore 0 (fun k => k.setHandle 2 { k.handle 1 with buf := some .a })
     let k := s.core s.cur.core
     s.me.maskOk 0 = true ∧ s.me.resumed = none ∧ s.inParts = false ∧ (s.G 0).toNat % 2 = 0 ∧ (s.G 0).toNat / 2 ^ 32 % 2 ^ 16 % 2 = 0 ∧
      namesBuf s 2 .a ∧ (s.G 1).toNat % 2 ^ 10 ≤ 256 ∧
      (s.G 0).toNat + ((s.G 1).toNat - 1) * ((s.G 1).toNat / 2 ^ 32 % 2 ^ 16) + 2 * ((s.G 1).toNat % 2 ^ 10) ≤ 64 * (k.handle 2).sizeb.toNat ∧
      0 < (s.G 1).toNat ∧ canRead true (k.handle 2) ∧ k.badA = []) := by
  refine ⟨⟨by decide, by decide, by decide, by decide, by decide, ⟨by decide, by decide⟩, by decide, by decide, by decide⟩, by decide, by decide,
    ⟨by decide, by decide, by decide, by decide, by decide, ⟨by decide, by decide⟩, by decide, by decide, by decide,
      ⟨by decide, by decide⟩, by decide⟩⟩

theorem witness_RowSteps :
    (testCtx (fun c => { c with mxJobs := [.zero [] 0 true] })).me.mxJobs = [.zero [] 0 true] ∧
    (let j : MxJob := .row [] 0 [some 1] 8 0 (testBase.core 0).gen true
     let s := (testMatrix 8 0 1).onMe (fun c => { c with mxJobs := [j] })
     (s.ctx ⟨0, .n⟩).mxJobs = [j] ∧ (s.ctx ⟨0, .u⟩).mxJobs = [] ∧
      (s.core 0).planeOf (testBase.core 0).gen = some ⟨some (testTile 8), some (testBase.core 0).gen⟩) ∧
    (∀ f ∈ [8#4, 0#4, 0xA#4], ∀ x ∈ [1, 0x20],
      let j : MxJob := .row [] 0 [some x, none] f 0 (testBase.core 0).gen true
      let s := (testMatrix f 0 1).onMe (fun c => { c with mxJobs := [j] })
      (s.ctx ⟨0, .n⟩).mxJobs = [j] ∧ (s.ctx ⟨0, .u⟩).mxJobs = [] ∧
      (s.core 0).planeOf (testBase.core 0).gen = some ⟨some (testTile f), some (testBase.core 0).gen⟩ ∧ (testTile f).fmt = f ∧
      [some x, none].length ≤ 512 ∧
      List.zipWith (fun x r => x.map (fun x => (x, List.getD r 0 0))) [some x, none] (testTile f).rows = [some (x, 1)]) := by decide

theorem witness_VectorOuterProduct :
    let c := (testVec 9 1).me
    c.txa = false ∧ (testVec 9 1).inParts = false ∧ c.resumed = none ∧ c.ew = 16 ∧ c.group 28 = true ∧ (27#5).toNat < (28#5).toNat ∧
      c.vl.toNat ≤ 4096 / c.ew ∧ c.gf ≤ 4096 / c.ew := by decide

/-- A tile on the ring for the thread. -/
def Sys2Proof.testRing (tag : BitVec 8) : RingTile := ⟨testTile 8, 511, tag, .n, 0, 0, true⟩

theorem witness_ExpertRing :
    (let s := testRegion .w 2 1
     let k := (owned s).core s.cur.core
     s.me.txa = false ∧ planesFree s ∧ s.me.mx < 65535 ∧ (s.G 0).toNat % 64 = 0 ∧ namesBuf s 1 .w ∧ 1 ≤ (s.G 1).toNat ∧
      (s.G 1).toNat ≤ 256 ∧ (s.G 0).toNat + 64 + (s.G 1).toNat * 64 ≤ 64 * (k.handle 1).sizeb.toNat ∧ canRead true (k.handle 1) ∧ shadowFree k ∧ k.badW = []) ∧
    (let s := testCore (fun k => { k with ring := [(testRing 5, 0)] })
     s.me.txa = false ∧ (s.core s.cur.core).ring = [(testRing 5, 0)] ∧
      ((testRing 5).tag, (testRing 5).cx, (testRing 5).tenant) = (5, s.cur.cx, s.me.tenant) ∧
      ((testRing 5).tag, (testRing 5).cx, (testRing 5).tenant) ≠ (6, s.cur.cx, s.me.tenant) ∧
      planesFree s ∧ shadowFree ((owned s).core s.cur.core)) ∧
    (testBase.core testBase.cur.core).ring = [] ∧
    (let s := testCore (fun k => { k with ringOut := [testRing 5] })
     (0#6).toNat = (1#6).toNat / 16 * 16 + ((1#6).toNat + 15) % 16 ∧ (s.core 0).ringOut = [testRing 5] ∧ (testRing 5).src ≠ 1 ∧
      (s.core 1).ring.length < 2) ∧
    (let s := testBase.onCore 15 (fun k => { k with ringOut := [testRing 5] })
     (15#6).toNat = (0#6).toNat / 16 * 16 + ((0#6).toNat + 15) % 16 ∧ (s.core 15).ringOut = [testRing 5] ∧ (testRing 5).src = 0) ∧
    (let s : State := { testCore (fun k => { k with ring := [(testRing 5, 0)] }) with clock := 100000 }
     (s.core 0).ring = [(testRing 5, 0)] ∧ 0 + 100000 ≤ s.clock.toNat ∧ (s.core 0).received (testRing 5) = false ∧
      s.noticeWaits (testRing 5).src = none) := by
  refine ⟨⟨by decide, .inr (.inl (by decide)), by decide, by decide, ⟨by decide, by decide⟩, by decide, by decide, by decide,
    ⟨by decide, by decide⟩, test_shadowFree (by decide), by decide⟩,
    ⟨by decide, by decide, by decide, by decide, .inr (.inl (by decide)), test_shadowFree (by decide)⟩, by decide, by decide,
    by decide, by decide⟩

/-- A factor tile of order 1 with entry x, G(1) naming it, G(2) = y, and element 0 of v8 z. -/
def Sys2Proof.testFactor (x : Nat) (y : Word) (z : Nat) : State :=
  ((testRegion .c 1 0x100000000).onMe (fun c =>
    { (c.setG 2 y).setEl 32 8 0 z with vtype := 2, vl := 1 })).onCore 0 (fun k =>
      { k with bufC := Memory.writeBytes zeroByte k.bufC 0 (leBytes 4 x) })

/-- A factor tile of order 2 with entries 1, x, 1, and v8 = (1, z). -/
def Sys2Proof.testFactor2 (x z : Nat) : State :=
  ((testRegion .c 1 0x200000000).onMe (fun c =>
    { (c.setEl 32 8 0 0x3F800000).setEl 32 8 1 z with vtype := 2, vl := 2 })).onCore 0 (fun k =>
      { k with bufC := Memory.writeBytes zeroByte k.bufC 0 (leBytes 4 0x3F800000 ++ leBytes 4 x ++ leBytes 4 0 ++ leBytes 4 0x3F800000) })

theorem test_tileReady : ∀ x ∈ [(0x3F800000, 0x3F800000, 0), (0x3F800000, 0, 0x3F000000), (0, 0x7F800000, 0x7F800000),
      (0, 0x3F800000, 0x3F000000), (0x3F000000, 0, 0x3F800000), (0x7F000000, 0, 0x3F800000), (1, 0, 1), (1, 0, 0x3F800000)],
    let s := testFactor x.1 (BitVec.ofNat 64 x.2.1) x.2.2
    tileReady s (s.G 1) 1 1 0 ∧ s.me.ew = 32 ∧ s.me.group 8 = true ∧ 1 ≤ s.me.vlmax ∧ s.txs = [] ∧
      Memory.wf zeroByte (s.core s.cur.core).bufC = true := by
  unfold tileReady namesBuf; decide

theorem test_tileReady2 : ∀ x ∈ [(0x7F7FFFFF, 0x7F7FFFFF), (0xFF7FFFFF, 0x7F7FFFFF)],
    let s := testFactor2 x.1 x.2
    tileReady s (s.G 1) 1 2 0 ∧ s.me.ew = 32 ∧ s.me.group 8 = true ∧ 2 ≤ s.me.vlmax := by
  unfold tileReady namesBuf; decide

/-- Step 0 of an update or a downdate of the tile of order 1 with entry 1 by 1/2 can be performed. -/
theorem test_factorStep (down : Bool) : ∃ N W : Nat → Nat → Nat, W 0 0 = 0x3F000000 ∧
    ∀ k < 1, FactorStep down 1 k (fun i j => tileEntry (testFactor 0x3F800000 0 0x3F000000) 1 1 0 i j) N W := by
  refine ⟨fun _ _ => (fp32.sqrt 0 (fp32.fma 0 0x3F800000 0x3F800000 (if down then 0xBE800000 else 0x3E800000)).1).1,
    fun _ _ => 0x3F000000, rfl, fun k hk => ?_⟩
  obtain rfl : k = 0 := by omega
  unfold FactorStep
  dsimp only
  rw [show tileEntry (testFactor 0x3F800000 0 0x3F000000) 1 1 0 0 0 = 0x3F800000 by decide]
  cases down <;> rw [if_neg (by decide)] <;>
    exact ⟨by decide, by decide, by decide, by decide, by decide, by decide, by decide, by decide, by decide, fun j h1 h2 => by omega⟩

theorem witness_FactorTileUpdates :
    (let s := testFactor 0x3F800000 0x3F800000 0
     let v := (s.G 2).toNat % 2 ^ 32
     let F (i j : Nat) := tileEntry s 1 1 0 i j
     tileReady s (s.G 1) 1 1 0 ∧ Memory.wf zeroByte (s.core s.cur.core).bufC = true ∧ 0 < v ∧ v < 0x7F800000 ∧
      (fp32.mul 0 (F 0 0) v).1 % 2 ^ 31 ≠ 0x7F800000 ∧ (fp32.mul 0 (F 0 0) v).1 % 2 ^ 31 ≠ 0) ∧
    (let s := testFactor 0x3F800000 0 0x3F000000
     tileReady s (s.G 1) 1 1 0 ∧ s.me.ew = 32 ∧ s.me.group 8 = true ∧ 1 ≤ s.me.vlmax ∧
     ∀ down : Bool, ∃ N W : Nat → Nat → Nat, (∀ j < 1, W 0 j = s.me.el 32 8 j ∧ W 0 j % 2 ^ 31 < 0x7F800000) ∧
      ∀ k < 1, FactorStep down 1 k (fun i j => tileEntry s 1 1 0 i j) N W) := by
  have h1 := test_tileReady (0x3F800000, 0x3F800000, 0) (by decide)
  have h2 := test_tileReady (0x3F800000, 0, 0x3F000000) (by decide)
  refine ⟨⟨h1.1, h1.2.2.2.2.2, by decide, by decide, by decide, by decide⟩, h2.1, h2.2.1, h2.2.2.1, h2.2.2.2.1, fun down => ?_⟩
  obtain ⟨N, W, hw, h⟩ := test_factorStep down
  refine ⟨N, W, fun j hj => ?_, h⟩
  obtain rfl : j = 0 := by omega
  rw [hw]; decide

theorem witness_FactorSolves :
    let s := testFactor 0x3F800000 0 0x3F000000
    tileReady s (s.G 1) 1 1 0 ∧ s.me.ew = 32 ∧ s.me.group 8 = true ∧ 1 ≤ s.me.vlmax ∧ tileEntry s 1 1 0 0 0 % 2 ^ 31 ≠ 0 ∧
      (fp32.div 0 (s.me.el 32 8 0) (tileEntry s 1 1 0 0 0)).1 % 2 ^ 31 < 0x7F800000 :=
  have h := test_tileReady (0x3F800000, 0, 0x3F000000) (by decide)
  ⟨h.1, h.2.1, h.2.2.1, h.2.2.2.1, by decide, by decide⟩

/-- The new entry of row 0, and of the copy of x, that an update computes at column 1 of a tile of order 2. -/
def Sys2Proof.testNew (f z : Nat) : Nat × Nat :=
  let ρ := (fp32.sqrt 0 (fp32.fma 0 0x3F800000 0x3F800000 0x3F800000).1).1
  let c := (fp32.div 0 0x3F800000 ρ).1
  ((fp32.fma 0 c f (fp32.mul 0 c z).1).1, (fp32.fma 0 c z ((fp32.mul 0 c f).1 + 2 ^ 31)).1)

/-- Every failure but those of the quotients, which the range of FP32 keeps finite here (R284, R285). -/
theorem witness_FactorFailures :
    (((testFactor 0x3F800000 0 0x3F000000).G 2).toNat % 2 ^ 32 = 0 ∧ 0x7F800000 ≤ ((testFactor 0 0x7F800000 0x7F800000).G 2).toNat % 2 ^ 32 ∧
      0x7F800000 ≤ (testFactor 0 0x7F800000 0x7F800000).me.el 32 8 0 % 2 ^ 31) ∧
    (let s := testFactor 0 0x3F800000 0x3F000000
     let v := (s.G 2).toNat % 2 ^ 32
     0 < v ∧ v < 0x7F800000 ∧ (fp32.mul 0 (tileEntry s 1 1 0 0 0) v).1 % 2 ^ 31 = 0 ∧
      s.me.el 32 8 0 % 2 ^ 31 < 0x7F800000 ∧ s.me.el 32 8 0 % 2 ^ 31 ≠ 0 ∧ tileEntry s 1 1 0 0 0 = 0) ∧
    (let s := testFactor 0x3F000000 0 0x3F800000
     let r := tileEntry s 1 1 0 0 0
     let w := s.me.el 32 8 0
     let t := (fp32.fma 0 r r ((fp32.mul 0 w w).1 + 2 ^ 31)).1
     0 < r ∧ r < 0x7F800000 ∧ w % 2 ^ 31 ≠ 0 ∧ ¬(0 < t ∧ t ≤ 0x7F800000)) ∧
    (∀ x ∈ [(0x7F000000, 0x3F800000), (1, 1)],
     let s := testFactor x.1 0 x.2
     let r := tileEntry s 1 1 0 0 0
     let w := s.me.el 32 8 0
     let t := (fp32.fma 0 r r (fp32.mul 0 w w).1).1
     0 < r ∧ r < 0x7F800000 ∧ w % 2 ^ 31 ≠ 0 ∧ (x.1 = 0x7F000000 → ¬ t % 2 ^ 31 < 0x7F800000) ∧
      (x.1 = 1 → t % 2 ^ 31 < 0x7F800000 ∧ (fp32.sqrt 0 t).1 % 2 ^ 31 = 0)) ∧
    (∀ x ∈ [(0x7F7FFFFF, 0x7F7FFFFF), (0xFF7FFFFF, 0x7F7FFFFF)],
     let s := testFactor2 x.1 x.2
     (tileEntry s 1 2 0 0 0, tileEntry s 1 2 0 0 1, s.me.el 32 8 0, s.me.el 32 8 1) = (0x3F800000, x.1, 0x3F800000, x.2) ∧
      x.1 % 2 ^ 31 < 0x7F800000 ∧ x.2 % 2 ^ 31 < 0x7F800000) ∧
    (¬ (testNew 0x7F7FFFFF 0x7F7FFFFF).1 % 2 ^ 31 < 0x7F800000 ∧ (testNew 0xFF7FFFFF 0x7F7FFFFF).1 % 2 ^ 31 < 0x7F800000 ∧
      ¬ (fp32.fma 0 0x3F3504F3 0x7F7FFFFF (fp32.mul 0 0x3F3504F3 0x7F7FFFFF).1).1 % 2 ^ 31 < 0x7F800000) ∧
    (let s := testFactor 1 0 0x3F800000
     tileEntry s 1 1 0 0 0 % 2 ^ 31 ≠ 0 ∧ ¬ (fp32.div 0 (s.me.el 32 8 0) (tileEntry s 1 1 0 0 0)).1 % 2 ^ 31 < 0x7F800000) := by
  refine ⟨by decide, by decide, by decide, by decide, by decide, by decide, by decide⟩

/-! ### Transfers, pip fills and work queues -/

/-- A moved value is there. -/
def Sys2Proof.testDone {α : Type} : Moved α → Bool
  | .done _ => true
  | _ => false

theorem test_done {α : Type} {m : Moved α} (h : testDone m = true) : ∃ a, m = .done a := by
  cases m with
  | done a => exact ⟨a, rfl⟩
  | wait s => cases h
  | fault c a => cases h

/-- The thread with handle 1 in a state, and G(1). -/
def Sys2Proof.testUnit (st : HState) (pips : BitVec 16) (g1 : Word) (status : BitVec 5) : State :=
  ((testRegion .a 1 g1).onMe (fun c => { c with status := status })).onCore 0 (fun k =>
    k.setHandle 1 { k.handle 1 with st := st, pips := pips })

theorem witness_TransferInstructions :
    (let s := testUnit .spent 0 0x2000000020 0
     let hd := (s.core s.cur.core).handle 1
     s.me.txa = false ∧ hd.buf ≠ none ∧ hd.ten = s.me.tenant ∧
      (s.G 1).toNat / 2 ^ 32 + (s.G 1).toNat % 2 ^ 32 ≤ 64 * hd.sizeb.toNat ∧ regionOf (s.G 0) = none ∧ hd.st = .spent ∧
      s.regionBusy s.cur 1 = false ∧ s.me.xfers.length < 64 ∧ hd.st ≠ .filling ∧ hd.st ≠ .draining ∧ s.G 0 = 0 ∧
      (hd.st = .free ∨ hd.st = .spent)) ∧
    (let s := testUnit .full 1 0 0
     let hd := (s.core s.cur.core).handle 1
     s.me.txa = false ∧ hd.buf ≠ none ∧ hd.ten = s.me.tenant ∧ ¬(hd.st = .free ∨ hd.st = .spent) ∧ hd.unl = false ∧
      hd.pips.toNat ≠ 0 ∧ s.me.pue = false) ∧
    (let s := testUnit .full 1 0 0b00100
     s.me.pue = true ∧ s.txs = []) ∧
    (let s := testUnit .filling 0 0 0
     let hd := (s.core s.cur.core).handle 1
     hd.buf ≠ none ∧ hd.ten = s.me.tenant ∧ ¬(hd.st ≠ .filling ∧ hd.st ≠ .draining)) ∧
    (let x : Word := 0xFFFFFD0000000008#64
     x.toNat % 8 = 0 ∧ regionOf x = some .remote) ∧
    (let s := testCtx (fun c => { c.setG 1 (tileVa + 0x1FFF8#64) with board := some testPos })
     let w := leNat (s.tileBytes s.cur 0 0x1FFF8 8)
     (s.G 1).toNat % 8 = 0 ∧ regionOf (s.G 1) = some .tile ∧ s.me.tilePlace (s.G 1) = some (0, 0x1FFF8) ∧
      s.me.dataWaits 0 0x1FFF8 8 = false ∧ ¬(w / 2 ^ 56 ≠ (s.G 0).toNat % 2 ^ 8 ∨ w % 2 ^ 28 < w / 2 ^ 28 % 2 ^ 28) ∧
      w / 2 ^ 56 ≠ (1#64).toNat % 2 ^ 8) := by decide +kernel

/-- The thread at a `pfill` of one line with one pip for group 15. -/
def Sys2Proof.testFill : State := testCtx (fun c => { (c.setG 1 0x100).setG 2 0x1F01 with quota := 1 })

theorem test_linesApart (l : Nat → Nat) : ∀ j < 0, l j ≠ l 0 := fun j h => absurd h (Nat.not_lt_zero j)

theorem witness_PipFillsAndClosings :
    (testBase.me.txa = false ∧ DirSorted testBase ∧ (testBase.G 1).toNat % 128 = 0 ∧ (testBase.G 2).toNat % 2 ^ 8 = 0) ∧
    (let s := testFill
     s.me.txa = false ∧ DirSorted s ∧ (s.G 1).toNat % 128 = 0 ∧ (s.G 2).toNat % 2 ^ 8 = 1 ∧ (s.G 2).toNat / 2 ^ 12 % 2 ^ 16 = 1 ∧
      s.txs = [] ∧ s.me.xfers.length < 64 ∧ regionOf (s.G 0) = none ∧ regionOf (s.G 1 + BitVec.ofNat 64 (128 * 0)) = none ∧
      (∀ m ∈ s.walkLines s.me.tenant (s.G 1 + BitVec.ofNat 64 (128 * 0)), LineFree s m) ∧
      s.translate s.me.tenant (s.G 1 + BitVec.ofNat 64 (128 * 0)) .write = .ok (testLeaf 0x100) ∧
      lineOf (testLeaf 0x100).pa = 0x800002 ∧ foreign (testLeaf 0x100).pa = false ∧ s.pipped 0x800002 = false ∧
      LineFree s 0x800002 ∧ (∀ home, s.pipsAt s.cur home + 0 < s.me.quota.toNat ∧ s.pinnedAt home + 0 < 8192)) ∧
    ((let s := testFill.onMe (fun c => c.setG 1 tileVa)
      (s.G 1).toNat % 128 = 0 ∧ (regionOf (s.G 1)).isSome = true) ∧
     (let s := testFill.onMe (fun c => c.setG 1 0x40000000)
      (s.G 1).toNat % 128 = 0 ∧ regionOf (s.G 1) = none ∧
        (s.walkLines s.me.tenant (s.G 1)).all (fun m => !lineHeld s m) = true ∧
        s.translate s.me.tenant (s.G 1) .write = .error .page) ∧
     (let s := testFill.setDir 0x800002 { DirEntry.none with st := .pipped, pips := 1 }
      s.pipped 0x800002 = true) ∧
     (let s := (testFill.put 0x2008 (leBytes 8 0x10000000000F)).onMe (fun c => c.setG 1 0x40000000)
      (s.G 1).toNat % 128 = 0 ∧ regionOf (s.G 1) = none ∧ (s.translate s.me.tenant (s.G 1) .write).toOption = some
        ⟨0x100000000000, false, true, true, true, 0, 2⟩ ∧ foreign 0x100000000000 = true) ∧
     (testFill.onMe (fun c => { c with quota := 0 })).me.quota.toNat = 0) ∧
    (testCtx (fun c => { c with xfers := [{ Xfer.blank .fill 0 with group := 15 }] })).me.fillsGroup 15 = true ∧
    (let s (st : BitVec 5) := (testPipped 1 false false).onMe (fun c =>
      { c with status := st, groups := c.groups.set 0 { c.groups[0] with isOpen := true } })
     (s 0).me.fillsGroup 0 = false ∧ ((s 0).me.groups[0]).isOpen = true ∧ (s 0).groupLines (s 0).cur 0 ≠ [] ∧ (s 0).me.pue = false ∧
      (s 4).me.fillsGroup 0 = false ∧ ((s 4).me.groups[0]).isOpen = true ∧ (s 4).groupLines (s 4).cur 0 ≠ [] ∧
      (s 4).me.pue = true ∧ (s 4).txs = [] ∧ DirSorted (s 0)) := by
  refine ⟨⟨by decide, by unfold DirSorted; decide, by decide, by decide⟩,
    ⟨by decide, by unfold DirSorted; decide, by decide, by decide, by decide, by decide, by decide, by decide, by decide,
      test_linesFree (by decide), by decide,
      by decide, by decide, by decide, test_lineFree (by decide), ?_⟩, by decide, by decide,
    ⟨by decide, by decide, by decide, by decide, by decide, by decide, by decide, by decide, by decide, by unfold DirSorted; decide⟩⟩
  intro home
  have h1 : testFill.dir = [] := by decide
  have h2 : testFill.me.quota.toNat = 1 := by decide
  unfold State.pipsAt State.pinnedAt
  rw [h1, h2]
  simp

/-- A queue with room for 16 entries on chip and 8 in its spill area. -/
def Sys2Proof.testQueue : Queue := ⟨0x1000, 8, 16, 21, [], [], 0, 0, 0, false, false, 0, []⟩

/-- A stage that takes from queue 0 and puts into queue 1. -/
def Sys2Proof.testStage : Stage := ⟨0x400, 2, 0, 0, false, 0, 1, [], 0, 0, false⟩

/-- A launch of that stage, of tenant 0. -/
def Sys2Proof.testLaunch (st : LaunchState) (q0 q1 : Queue) : Launch :=
  { Launch.bare 0x2000 0 0 0 with state := st, stages := [testStage], queues := [q0, q1] }

/-- The thread as an instance of that stage, and the launch in slot 0. -/
def Sys2Proof.testWork (l : Launch) (r : Option (BitVec 128)) (cancel : Bool) : State :=
  { testCtx (fun c => { c with inst := some ⟨0, 0, 0, r, false, none⟩, cancel := cancel }) with slots := [(0, ⟨0, some l⟩)] }

/-- A launch instruction of a thread whose store to a queue port back-pressure holds. -/
theorem witness_StepRunsTheDecodedInstruction_waits :
    let l : Launch := testLaunch .running { testQueue with heldStores := [(9, 10000, .thread ⟨0, .n⟩)] } testQueue
    let s : State := { testWord 0xdc220000 with slots := [(0, ⟨0, some l⟩)] }
    s.agenda = [] ∧ s.me.run = .running ∧ s.pendingStep s.cur = none ∧ s.wordsWait s.cur s.pc = none ∧
      s.fetchWords s.cur s.pc = .ok (0xdc220000#32, 0) ∧ decode 0xdc220000#32 0 = .ok (.launch 1 2) ∧
      s.storesBlock (.launch 1 2) = true := by decide

theorem test_find_range {α : Type} (x : α) : ∀ (k m n : Nat), m ≤ n → n < m + k →
    Tbl.find ((List.range' m k).map (fun j => (j, x))) n = some x := by
  intro k
  induction k with
  | zero => intro m n h1 h2; omega
  | succ k ih =>
    intro m n h1 h2
    rw [List.range'_succ, List.map_cons]
    unfold Tbl.find
    rw [if_neg (by omega)]
    by_cases h : n = m
    · rw [if_pos h]
    · rw [if_neg h]; exact ih (m + 1) n (by omega) (by omega)

/-- Every launch slot holds a launch. -/
def Sys2Proof.testFull : State :=
  { testBase with slots := (List.range' 0 1024).map (fun j => (j, ⟨0, some (testLaunch .held testQueue testQueue)⟩)) }

theorem test_full : ∀ n < 1024, testFull.launchAt n ≠ none := by
  intro n hn
  have h : Tbl.find testFull.slots n = some ⟨0, some (testLaunch .held testQueue testQueue)⟩ :=
    test_find_range _ 1024 0 n (Nat.zero_le n) (by omega)
  unfold State.launchAt State.slot Tbl.getD
  rw [h]
  exact fun e => by cases e

/-- The thread with a launch record of one stage and one queue at 0x2000. -/
def Sys2Proof.testRecord : State :=
  ((testCtx (fun c => c.setG 1 0x2000)).put (loadBase + 0x2000) (leBytes 4 1 ++ [1, 1])).put (loadBase + 0x2000 + 64)
    (leBytes 15 0 ++ [1] ++ leBytes 16 0 ++ leBytes 12 0 ++ [16, 0])

theorem test_record : (match testRecord.readRecord (some testRecord.cur) testRecord.me.tenant (testRecord.G 1) with
    | .done (s0, r) => testDone (s0.readSucc (some testRecord.cur) testRecord.me.tenant r.head) &&
      (match s0.readSucc (some testRecord.cur) testRecord.me.tenant r.head with
      | .done (s1, _) => (s1.recordFault testRecord.me.tenant (testRecord.G 1) r).isNone && r.stages.length == 1
      | _ => false)
    | _ => false) = true := by decide

theorem witness_WorkQueueInstructions :
    (testBase.me.txa = false ∧ (testBase.G 1).toNat % 128 = 0 ∧ ∀ n < 1024, testFull.launchAt n ≠ none) ∧
    ((testRecord.G 1).toNat % 128 = 0 ∧ testRecord.launchAt 0 = none ∧
      (∃ s0 r s1 sc, testRecord.readRecord (some testRecord.cur) testRecord.me.tenant (testRecord.G 1) = .done (s0, r) ∧
        s0.readSucc (some testRecord.cur) testRecord.me.tenant r.head = .done (s1, sc) ∧
        s1.recordFault testRecord.me.tenant (testRecord.G 1) r = none)) ∧
    (let e : BitVec 128 := 5
     let q (f : Queue → Queue) : Queue := f testQueue
     let s := testWork (testLaunch .running (q (fun x => { x with chip := [e] })) testQueue) none false
     s.me.inst = some ⟨0, 0, 0, none, false, none⟩ ∧ s.me.st < 65535 ∧
      s.launchAt 0 = some (testLaunch .running (q (fun x => { x with chip := [e] })) testQueue) ∧
      testStage.outmask.getLsbD 0 = false ∧
      testStage.outmask.getLsbD 1 = true ∧ (testLaunch .running testQueue testQueue).queue 1 = some testQueue ∧
      (testLaunch .running (q (fun x => { x with chip := [e] })) testQueue).queue testStage.inq = some (q (fun x => { x with chip := [e] })) ∧
      testQueue.blocked = false ∧ testQueue.closed = false ∧ s.qfullWaits 0 1 = none ∧
      (q (fun x => { x with chip := List.replicate 16 e, waiting := List.replicate 8 e })).blocked = true ∧
      (q (fun x => { x with closed := true, faulted := true })).blocked = true ∧
      (q (fun x => { x with closed := true })).faulted = false ∧
      (q (fun x => { x with closed := true })).drained = true ∧ testQueue.drained = false ∧ s.me.cancel = false ∧
      (q (fun x => { x with waiting := [e] })).chip = [] ∧ (q (fun x => { x with waiting := [e], spilled := 1 })).drained = false ∧
      (testWork (testLaunch .running testQueue testQueue) (some e) true).me.cancel = true ∧
      (testWork (testLaunch .running testQueue testQueue) (some e) true).me.inst = some ⟨0, 0, 0, some e, false, none⟩ ∧
      ({ testLaunch .running testQueue testQueue with cancelling := true } : Launch).cancelling = true ∧
      (testCtx (fun c => { c with yreq := true })).me.yreq = true ∧ (testCtx (fun c => { c with ld := 1 })).me.ld ≠ 0) ∧
    (let s := (testWork (testLaunch .running testQueue testQueue) none true).onMe (fun c =>
      { c with waiting := true, pushWait := true, inst := some ⟨0, 0, 0, none, true, none⟩ })
     s.me.inst = some ⟨0, 0, 0, none, true, none⟩ ∧ s.launchAt 0 = some (testLaunch .running testQueue testQueue) ∧
      ¬(s.me.pushWait = false ∨ s.me.cancel = false)) ∧
    (let s := ((testWork (testLaunch .running testQueue testQueue) none false).setDir 0x800002 { DirEntry.none with
        st := .pipped, pips := 1, saved := List.replicate 128 0 }).onMe (fun c =>
      { c with status := 4, groups := c.groups.set 0 { c.groups[0] with isOpen := true } })
     s.me.inst = some ⟨0, 0, 0, none, false, none⟩ ∧ s.launchAt 0 = some (testLaunch .running testQueue testQueue) ∧
      (s.closeAllGroups s.cur).2 = 1 ∧ s.me.pue = true ∧ s.me.ld = 0 ∧ s.me.st = 0 ∧ s.me.cp = 0 ∧ s.me.mx = 0 ∧ s.me.fx = 0) ∧
    (testBase.me.inst = none ∧ testBase.txs = []) ∧
    (let s : State := { testWork (testLaunch .running testQueue testQueue) none false with jobs := [(0, ⟨1, 0⟩)] }
     s.foreignObject 0 0 s.me.tenant = true ∧ s.txs = []) ∧
    (let s := testWork (testLaunch .running testQueue testQueue) none false
     s.foreignObject 0 0 s.me.tenant = false ∧ (s.levelStatus 0 0).toNat % 8 = 0 ∧
      (s.slot 0).gen.toNat = (0#64).toNat / 2 ^ 10 % 2 ^ 22) ∧
    (let s := testWork (testLaunch .complete testQueue testQueue) none false
     s.foreignObject 0 0 s.me.tenant = false ∧ (s.levelStatus 0 0).toNat % 8 ≠ 0) ∧
    (let s := (testWork (testLaunch .running testQueue testQueue) none false).onMe (fun c =>
      { (c.setG 1 (queueVa + 0x7F0#64)).setG 2 1 with vtype := 0, vl := 16 })
     let va := s.G 1 + (0#13).signExtend 64
     let vb := s.G 1 - 16
     regionOf va = some .queue ∧ va.toNat % 2 ^ 40 = 0x7F0 ∧ va.toNat % 8 = 0 ∧ s.G 2 = 1 ∧ regionOf vb = some .queue ∧
      vb.toNat % 2 ^ 40 % 0x800 + 16 ≤ 0x7F0 ∧ vb.toNat % 16 = 0 ∧ s.me.group 31 = true ∧ s.me.vstart = 0 ∧
      s.me.vl.toNat * (s.me.ew / 8) = 16 ∧ (testLaunch .running testQueue testQueue).state.isFinal = false ∧
      (testLaunch .running testQueue testQueue).tenant = s.me.tenant) := by
  refine ⟨⟨by decide, by decide, test_full⟩, ⟨by decide, by decide, ?_⟩, by decide, by decide, by decide, by decide, by decide,
    by decide, by decide, by decide⟩
  have h := test_record
  cases hm : testRecord.readRecord (some testRecord.cur) testRecord.me.tenant (testRecord.G 1) with
  | done a =>
    rw [hm] at h
    cases hs : a.1.readSucc (some testRecord.cur) testRecord.me.tenant a.2.head with
    | done b =>
      simp only [hs, Bool.and_eq_true] at h
      exact ⟨a.1, a.2, b.1, b.2, rfl, hs, Option.isNone_iff_eq_none.1 h.2.1⟩
    | wait s => simp [hs, testDone] at h
    | fault c a => simp [hs, testDone] at h
  | wait s => rw [hm] at h; cases h
  | fault c a => rw [hm] at h; cases h

/-! ### The board, the memory system and the schedulers -/

/-- The bytes of an image without pieces, tiles or entries; its CRC was computed outside from the polynomial of R219. -/
def Sys2Proof.testImageBytes : List Byte :=
  let rec_ (j : Nat) : List Byte := [BitVec.ofNat 8 j, 0, 0xFF, 0xFF] ++ List.replicate 60 0
  (leBytes 4 0x4B444C4D ++ [1, 0, 0, 0] ++ leBytes 4 1024 ++ leBytes 4 0x262C17C9 ++ [0xFF, 0xFF] ++ List.replicate 110 0)
    ++ (List.range 6).flatMap rec_ ++ (List.replicate 8 0).flatMap rec_

/-- The thread with that image at 0x2000. -/
def Sys2Proof.testImaged : State := (testCtx (fun c => c.setG 1 0x2000)).put (loadBase + 0x2000) testImageBytes

/-- A position or restore answers code n. -/
def Sys2Proof.testCode (n : Nat) (m : Moved (State × Nat)) : Bool :=
  match m with
  | .done (_, c) => c == n
  | _ => false

theorem test_code {n : Nat} {m : Moved (State × Nat)} (h : testCode n m = true) : ∃ s1, m = .done (s1, n) := by
  cases m with
  | done a =>
    obtain ⟨s1, c⟩ := a
    exact ⟨s1, by simp [testCode] at h; rw [h]⟩
  | wait s => cases h
  | fault c a => cases h

theorem test_loads : testCode 0 (testImaged.loadPosition testImaged.cur (testImaged.G 1)) = true := by decide +kernel

theorem test_no_image : testCode 1 (testBase.loadPosition testBase.cur (testBase.G 1)) = true := by decide +kernel

/-- The position with an access of its AGEN waiting. -/
def Sys2Proof.testAgen (f : AgenState → AgenState) : Position :=
  { testPos with pieces := [(34, Piece.fresh (.agen (f ⟨false, false, 0x100, [], 1, [⟨0, 0x100, none, .issued⟩], 0, none, none, false, false⟩)))] }

/-- An invocation of entry 0 on it. -/
def Sys2Proof.testInv (f : Invocation → Invocation) : Invocation :=
  f (testBase.me.startInv testImage 0 0 (List.replicate 6 none) 0)

/-- The thread with a position and an invocation. -/
def Sys2Proof.testBoard (p : Option Position) (v : Option Invocation) : State :=
  testCtx (fun c => { c with board := p, inv := v, slots := c.slots.set 0 (some ⟨0x1000, 0⟩), fx := 1 })

theorem witness_TrapReturn :
    (∀ x ∈ [0x10014, 0x10114, 0x10314, 0x10414, 0x10514, 0x10614],
      let s := testFrame x 1 0
      let pa := loadBase + 0x1000
      let kind := s.num pa 8 / 2 ^ 8 % 16
      Memory.wf memDefault s.mem = true ∧ s.me.txa = false ∧ s.me.heldBare = false ∧ (s.byte (pa + 0x20)).getLsbD 0 = true ∧
      s.num pa 8 / 2 ^ 16 % 2 = 1 ∧ kind = x / 256 % 16 ∧ s.wordsWait s.cur 0 = none ∧
      s.fetchWords s.cur (BitVec.ofNat 64 (s.num (pa + 0x18) 8) &&& ~~~(3#64)) =
          .ok (BitVec.ofNat 32 (s.num (pa + 0x50) 4), BitVec.ofNat 32 (s.num (pa + 0x54) 4))) ∧
    (let s := testFrame 0x10114 1 5
     let pa := loadBase + 0x1000
     s.wordsWait s.cur 0 = none ∧ s.fetchWords s.cur 0 = .ok (0, 0) ∧ s.num (pa + 0x50) 4 = 5) ∧
    (let s := testFrame 0x10214 1 0
     s.num (loadBase + 0x1000) 8 / 2 ^ 8 % 16 = 2 ∧ s.me.inv = none ∧
      (let v := testInv (fun v => { v with held := true })
       (s.onMe (fun c => { c with board := some testPos, inv := some v })).me.inv = some v ∧ v.held = true ∧
        frameFree (s.onMe (fun c => { c with board := some testPos, inv := some v })) (loadBase + 0x1000))) ∧
    (∀ x ∈ [(0x10014, 0), (0x14, 1)],
      let s := testFrame x.1 x.2 0
      let pa := loadBase + 0x1000
      Memory.wf memDefault s.mem = true ∧ s.me.txa = false ∧
        ((s.byte (pa + 0x20)).getLsbD 0 = false ∨ s.num pa 8 / 2 ^ 16 % 2 = 0)) := by
  refine ⟨by decide, by decide, ⟨by decide, by decide, rfl, rfl, ?_⟩, by decide⟩
  exact ⟨by decide, test_linesFree (by decide), ⟨testLeaf 0x1000, by decide, rfl⟩, test_bytesFree (by decide) (by decide), by decide⟩

/-- The thread with a save image without a position at 0x2000. -/
def Sys2Proof.testSaved : State :=
  (testCtx (fun c => c.setG 1 0x2000)).put (loadBase + 0x2000) (testBase.me.saveImage.take 128)

theorem witness_BoardInstructions :
    (let s := testBoard (some testPos) (some (testInv id))
     s.me.txa = false ∧ s.me.inv = some (testInv id) ∧ (testInv id).held = false) ∧
    (let s := testBoard (some testPos) (some (testInv (fun v => { v with held := true })))
     s.me.txa = false ∧ s.me.inv = some (testInv (fun v => { v with held := true })) ∧ (s.G 1).toNat % 128 = 0) ∧
    (testImaged.me.inv = none ∧ (testImaged.G 1).toNat % 128 = 0 ∧
      (∃ s1, testImaged.loadPosition testImaged.cur (testImaged.G 1) = .done (s1, 0)) ∧
      ∃ s1, testBase.loadPosition testBase.cur (testBase.G 1) = .done (s1, 1)) ∧
    (testSaved.me.xfers = [] ∧ (∃ s1, testSaved.saveBoard testSaved.cur (testSaved.G 1) = .done s1) ∧
      (∃ s1, testSaved.restoreBoard testSaved.cur (testSaved.G 1) false = .done (s1, 0)) ∧
      ∃ s1, testBase.restoreBoard testBase.cur (testBase.G 1) false = .done (s1, 13)) ∧
    (let s := testBoard (some testPos) none
     let fs : List (Option (BitVec 5)) := [some 1, some 2, none, some 3, none, none]
     let w := testPos.image.entries.getD 0 0
     s.me.vstart = 0 ∧ s.me.maskOk 7 = true ∧ s.me.inv = none ∧ s.me.slots[0] = some ⟨0x1000, 0⟩ ∧ s.me.board = some testPos ∧
      testPos.addr = 0x1000 ∧ 8 ≤ testPos.arrived ∧ w.getLsbD 31 = true ∧ (∀ j < 6, (boundReg w fs j).isNone = true) ∧
      testPos.image.fieldsBad w fs = false ∧ s.me.countsBad testPos.image w fs = none ∧
      (testPos.image.entries.getD 1 0).getLsbD 31 = false) ∧
    (let s := testCtx (fun c => { c with slots := c.slots.set 0 (some ⟨0x7F00000000, 0⟩) })
     s.me.vstart = 0 ∧ s.me.slots[0] = some ⟨0x7F00000000, 0⟩ ∧ s.me.board = none ∧
      (match s.imageBytes s.me.tenant (0x7F00000000 + BitVec.ofNat 64 (0x40 + 4 * 0)) 4 with
        | .fault k va => k == Cause.page && va == 0x7F00000040#64 | _ => false) = true) ∧
    testBase.me.slots[15] = none := by
  refine ⟨⟨by decide, rfl, rfl⟩, ⟨by decide, rfl, by decide⟩, ⟨by decide, by decide, test_code test_loads, test_code test_no_image⟩,
    ⟨by decide, test_done (by decide +kernel), test_code (by decide +kernel), test_code (by decide +kernel)⟩,
    ⟨by decide, by decide, by decide, by decide, rfl, by decide +kernel⟩, by decide +kernel, by decide⟩

/-- An image whose AGEN feeds a RED that takes late elements in segments of one. -/
def Sys2Proof.testLateImage : Image :=
  { testImage with pieces := [⟨26, [0x2200, 0xFFFF, 0xFFFF, 0xFFFF], [0x140, 1], []⟩, ⟨34, [], [], []⟩] }

theorem witness_BoardSteps :
    (let q := { testPos with coming := [List.replicate 64 0] }
     (testBoard (some q) none).me.board = some q ∧ q.coming = List.replicate 64 0 :: []) ∧
    (testBoard none none).me.board = none ∧
    (let v := testInv id
     let s := testBoard (some (testAgen id)) (some v)
     s.me.board = some (testAgen id) ∧ s.me.inv = some v ∧ v.held = false ∧ (s.core 0).ctxU.invRunning = false ∧
      (s.me.fabricCycle (s.noticeWaits 0).isNone (testAgen id) v).2 = none ∧ v.stall < 65536 ∧
      (testAgen id).image.piece (34 + (0#3).toNat) = some ⟨34, [], [], []⟩ ∧
      (∃ k, (testAgen id).agen (34 + (0#3).toNat) = some k ∧ k.candidate = some ⟨0, 0x100, none, .issued⟩) ∧
      s.me.invDone (testAgen id) v = false) ∧
    (let r : PieceRec := ⟨34, [], [0x4C], []⟩
     let s := (testVec 0 4).onMe (fun c => { c with board := some (testAgen id) })
     (testAgen id).image.lateFor (testAgen id).image.routes 34 = none ∧
      (let g := testLateImage
       let a : AgenState := ⟨false, false, 0x100, [], 5, (List.range 4).map (fun j => ⟨j, 0x100, none, .spilled 3⟩), 0, none, none, false, false⟩
       (g.lateFor g.routes 34).map (·.2) = some 1 ∧ a.segmentRoom (some 1) 4 = false ∧ a.segmentRoom none 4 = true) ∧
      2 ^ r.pf 0 3 2 = 8 ∧ r.pf 0 6 5 = 2 ∧ 0x100 + 8 ≤ 131072 ∧ 131072 < 0x1FFF9 + 8 ∧
      (testAgen id).dataWaits 0 0x100 8 = false ∧ (testAgen id).spills < 16 ∧ s.noticeWaits 0 = none ∧
      (⟨34, [], [], []⟩ : PieceRec).pf 0 6 5 = 0 ∧ regionOf 0x4000000100#64 = none ∧
      (∃ pa, s.me.resident 0x4000000100#64 1 true = .ok (pa, false) ∧ BytesFree s pa 1 ∧ s.poisoned pa 1 = false) ∧
      (∃ e, s.me.resident 0x10000#64 1 true = .error e) ∧ Memory.wf memDefault s.mem = true) ∧
    ((testCore (fun k => { k with ctxU := { k.ctxU with board := some testPos, inv := some (testInv id) } })).core 0).ctxU.invRunning = true ∧
    65536 ≤ (testInv (fun v => { v with stall := 65536 })).stall ∧
    (let q := FabStop.none
     let v := testInv (fun v => { v with cut := some q, quiet := 16 })
     v.cut = some q ∧ 16 ≤ v.quiet ∧ testPos.cutWaits = false) ∧
    (let p := { testPos with pieces := [] }
     let v := testInv (fun v => { v with outs := Vector.replicate 2 ⟨0, none, 0, none, ⟨[], false⟩, true⟩ })
     (∀ q, v.cut = some q → q.cause = 0) ∧ (testBoard (some p) (some v)).me.invDone p v = true) ∧
    (testInv (fun v => { v with svc := { v.svc with due := [1] } })).svc.outstanding ≠ 0 ∧
    (let p := testAgen (fun a => { a with relatch := some 1, accs := [⟨0, 0, none, .ready 5⟩] })
     ∃ k, (testBoard (some p) none).me.board.bind (fun p => p.agen (34 + (0#3).toNat)) = some k ∧ k.relatch = some 1 ∧
      ∀ y ∈ k.accs, 1 ≤ y.idx ∨ y.value.isSome = true) := by
  refine ⟨⟨rfl, rfl⟩, by decide, ⟨rfl, rfl, rfl, by decide, by decide +kernel, by decide, by decide, ⟨_, rfl, by decide⟩,
    by decide +kernel⟩, ⟨by decide, by decide +kernel, by decide, by decide, by decide, by decide, by decide, by decide, by decide, by decide, by decide,
      ⟨loadBase + 0x100, by decide, test_bytesFree (by decide) (by decide), by decide⟩, ⟨.vwin, by decide⟩, by decide⟩,
    by decide, by decide, by decide, ⟨?_, by decide⟩, by decide, ⟨_, rfl, rfl, ?_⟩⟩
  · intro q h; cases h
  · decide

/-- The record of a piece with its first inputs bound, and parameter words. -/
def Sys2Proof.testRec (n ins : Nat) (ps : List Tok) : PieceRec := ⟨n, List.replicate ins 0, ps, []⟩

/-- Heads at the first inputs of a piece, no input ended, and room at both outputs. -/
def Sys2Proof.testView (hs : List (Option Tok)) : View := ⟨hs, List.replicate 4 false, [true, true]⟩

/-- The inputs at and below n ended, with nothing at the others. -/
def Sys2Proof.testEnded (hs : List (Option Tok)) (n : Nat) : View :=
  ⟨hs, (List.range 4).map (fun j => decide (j < n)), [true, true]⟩

/-- A position of a FIFO tile of depth 4, a MAP that adds its two inputs, both from port in0, and out0 from the MAP. -/
def Sys2Proof.testFabric : Position :=
  let r : PieceRec := ⟨0, [0x8000, 0x8000], [1], []⟩
  { Position.ofImage ⟨0, 0, 0, 0xFFFF, [0x80000000#32], List.replicate 6 ⟨0xFFFF, []⟩, [⟨2, false, 0x8000, 4, 0, 0⟩], [r]⟩ 0x1000 [] with
    arrived := 30, pieces := [(0, { Piece.fresh .plain with ins := (Vector.replicate 4 ⟨[], true⟩).set 0 ⟨[3], false⟩ |>.set 1 ⟨[4], false⟩ })]
    tiles := Vector.replicate 8 ⟨[], [5], ⟨[6], false⟩, ⟨none, false⟩⟩ }

/-- The board of that position, with a token in the register of in0 and its end raised. -/
def Sys2Proof.testCyc : Cyc :=
  let v := testInv (fun v => { v with ins := v.ins.set 0 { v.ins[0] with out := ⟨some 9, true⟩ } })
  ⟨⟨testFabric, v⟩, testBase.me, [], false, none, none⟩

theorem witness_BoardFirings :
    (let c := testCyc
     let b0 := c.brd
     let rs : List (OutId × InId) := [(.port 0, .piece 0 0), (.port 0, .tile 0)]
     (b0.outp (.port 0)).reg = some 9 ∧ (destsOf rs (.port 0)).Nodup ∧ OutId.port 0 ∈ b0.pos.image.outputs ∧
      (b0.outp (.port 0)).ended = true ∧ b0.departs rs (.port 0) = true ∧
      destsOf rs (.port 0) = [.piece 0 0, .tile 0] ∧ (∀ i ∈ destsOf rs (.port 0), b0.pos.armed i = true) ∧
      (Tbl.find b0.pos.pieces 0).isSome = true ∧
      b0.pos.image.role 0 = 2 ∧ b0.hasRoom rs (.tile 0) = true ∧
      (b0.pos.tile 0).fifo.length < b0.pos.image.tiles[0]?.elim 0 TileRec.depth ∧
      Tbl.find b0.pos.pieces 0 ≠ none ∧ b0.pos.armed (.piece 0 0) = true ∧ b0.inv.cut = none ∧
      ((c.piece b0 rs (fun _ => false) ⟨0, [0x8000, 0x8000], [1], []⟩).news = [(.piece 0 0, 7)])) ∧
    -- the lockstep kinds
    (let r := testRec 0 2 [1]
     stepPlain r 0 .plain (testView [some 3, some 4]) = firing [0, 1] [(0, 7)] .plain ∧
      stepPlain r 0 .plain ⟨[none, some 4], [true, false, false, false], [true, true]⟩ =
        { Fired.idle .plain with stop := some 0x200 } ∧
      stepPlain r 0 .plain (testEnded [none, none] 2) = { Fired.idle .plain with finished := true } ∧
      stepPlain r 0 .plain (testView [some 3, none]) = Fired.idle .plain) ∧
    stepPlain (testRec 0 2 [0xA20]) 0 .plain (testView [some 0x3F80, some 0x3F80]) = firing [0, 1] [(0, 0x4000)] .plain ∧
    (stepPlain (testRec 8 2 [2]) 0 .plain (testView [some 0xFFFFFFFF, some 0]) = firing [0, 1] [(0, 1)] .plain ∧
      stepPlain (testRec 8 2 [0x12]) 0 .plain (testView [some 0, some 0x3F800000]) = firing [0, 1] [(0, 1)] .plain) ∧
    (stepPlain (testRec 12 2 [0]) 0 .plain (testView [some 5, some 1]) = firing [0, 1] [(0, 5)] .plain ∧
      stepPlain (testRec 12 2 [1]) 0 .plain (testView [some 5, some 1]) = firing [0, 1] [] .plain) ∧
    (stepPlain (testRec 20 1 [0]) 0 (.unq (some (5, 1))) (testView [some 5]) = firing [0] [] (.unq (some (5, 2))) ∧
      stepPlain (testRec 20 1 [0]) 0 (.unq (some (5, 2))) (testView [some 6]) = firing [0] [(0, 6)] (.unq (some (6, 1))) ∧
      stepPlain (testRec 20 1 [1]) 0 (.unq (some (5, 2))) (testView [some 6]) = firing [0] [(0, 5), (1, 2)] (.unq (some (6, 1))) ∧
      stepPlain (testRec 20 1 [1]) 0 (.unq (some (6, 1))) (testEnded [none] 1) = firing [] [(0, 6), (1, 1)] (.unq none)) ∧
    (stepPlain (testRec 24 1 [0x40, 2]) 0 (.seg ⟨0, none⟩) (testView [some 5]) = firing [0] [(0, 5)] (.seg ⟨1, some 5⟩) ∧
      stepPlain (testRec 24 1 [0x140, 2]) 0 (.seg ⟨1, some 5⟩) (testView [some 6]) = firing [0] [(0, 5)] (.seg ⟨0, none⟩) ∧
      stepPlain (testRec 26 1 [0x40, 2]) 0 (.seg ⟨1, some 5⟩) (testView [some 6]) = firing [0] [(0, 11)] (.seg ⟨0, none⟩) ∧
      stepPlain (testRec 26 1 [0x40, 2]) 0 (.seg ⟨1, some 5⟩) (testEnded [none] 1) = firing [] [(0, 5)] (.seg ⟨0, none⟩)) ∧
    (let r := testRec 30 2 [0, 3]
     stepPlain r 0 (.exp 0) (testView [some 5, some 2]) = firing [] [(0, 5)] (.exp 1) ∧
      stepPlain r 0 (.exp 1) (testView [some 5, some 2]) = firing [0, 1] [(0, 8)] (.exp 0) ∧
      stepPlain r 0 (.exp 0) (testView [some 5, some 0]) = firing [0, 1] [] (.exp 0)) ∧
    -- MRG
    (let k : KindState := .mrg 0 0 none none false
     stepPlain (testRec 16 2 [1]) 0 k (testView [some 3, some 4]) = firing [0] [(0, 3)] (.mrg 1 0 (some 3) none false) ∧
      stepPlain (testRec 16 2 [1]) 0 k (testView [some 4, some 3]) = firing [1] [(0, 3)] (.mrg 0 1 none (some 3) false) ∧
      stepPlain (testRec 16 2 [0]) 0 k (testView [some 3, some 3]) =
        firing [0, 1] [(0, 3)] (.mrg 1 1 (some 3) (some 3) false) ∧
      stepPlain (testRec 16 2 [0x41]) 0 (.mrg 1 0 (some 9) none false) (testView [some 3, some 4]) =
        { Fired.idle (.mrg 1 0 (some 9) none false) with stop := some 0x110 } ∧
      stepPlain (testRec 16 2 [1]) 0 k (testEnded [none, some 4] 1) = firing [1] [(0, 4)] (.mrg 0 1 none (some 4) false) ∧
      stepPlain (testRec 16 2 [0]) 0 k (testEnded [none, some 4] 1) = Fired.idle (.mrg 0 0 none none true) ∧
      stepPlain (testRec 16 2 [0]) 0 k (testEnded [none, none] 2) = { Fired.idle k with finished := true } ∧
      stepPlain (testRec 16 4 [0]) 0 k (testEnded [none, none] 2) = Fired.idle k ∧
      stepPlain (testRec 16 3 [0]) 0 k (testEnded [none, some 4, some 1] 1) = { Fired.idle k with stop := some 0x210 }) ∧
    -- SRT
    (stepPlain (testRec 22 1 [2]) 64 (.srt [(5, 0)] []) (testView [some 3]) = firing [0] [] (.srt [] [(3, 0), (5, 0)]) ∧
      stepPlain (testRec 22 1 [3]) 64 (.srt [(5, 0)] []) (testView [some 3]) = firing [0] [] (.srt [(5, 0), (3, 0)] []) ∧
      stepPlain (testRec 22 1 [3]) 64 (.srt [(5, 0)] []) ⟨[some 3], List.replicate 4 false, [false, true]⟩ =
        Fired.idle (.srt [(5, 0)] []) ∧
      stepPlain (testRec 22 1 [0]) 1 (.srt [(5, 0)] []) (testView [some 3]) =
        { Fired.idle (.srt [(5, 0)] []) with stop := some 0x116 } ∧
      stepPlain (testRec 22 1 [2]) 64 (.srt [] [(3, 0), (5, 0)]) (testEnded [none] 1) = firing [] [(0, 3)] (.srt [] [(5, 0)])) ∧
    -- TBL
    (let word (o : Nat) : Option Tok := if o = 4 then some 7 else some 0xFFFFFFFF
     stepTbl (testRec 32 1 [0, 0, 2]) word (.tbl none []) (testView [some 1]) = (firing [0] [] (.tbl none [7]), none) ∧
      stepTbl (testRec 32 1 [0, 0, 2, 9]) word (.tbl none []) (testView [some 2]) = (firing [0] [] (.tbl none [9]), none) ∧
      stepTbl (testRec 32 1 [0x20, 0, 2, 9]) word (.tbl none []) (testView [some 2]) =
        ({ Fired.idle (.tbl none []) with stop := some 0x120 }, none) ∧
      stepTbl (testRec 32 1 [1, 8, 2, 9]) word (.tbl none []) (testView [some 0]) = (firing [0] [] (.tbl none [9]), none) ∧
      stepTbl (testRec 32 1 [2, 8, 2, 9]) word (.tbl none []) (testView [some 0]) = (firing [0] [] (.tbl none [0]), some (8, 0)) ∧
      stepTbl (testRec 32 1 [2, 8, 2, 9]) word (.tbl none []) (testView [some 0xFFFFFFFF]) =
        ({ Fired.idle (.tbl none []) with stop := some 0x120 }, none)) ∧
    -- XREQ
    (stepXreq (testRec 42 1 []) false (.xreq [1, 2] 0 0 []) (testView [some 3]) = firing [0] [] (.xreq [1, 2, 3] 0 0 []) ∧
      stepXreq (testRec 42 1 []) false (.xreq [1] 0 0 []) (testEnded [none] 1) =
        { Fired.idle (.xreq [1] 0 0 []) with stop := some 0x12A } ∧
      stepXreq (testRec 42 1 []) false (.xreq [] 0 0 []) (testEnded [none] 1) =
        { Fired.idle (.xreq [] 0 0 []) with finished := true }) ∧
    -- AGEN
    (let r : PieceRec := ⟨34, [0xFFFF, 0xFFFF, 0xFFFF, 0xFFFF], [0], [0x10, 4]⟩
     let a : AgenState := ⟨false, false, 0x100, [2, 3], 4, [], 0, none, none, false, false⟩
     (stepAgen r none false a (testView [])).fired = { firing [] [] (.agen { a with
        accs := [⟨4, 0x114, none, .issued⟩], next := 5 }) with works := true }) ∧
    (let r : PieceRec := ⟨34, [0xFFFF, 0, 0xFFFF, 0xFFFF], [1], [0x10, 4]⟩
     let a : AgenState := ⟨false, false, 0x100, [2, 3], 6, [], 0, none, none, false, false⟩
     (stepAgen r none false { a with next := 4 } (testView [none, some 8])).fired = { firing [1] [] (.agen { a with
        accs := [⟨4, 0x114, some 8, .issued⟩], next := 5 }) with works := true } ∧
      (stepAgen r none false a (testView [none, some 8])).fired = { Fired.idle (.agen a) with stop := some 0x122 } ∧
      (stepAgen r none false { a with next := 4 } ⟨[], [false, true, false, false], [true, true]⟩).fired =
        { Fired.idle (.agen { a with next := 4 }) with stop := some 0x122 }) ∧
    (let r : PieceRec := ⟨34, [0, 0, 0xFFFF, 0xFFFF], [0x80003], []⟩
     let a : AgenState := ⟨false, false, 0x100, [], 0, [], 0, none, none, false, false⟩
     (stepAgen r none false a (testView [some 3, some 8])).fired = { firing [0, 1] [] (.agen { a with
        accs := [⟨0, 0x10C, some 8, .issued⟩], next := 1 }) with works := true } ∧
      (stepAgen r none false a ⟨[none, some 8], [true, false, false, false], [true, true]⟩).fired =
        { Fired.idle (.agen a) with stop := some 0x222 }) := by
  refine ⟨?_, ?_, ?_, ?_, ?_, ?_, ?_, ?_, ?_, ?_, ?_, ?_, ?_, ?_, ?_⟩ <;> decide +kernel

/-- The address of the tests' line 0x800002. -/
def Sys2Proof.testAddr : BitVec 52 := BitVec.ofNat 52 (loadBase + 0x100)

/-- The thread with a transfer of one block under way. -/
def Sys2Proof.testXfer (op : XferOp) (dst src : Word) : State :=
  testCtx (fun c => { c with xfers := [{ Xfer.blank op 0 with id := 3, dst := dst, src := src, count := 128, lines := [0x800002] }] })

/-- How a run of a transfer ends: 0 all of it, 1 a fault, 2 a wait. -/
def Sys2Proof.testRan (r : Ran) : Nat :=
  match r with
  | .all _ => 0
  | .fault .. => 1
  | .wait .. => 2

theorem test_ran_all {r : Ran} (h : testRan r = 0) : ∃ s1, r = .all s1 := by
  cases r with
  | all s => exact ⟨s, rfl⟩
  | fault s n c va => cases h
  | wait s n => cases h

theorem test_ran_fault {r : Ran} (h : testRan r = 1) : ∃ s1 n c va, r = .fault s1 n c va := by
  cases r with
  | all s => cases h
  | fault s n c va => exact ⟨s, n, c, va, rfl⟩
  | wait s n => cases h

theorem test_agent_read {s : State} {pa n : Nat} (h : (s.agentRead pa n).2.isSome = true) : ∃ s1 bs, s.agentRead pa n = (s1, some bs) := by
  obtain ⟨bs, hb⟩ := Option.isSome_iff_exists.1 h
  exact ⟨(s.agentRead pa n).1, bs, by rw [← hb]⟩

theorem test_agent_write {s : State} {pa : Nat} {bs : List Byte} (h : (s.agentWrite pa bs).2 = true) :
    ∃ s1, s.agentWrite pa bs = (s1, true) := ⟨(s.agentWrite pa bs).1, by rw [← h]⟩

theorem witness_MemorySystemSteps :
    (let line := testAddr.toNat / 128
     mapped testAddr.toNat 1 = true ∧ testBase.txs = [] ∧ LineFree testBase line ∧ (testBase.dirOf line).st ≠ .pipped ∧
      testBase.ownReq line = none ∧ (testBase.core 0).hasLine line = false ∧ (∀ q ∈ (testBase.dirOf line).named, q = 0) ∧
      Memory.wf memDefault testBase.mem = true) ∧
    (let s := testBase.setDir 0x800002 { DirEntry.none with st := .shared, ptrs := [5] }
     ∀ q ∈ (s.dirOf (testAddr.toNat / 128)).named, q ≠ 0) ∧
    (let s : State := { testBase with owning := [⟨1, [0, 5], testAddr.toNat, [7]⟩] }
     s.ownReq (testAddr.toNat / 128) = some ⟨1, [0, 5], testAddr.toNat, [7]⟩ ∧ (0#6) ∈ [(0#6), 5] ∧ ∃ q ∈ [(0#6), 5], q ≠ 0) ∧
    (let s : State := { testBase with owning := [⟨1, [0], testAddr.toNat, [7]⟩] }
     s.ownReq (testAddr.toNat / 128) = some ⟨1, [0], testAddr.toNat, [7]⟩ ∧ ∀ q ∈ [(0#6)], q = 0) ∧
    (let s := testCore (fun k => { k with l1 := [⟨0x800002, false, .n⟩] })
     (⟨testAddr.toNat / 128, false, .n⟩ : L1Line) ∈ (s.core 0).l1 ∧ s.invalidating (testAddr.toNat / 128) 0 = false ∧
      ∀ m ∈ (s.core 0).l1, s.over1 ⟨0, m.cx⟩ = true → Config.l1Set m.line ≠ Config.l1Set (testAddr.toNat / 128)) ∧
    (let s := testCore (fun k => { k with
       l1 := [⟨0x800002, false, .n⟩, ⟨4, false, .u⟩, ⟨5, false, .u⟩, ⟨6, false, .u⟩, ⟨7, false, .u⟩], ctxU := { k.ctxU with lim1 := 1 } })
     (∀ m ∈ (s.core 0).l1, m.line = testAddr.toNat / 128 → s.over1 ⟨0, m.cx⟩ = false) ∧
      s.over1 ⟨0, .u⟩ = true ∧ (⟨4, false, .u⟩ : L1Line) ∈ (s.core 0).l1) ∧
    (let s : State := { testBase with l2 := [(0x800002, ⟨⟨0, .n⟩, none⟩)] }
     Tbl.find s.l2 (testAddr.toNat / 128) = some ⟨⟨0, .n⟩, none⟩ ∧ (s.dirOf (testAddr.toNat / 128)).st ≠ .pipped ∧
      s.owningLine (testAddr.toNat / 128) = false ∧ DirSorted s ∧ ∀ m ∈ s.l2, s.over2 m.2.who = false) ∧
    (let s := testCore (fun k => { k with l1 := [⟨0x800002, true, .u⟩] })
     (⟨testAddr.toNat / 128, true, .u⟩ : L1Line) ∈ (s.core 0).l1 ∧ (s.dirOf (testAddr.toNat / 128)).st ≠ .pipped) ∧
    testInTx.txOf ⟨0, .n⟩ = some testTx ∧ populated testAddr.toNat = true ∧
    (let s := testXfer .copyl 0x100 0x180
     ∃ x, (s.ctx ⟨0, .n⟩).xfer 3 = some x ∧ x.faulted = none ∧ x.op ≠ .fill ∧ ∃ s1, s.xferRun ⟨0, .n⟩ x x.fuel = .all s1) ∧
    (let s := testXfer .copyl 0x100 0x40000000
     ∃ x, (s.ctx ⟨0, .n⟩).xfer 3 = some x ∧ x.faulted = none ∧ ∃ s1 n c va, s.xferRun ⟨0, .n⟩ x x.fuel = .fault s1 n c va) ∧
    (let s := testXfer .fill 0x100 0x180
     ∃ x, (s.ctx ⟨0, .n⟩).xfer 3 = some x ∧ x.faulted = none ∧ x.op = .fill) ∧
    (let b := (testBank [] 3).bank 0 0 0
     b.chip.length < 64 ∧ 0 < b.used ∧ ∃ s1 bs, (testBank [] 3).agentRead (b.base.toNat + 8 * (b.used - Min.min 128 b.used)) (8 * Min.min 128 b.used) = (s1, some bs)) ∧
    (let s := (testBank (List.replicate 193 128) 0).setBank 0 0 0 { (testBank (List.replicate 193 128) 0).bank 0 0 0 with cap := 1 }
     let b := s.bank 0 0 0
     let n := Min.min 128 (b.cap - b.used)
     192 < b.chip.length ∧ b.used < b.cap ∧
      ∃ s1, s.agentWrite (b.base.toNat + 8 * b.used) ((b.chip.drop (b.chip.length - n)).reverse.flatMap (fun x => leBytes 8 x.toNat)) = (s1, true)) ∧
    ((16#5).toNat ≤ 16 ∧ listPlace 0x10000 8 = true) := by
  refine ⟨⟨by decide, by decide, test_lineFree (by decide), by decide, by decide, by decide, by decide, by decide⟩, by decide,
    by decide, by decide, ⟨by decide, by decide, fun m hm ho => absurd ho (by revert m; decide)⟩, by decide,
    ⟨by decide, by decide, by decide, by unfold DirSorted; decide, by decide⟩, by decide, by decide, by decide,
    ⟨_, rfl, rfl, by decide, test_ran_all (by decide +kernel)⟩,
    ⟨_, rfl, rfl, test_ran_fault (by decide +kernel)⟩, ⟨_, rfl, rfl, rfl⟩, ⟨by decide, by decide, test_agent_read (by decide)⟩,
    ⟨by decide, by decide, test_agent_write (by decide)⟩, by decide⟩

/-- A moved value is a fault. -/
def Sys2Proof.testFault {α : Type} : Moved α → Bool
  | .fault _ _ => true
  | _ => false

theorem test_fault {α : Type} {m : Moved α} (h : testFault m = true) : ∃ f a, m = .fault f a := by
  cases m with
  | fault f a => exact ⟨f, a, rfl⟩
  | done a => cases h
  | wait s => cases h

theorem test_some {α : Type} {o : Option α} (h : o.isSome = true) : ∃ a, o = some a := Option.isSome_iff_exists.1 h

/-- The launch alone in slot 0, its thread's context free. -/
def Sys2Proof.testSched (l : Launch) : State := { State.reset with slots := [(0, ⟨0, some l⟩)] }

/-- A running launch whose queue 0 holds an entry. -/
def Sys2Proof.testReady : Launch := testLaunch .running { testQueue with chip := [0x5000] } testQueue

theorem witness_SchedulerSteps :
    (let l := testLaunch .held testQueue testQueue
     (testSched l).launchAt 0 = some l ∧ (testSched l).mayRun l = true) ∧
    (let l := { testLaunch .held testQueue testQueue with waitcnt := 1 }
     (testSched l).launchAt 0 = some l ∧ (testSched l).mayRun l = false) ∧
    (let s := testSched testReady
     let k : Candidate := ⟨0, 0, 0, testReady, testStage⟩
     leastRank s 0 (s.candidates 0) = some k ∧ s.freeCtx 0 k.stage.cx = some ⟨0, .n⟩ ∧
      k.launch.queue k.stage.inq = some { testQueue with chip := [0x5000] } ∧
      ({ testQueue with chip := [0x5000] } : Queue).head = some 0x5000 ∧ s.launchAt 0 = some k.launch ∧
      k.launch.stages[k.num]? = some k.stage ∧ (∃ s2, s.vacate ⟨0, .n⟩ k.launch.tenant = some s2)) ∧
    (let x := { testQueue with spill := 0x1000, spilled := 1 }
     let l := { testLaunch .running x testQueue with tenant := 0 }
     let s : State := { testBase.onMe (fun _ => Ctx.reset) with slots := [(0, ⟨0, some l⟩)] }
     let k : Candidate := ⟨0, 0, 0, l, testStage⟩
     leastRank s 0 (s.candidates 0) = some k ∧ s.freeCtx 0 k.stage.cx = some ⟨0, .n⟩ ∧ k.launch.queue k.stage.inq = some x ∧
      x.head = none ∧
      (∃ a, s.unitReads l.tenant (x.spill + BitVec.ofNat 64 (16 * (x.spillPos % x.spillcap))) 16 true = .done a)) ∧
    (let l := { testReady with pmap := [⟨0x5000, 1, 2⟩] }
     (testSched l).launchAt 0 = some l ∧ l.stages[(0#4).toNat]? = some testStage ∧ l.eligible testStage = true ∧
      ((testSched l).placed l testStage).isSome = true) ∧
    (let x := { testQueue with waiting := [7] }
     let l := testLaunch .running x testQueue
     let s := testWork l none false
     s.launchAt 0 = some l ∧ l.queue (0#5).toNat = some x ∧ x.waiting = 7 :: [] ∧ x.faulted = false ∧ x.spilled < x.spillcap ∧
      ∃ s1, s.unitWrite l.tenant (x.spill + BitVec.ofNat 64 (16 * ((x.spillPos + x.spilled) % x.spillcap))) (leBytes 16 (7#128).toNat) = .done s1) ∧
    (let x := { testQueue with spilled := 1 }
     let l := testLaunch .running x testQueue
     let s := testWork l none false
     x.faulted = false ∧ 0 < x.spilled ∧ x.chipRoom = true ∧
      ∃ a, s.unitReads l.tenant (x.spill + BitVec.ofNat 64 (16 * (x.spillPos % x.spillcap))) 16 true = .done a) ∧
    (let x := { testQueue with heldStores := [(9, 0, .thread ⟨0, .n⟩)] }
     x.heldStores = (9, 0, .thread ⟨0, .n⟩) :: [] ∧ x.closed = false ∧ x.blocked = false ∧ { x with closed := true }.closed = true ∧
      (testLaunch .running x x).state.isFinal = false ∧ (testLaunch .running x x).cancelling = false ∧ 0 ≤ testBase.clock.toNat ∧
      (testWork (testLaunch .running x x) none false).qfullWaits 0 0 = none ∧
      (testWork (testLaunch .running x x) none false).noticeWaits ((testLaunch .running x x).die ++ 0#4) = none) ∧
    (let s : State := { testCtx (fun c => { c with inst := some ⟨0, 0, 0, none, false, some 0⟩ }) with clock := 100000 }
     let c := s.ctx ⟨0, .n⟩
     c.inst = some ⟨0, 0, 0, none, false, some 0⟩ ∧ c.run = .running ∧ c.preempt = none ∧ 0 + 100000 ≤ s.clock.toNat) ∧
    (let c := (testCtx (fun c => { c with wfi := some (some 0) })).ctx ⟨0, .n⟩
     c.wfi = some (some 0) ∧ c.run = .running) ∧
    (let q : FabStop := FabStop.none
     let c := (testCtx (fun c => { c with fabStop := some q })).ctx ⟨0, .n⟩
     c.run = .running ∧ c.pendTrap = none ∧ c.resumed = none ∧ c.fabStop = some q) ∧
    (let d : Declined := ⟨Xfer.blank .copyl 0, 3, 0x100⟩
     let c := (testCtx (fun c => { c with declined := [d] })).ctx ⟨0, .n⟩
     c.fabStop = none ∧ c.declined = d :: []) ∧
    (let c := (testCtx (fun c => { c with fabStop := some FabStop.none, resumed := some (.vector .waits 0 (List.replicate 8 1)) })).ctx ⟨0, .n⟩
     c.run = .running ∧ c.pendTrap = none ∧ c.resumed = some (.vector .waits 0 (1 :: List.replicate 7 1)) ∧ c.fabStop = some FabStop.none) ∧
    (let s := testCtx (fun c => { c with preempt := some 3 })
     let c := s.ctx ⟨0, .n⟩
     (s.txOf ⟨0, .n⟩).isSome = false ∧ c.fabStop = none ∧ c.declined = [] ∧ c.preempt = some 3 ∧ c.mxJobs = [] ∧ c.ld = 0 ∧ c.st = 0 ∧ c.inv = none ∧ c.pendTrap = none ∧ c.run = .running ∧
      c.resumed = none) ∧
    (∀ r ∈ [Resumed.vector .paused 0 (List.replicate 8 1), .vector .waits 0 (List.replicate 8 1), .matrix .waits 8 7 true],
      let c := (testCtx (fun c => { c with preempt := some 3, resumed := some r })).ctx ⟨0, .n⟩
      c.preempt = some 3 ∧ c.fabStop = none ∧ c.declined = [] ∧ c.resumed = some r ∧ c.mxJobs = [] ∧ c.ld = 0 ∧ c.st = 0 ∧ c.inv = none) ∧
    (let x := { testQueue with spill := 0x40000000, waiting := [7] }
     let y := { testQueue with spill := 0x40000000, spilled := 1 }
     let s := testWork (testLaunch .running x y) none false
     (∃ f a, s.unitWrite 0 (x.spill + BitVec.ofNat 64 (16 * ((x.spillPos + x.spilled) % x.spillcap))) (leBytes 16 7) = .fault f a) ∧
      (∃ f a, s.unitReads 0 (y.spill + BitVec.ofNat 64 (16 * (y.spillPos % y.spillcap))) 16 true = .fault f a) ∧
      s.noticeWaits ((testLaunch .running x y).die ++ 0#4) = none) := by
  refine ⟨by decide, by decide, ⟨by decide, by decide, by decide, rfl, by decide, by decide, test_some (by decide)⟩,
    ⟨by decide, by decide, by decide, by decide, test_done (by decide +kernel)⟩, by decide,
    ⟨by decide, by decide, by decide, by decide, by decide, test_done (by decide +kernel)⟩,
    ⟨by decide, by decide, by decide, test_done (by decide +kernel)⟩, by decide, by decide, by decide, by decide, by decide, by decide,
    by decide, by decide, ⟨test_fault (by decide +kernel), test_fault (by decide +kernel), by decide⟩⟩

/-- What the tests' page table and free lines ask of a state. -/
def Sys2Proof.testMapped (s : State) : Prop :=
  Memory.wf memDefault s.mem = true ∧ s.txs = [] ∧ s.owning = [] ∧ s.host = { HostPorts.reset with modified := s.host.modified } ∧
    s.poison = [] ∧ s.roots = testBase.roots ∧ s.dword 0x1000 = 0x2001#64 ∧ s.dword 0x2000 = 0x4000000F#64

theorem test_translate {s : State} (h : testMapped s) {n : Nat} (hn : n < 2 ^ 20) (k : Need) :
    s.translate 0 (BitVec.ofNat 64 n) k = .ok (testLeaf n) := by
  obtain ⟨_, _, _, _, hp, hr, h1, h2⟩ := h
  have hva : (BitVec.ofNat 64 n).toNat = n := by rw [BitVec.toNat_ofNat]; omega
  have hc : canonical (BitVec.ofNat 64 n) = true := by
    have e : (BitVec.ofNat 64 n).extractLsb' 47 17 = 0#17 := by
      apply BitVec.eq_of_toNat_eq
      rw [BitVec.extractLsb'_toNat, hva, Nat.shiftRight_eq_div_pow, Nat.div_eq_of_lt (by omega)]
      rfl
    unfold canonical; rw [e]; rfl
  have hroot : (s.root 0).toNat = 0x1000 := by
    have e : s.root 0 = testBase.root 0 := by unfold State.root; simp only [hr]
    rw [e]; decide
  have e3 : s.walkEntry (BitVec.ofNat 64 n) 0x1000 3 = .ok (.next 0x2000) := by
    unfold State.walkEntry
    have ha : 0x1000 + 8 * ((BitVec.ofNat 64 n).toNat / 2 ^ (12 + 9 * 3) % 512) = 0x1000 := by rw [hva]; omega
    simp only [ha, h1, State.poisoned, hp]
    rfl
  have e2 : s.walkEntry (BitVec.ofNat 64 n) 0x2000 2 = .ok (.leaf (testLeaf n)) := by
    unfold State.walkEntry
    have ha : 0x2000 + 8 * (n / 2 ^ (12 + 9 * 2) % 512) = 0x2000 := by omega
    have hm : mapped (((0x4000000F#64 : BitVec 64).extractLsb' 12 40).toNat * 4096 + n % 2 ^ (12 + 9 * 2)) 1 = true := by
      have e : ((0x4000000F#64 : BitVec 64).extractLsb' 12 40).toNat = 0x40000 := by decide
      unfold mapped populated
      rw [e]
      simp only [Bool.or_eq_true, Bool.and_eq_true, decide_eq_true_eq]
      omega
    simp only [hva, ha, h2, State.poisoned, hp, hm]
    have e : n % 2 ^ (12 + 9 * 2) = n := Nat.mod_eq_of_lt (by omega)
    rw [e]
    rfl
  unfold State.translate State.walk
  simp only [hc, hroot, if_true, State.walkAt, e3, e2]
  cases k <;> rfl

theorem test_line {s : State} (h : testMapped s) (l : Nat) : LineFree s l := by
  obtain ⟨_, _, ho, hh, _⟩ := h
  refine ⟨?_, ?_, ?_, ?_, ?_⟩
  · rw [hh]; rfl
  · rw [hh]
    cases hostPortOf (l * 128) with
    | some p => exact BitVec.getLsbD_zero
    | none => cases peerPortOf (l * 128) with
      | some k => exact BitVec.getLsbD_zero
      | none => trivial
  · unfold State.flipping; rw [hh]; rfl
  · unfold State.owningLine; rw [ho]; rfl
  · rw [hh]; rfl

theorem test_free {s : State} (h : testMapped s) (pa n : Nat) : BytesFree s pa n := ⟨h.2.1, fun l _ => test_line h l⟩

theorem test_walk {s : State} (h : testMapped s) (ten : BitVec 5) (va : Word) : s.walkWaits ten va = none :=
  heldUp_free h.2.1 (fun l _ => test_line h l)

theorem test_region {n : Nat} (hn : n < 2 ^ 20) : regionOf (BitVec.ofNat 64 n) = none := by
  unfold regionOf
  rw [BitVec.toNat_ofNat, Nat.mod_eq_of_lt (by omega), Nat.div_eq_of_lt (by omega)]
  rfl

theorem test_mapped_caches {s t : State} (h : testMapped s) (k : OnlyCaches s t) : testMapped t := by
  obtain ⟨a, b, o, c, d, e, f, g⟩ := h
  have k1 := k.1
  have hm : t.mem = s.mem := by rw [k1]
  refine ⟨by rw [hm]; exact a, by rw [k1]; exact b, by rw [k1]; exact o, ?_, by rw [k1]; exact d, by rw [k1]; exact e, ?_, ?_⟩
  · rw [k1]; dsimp only; rw [c]
  · unfold State.dword; rw [num_eq_of_mem hm]; exact f
  · unfold State.dword; rw [num_eq_of_mem hm]; exact g

theorem test_mapped_put {s : State} (h : testMapped s) {pa : Nat} (hp : 0x3000 ≤ pa) (bs : List Byte) : testMapped (s.put pa bs) := by
  obtain ⟨a, b, o, c, d, e, f, g⟩ := h
  refine ⟨put_wf a pa bs, b, o, c, by show List.filter _ s.poison = []; rw [d]; rfl, e, ?_, ?_⟩
  · unfold State.dword State.num; rw [bytes_put_apart a pa bs 8 0x1000 (by omega)]; exact f
  · unfold State.dword State.num; rw [bytes_put_apart a pa bs 8 0x2000 (by omega)]; exact g

theorem test_unitWrite {s : State} (h : testMapped s) {n : Nat} (hn : n < 2 ^ 20) (bs : List Byte) :
    ∃ s1, s.unitWrite 0 (BitVec.ofNat 64 n) bs = .done s1 ∧ testMapped s1 := by
  obtain ⟨s1, h1, k1⟩ := agentWrite_free (test_free h (loadBase + n) bs.length)
  refine ⟨s1.put (loadBase + n) bs, ?_, test_mapped_put (test_mapped_caches h k1) (by unfold loadBase; omega) bs⟩
  unfold State.unitWrite
  rw [test_region hn]
  simp only [test_walk h, test_translate h hn, testLeaf, gate_free (test_free h (loadBase + n) bs.length), h1]

/-- An image that is written in the tests' gigabyte is written. -/
theorem test_imageWrite (fuel : Nat) : ∀ {s : State} {n : Nat} (bs : List Byte), testMapped s → n + bs.length < 2 ^ 20 →
    ∃ s1, s.imageWrite 0 fuel (BitVec.ofNat 64 n) bs = .done s1 ∧ testMapped s1 := by
  induction fuel with
  | zero => intro s n bs h _; exact ⟨s, rfl, h⟩
  | succ f ih =>
    intro s n bs h hn
    unfold State.imageWrite
    by_cases hb : bs.isEmpty = true
    · rw [if_pos hb]; exact ⟨s, rfl, h⟩
    · rw [if_neg hb, test_region (by omega)]
      have hva : (BitVec.ofNat 64 n).toNat = n := by rw [BitVec.toNat_ofNat]; omega
      obtain ⟨s1, e1, h1⟩ := test_unitWrite h (by omega : n < 2 ^ 20) (bs.take (Nat.min bs.length (128 - n % 128)))
      have hk : Nat.min bs.length (128 - n % 128) ≤ bs.length := Nat.min_le_left _ _
      obtain ⟨s2, e2, h2⟩ := ih (s := s1) (n := n + Nat.min bs.length (128 - n % 128)) (bs.drop (Nat.min bs.length (128 - n % 128))) h1
        (by rw [List.length_drop]; omega)
      refine ⟨s2, ?_, h2⟩
      simp only [Option.isSome_none, Bool.false_eq_true, if_false, hva, e1]
      rw [← BitVec.ofNat_add]; exact e2

theorem test_unitReads {s : State} (h : testMapped s) {n k : Nat} (hn : n < 2 ^ 20) (hk : k ≤ 128 - n % 128) :
    s.unitReads 0 (BitVec.ofNat 64 n) k true = .done (s, s.bytes (loadBase + n) k, s.poisonMap (loadBase + n) k) := by
  have hva : (BitVec.ofNat 64 n).toNat = n := by rw [BitVec.toNat_ofNat]; omega
  have hm : Nat.min k (128 - n % 128) = k := Nat.min_eq_left hk
  have hp : (s.poisonMap (loadBase + n) k).any id = false := by
    obtain ⟨_, _, _, _, d, _⟩ := h
    unfold State.poisonMap
    rw [d]
    simp
  unfold State.unitReads State.unitRead
  simp only [hva, hm, test_region hn, test_walk h, test_translate h hn, testLeaf, gate_free (test_free h (loadBase + n) k), hp, Bool.and_false,
    Bool.false_eq_true, if_false, Nat.le_refl, if_true]

theorem test_bytes_append (s : State) (a : Nat) : ∀ (m n : Nat), s.bytes a (m + n) = s.bytes a m ++ s.bytes (a + m) n := by
  intro m
  induction m generalizing a with
  | zero => intro n; rw [Nat.zero_add]; rfl
  | succ m ih =>
    intro n
    rw [show m + 1 + n = (m + n) + 1 by omega]
    show s.byte a :: s.bytes (a + 1) (m + n) = (s.byte a :: s.bytes (a + 1) m) ++ s.bytes (a + (m + 1)) n
    rw [ih (a + 1) n, List.cons_append, show a + 1 + m = a + (m + 1) by omega]

/-- Bytes never written are zeros. -/
theorem test_zeros {s : State} (m : Nat) : ∀ a, (∀ j < m, s.byte (a + j) = 0) → s.bytes a m = List.replicate m 0 := by
  induction m with
  | zero => intro a _; rfl
  | succ m jh =>
    intro a ha
    show s.byte a :: s.bytes (a + 1) m = 0 :: List.replicate m 0
    rw [show s.byte a = 0 from ha 0 (by omega),
      jh (a + 1) (fun j hj => by rw [Nat.add_assoc, Nat.add_comm 1 j]; exact ha (j + 1) (by omega))]

/-- The reading of an image gives its bytes, and changes nothing. -/
theorem test_imageRead (fuel : Nat) : ∀ {s : State} {n k : Nat}, testMapped s → n + k < 2 ^ 20 → n % 128 + k ≤ 128 * fuel →
    s.imageRead 0 fuel (BitVec.ofNat 64 n) k = .done (s, s.bytes (loadBase + n) k) := by
  induction fuel with
  | zero =>
    intro s n k _ _ hk
    rw [show k = 0 by omega]; rfl
  | succ f ih =>
    intro s n k h hn hk
    unfold State.imageRead
    by_cases hk0 : k = 0
    · rw [if_pos hk0, hk0]; rfl
    · have hva : (BitVec.ofNat 64 n).toNat = n := by rw [BitVec.toNat_ofNat]; omega
      have hm3 : Nat.min k (128 - n % 128) = 128 - n % 128 ∧ 128 - n % 128 ≤ k ∨ Nat.min k (128 - n % 128) = k ∧ k ≤ 128 - n % 128 := by
        rcases Nat.le_total k (128 - n % 128) with q | q
        · exact .inr ⟨Nat.min_eq_left q, q⟩
        · exact .inl ⟨Nat.min_eq_right q, q⟩
      rw [if_neg hk0, test_region (by omega)]
      simp only [Option.isSome_none, Bool.false_eq_true, if_false, hva]
      rcases hm3 with ⟨q, q2⟩ | ⟨q, q2⟩
      · rw [q, test_unitReads h (by omega) (by omega), ← BitVec.ofNat_add]
        dsimp only
        rw [ih h (by omega) (by omega)]
        dsimp only
        rw [← Nat.add_assoc, ← test_bytes_append, show 128 - n % 128 + (k - (128 - n % 128)) = k by omega]
      · rw [q, test_unitReads h (by omega) (by omega), Nat.sub_self]
        dsimp only
        have e : s.imageRead 0 f (BitVec.ofNat 64 n + BitVec.ofNat 64 k) 0 = .done (s, []) := by cases f <;> rfl
        rw [e]
        dsimp only
        rw [List.append_nil]

theorem test_imageBytes {s : State} {n : Nat} (k : Nat) (h : testMapped s) (hn : n + k < 2 ^ 20) :
    s.imageBytes 0 (BitVec.ofNat 64 n) k = .done (s, s.bytes (loadBase + n) k) :=
  test_imageRead _ h hn (by omega)

theorem test_default {a : Nat} (h : a < 2 ^ 40) : memDefault a = 0 := by
  have e : foreign a = false := by
    unfold foreign hostPortOf peerPortOf
    simp only [Bool.and_eq_true, decide_eq_true_eq]
    rw [if_neg (by omega), if_neg (by omega)]
    simp
    omega
  unfold memDefault
  rw [e]; rfl

theorem test_above (m : Memory) (lo a : Nat) (h : m.all (fun p => decide (p.1 < lo)) = true) (ha : lo ≤ a) :
    Memory.read memDefault m a = memDefault a := by
  induction m with
  | nil => rfl
  | cons p m ih =>
    obtain ⟨k, x⟩ := p
    simp only [List.all_cons, Bool.and_eq_true, decide_eq_true_eq] at h
    unfold Memory.read
    rw [if_neg (by omega), if_neg (by omega), ih h.2]

/-! ### The executive, hosts and the platform -/

/-- A thread that stops, with its context changed. -/
def Sys2Proof.testStopped (f : Ctx → Ctx) : State := testCtx (fun c => f { c with run := .suspended })

/-- A thread that is stopped, with a frame of no progress record at 0x1000. -/
def Sys2Proof.testStoppedFrame : State := (testFrame 0x10014 1 0).onMe (fun c => { c with run := .suspended })

/-- A free context; the area at 0x8000 holds zeros, which are an image of it without a position. -/
def Sys2Proof.testFree : State := testCtx (fun c => { c with run := .free })

theorem test_image : (taken testFree 0 .n [(0, 0x8000)]).imageBytes 0 0x8000 0x5600 =
    .done (taken testFree 0 .n [(0, 0x8000)], List.replicate 0x5600 0) := by
  have h : testMapped (taken testFree 0 .n [(0, 0x8000)]) :=
    ⟨by decide, by decide, by decide, by decide, by decide, by decide, by decide +kernel, by decide +kernel⟩
  refine (test_imageBytes (n := 0x8000) 0x5600 h (by decide)).trans ?_
  rw [test_zeros 0x5600 _ (fun j hj => ?_)]
  show Memory.read memDefault _ (loadBase + 0x8000 + j) = 0
  rw [test_above _ 0x40008000 _ (by decide) (by unfold loadBase; omega), test_default (by unfold loadBase; omega)]

theorem test_image_length (s : State) (t : Tid) (rpc board : Word) : (contextImage s t rpc board).length = 22016 := by
  have p : ∀ n (bs : List Byte), (padTo n bs).length = n := by
    intro n bs
    unfold padTo
    rw [List.length_take, List.length_append, List.length_replicate]
    omega
  have v : ∀ l : List (BitVec 4096), (l.flatMap (fun v => leBytes 512 v.toNat)).length = 512 * l.length := by
    intro l
    induction l with
    | nil => rfl
    | cons x l ih => rw [List.flatMap_cons, List.length_append, leBytes_length, ih, List.length_cons]; omega
  simp only [contextImage, List.length_append, p, v, Vector.length_toList]

theorem test_saved : ∃ s1, (let s1 := taken (testStopped id) 0 .n [(0, 0x8000), (1, 0)]
    let s0 := s1.disownTiles ⟨0, .n⟩
    let bs := contextImage s0 ⟨0, .n⟩ (s1.frameRpc ⟨0, .n⟩) 0
    s0.imageWrite (s0.ctx ⟨0, .n⟩).tenant (bs.length / 128 + 2) 0x8000 bs) = .done s1 := by
  have h : testMapped ((taken (testStopped id) 0 .n [(0, 0x8000), (1, 0)]).disownTiles ⟨0, .n⟩) :=
    ⟨by decide, by decide, by decide, by decide, by decide, by decide, by decide +kernel, by decide +kernel⟩
  have w := test_imageWrite ((contextImage ((taken (testStopped id) 0 .n [(0, 0x8000), (1, 0)]).disownTiles ⟨0, .n⟩) ⟨0, .n⟩
    ((taken (testStopped id) 0 .n [(0, 0x8000), (1, 0)]).frameRpc ⟨0, .n⟩) 0).length / 128 + 2) (n := 0x8000)
    (contextImage ((taken (testStopped id) 0 .n [(0, 0x8000), (1, 0)]).disownTiles ⟨0, .n⟩) ⟨0, .n⟩
    ((taken (testStopped id) 0 .n [(0, 0x8000), (1, 0)]).frameRpc ⟨0, .n⟩) 0) h (by rw [test_image_length]; decide)
  exact w.imp (fun _ e => e.1)

theorem test_no_board : ∀ t : Tid, (testBase.ctx t).board = none := by
  rintro ⟨c, x⟩
  cases x <;> revert c <;> decide +kernel

/-- The AGEN position with its access spilled. -/
def Sys2Proof.testSpilled : Position := testAgen (fun a => { a with accs := [⟨0, 0x100, none, .spilled 3⟩] })

/-- A faulted transfer whose notice is out. -/
def Sys2Proof.testFaulted : Xfer := { Xfer.blank .copyl 0 with id := 3, faulted := some (3, 0x100), notice := some 7 }

theorem witness_ContextCommands :
    (let s := (testCtx (fun c => { c with preempt := some 1 })).onCore 0 (fun k => { k with busy := some (.stop .n) })
     s.portBusy 0 = true ∧ (s.core 0).busy = some (.stop .n)) ∧
    ({ testBase with plat := { testBase.plat with stuck := true } } : State).plat.stuck = true ∧
    (testBase.plat.stuck = false ∧ testBase.portBusy 0 = false ∧
      ¬((testBase.ctx ⟨0, .n⟩).run = .suspended ∨ (testBase.ctx ⟨0, .n⟩).run = .held)) ∧
    (let s := testStoppedFrame
     let c := s.ctx ⟨0, .n⟩
     let pa := loadBase + 0x1000
     s.portBusy 0 = false ∧ c.run = .suspended ∧ Memory.wf memDefault s.mem = true ∧ frameFree { s with cur := ⟨0, .n⟩ } pa ∧
      c.heldBare = false ∧ (s.byte (pa + 0x20)).getLsbD 0 = true ∧
      s.num pa 8 / 2 ^ 16 % 2 = 1 ∧ s.num pa 8 / 2 ^ 8 % 16 = 0) ∧
    (let s := (testFrame 0x10014 0 0).onMe (fun c => { c with run := .suspended })
     let pa := loadBase + 0x1000
     (s.ctx ⟨0, .n⟩).run = .suspended ∧ frameFree { s with cur := ⟨0, .n⟩ } pa ∧ (s.byte (pa + 0x20)).getLsbD 0 = false) ∧
    (let s := testStopped id
     let c := s.ctx ⟨0, .n⟩
     let s1 := taken s 0 .n [(0, 0x8000), (1, 0)]
     let s0 := s1.disownTiles ⟨0, .n⟩
     let bs := contextImage s0 ⟨0, .n⟩ (s1.frameRpc ⟨0, .n⟩) 0
     s.portBusy 0 = false ∧ c.run = .suspended ∧ (0x8000#64).toNat % 256 = 0 ∧ c.board = none ∧ c.ld = 0 ∧ c.st = 0 ∧ c.mxJobs = [] ∧
      c.inv = none ∧ c.heldBare = false ∧ s0.frameReadWaits ⟨0, .n⟩ = none ∧ ∃ s1, s0.imageWrite c.tenant (bs.length / 128 + 2) 0x8000 bs = .done s1) ∧
    (let s := testFree
     let c := s.ctx ⟨0, .n⟩
     let p := c.parkedIn 0x8000
     s.portBusy 0 = false ∧ c.run = .free ∧ p.rerun = false ∧ p.tenant = 0 ∧
      ∃ s1 b, (taken s 0 .n [(0, 0x8000)]).imageBytes 0 0x8000 0x5600 = .done (s1, b) ∧ numAt b 0x380 1 = 0 ∧ numAt b 0x381 1 = 0 ∧
        numAt b 0x382 1 = 0 ∧ numAt b 0x388 8 = 0 ∧ numAt b 0x398 8 = 0 ∧ (s1.onCtx ⟨0, .n⟩ (fun c => c.reload b)).frameReadWaits ⟨0, .n⟩ = none ∧ ∀ l ∈ s1.lentLines ⟨0, .n⟩, s1.owningLine l = false) ∧
    ((testStopped (fun c => { c with mxJobs := [.row [1] 0 [] 0 0 0 true] })).me.mxJobs ≠ []) ∧
    (let c := (testCtx (fun c => { c with wfi := some none })).ctx ⟨0, .n⟩
     c.run = .running ∧ c.wfi.isSome = true) ∧
    ((testBase.ctx ⟨0, .n⟩).oldestSpill 0 = none ∧ (testBase.ctx ⟨0, .n⟩).noticed 0 = none) ∧
    (let c := (testBoard (some testSpilled) (some (testInv id))).ctx ⟨0, .n⟩
     c.oldestSpill 0 = some (0, 0x100, 3) ∧ c.inv = some (testInv id)) ∧
    (let c := (testCtx (fun c => { c with xfers := [testFaulted] })).ctx ⟨0, .n⟩
     c.noticed 7 = some testFaulted ∧ testFaulted.faulted = some (3, 0x100)) ∧
    ((testFree.ctx ⟨0, .n⟩).run = .free ∧ (0#64).toNat < 1 ∧ 3 < (4#64).toNat ∧ (testBase.ctx ⟨0, .n⟩).run = .running ∧ 1 ≤ (3#64).toNat) ∧
    (16 < (17#64).toNat ∧ (16#64).toNat ≤ 16 ∧ (1#64).getLsbD 0 = true ∧ (0#64).getLsbD 0 = false ∧
      ∀ t : Tid, (testBase.ctx t).board = none) ∧
    (let v := testInv (fun v => { v with svc := { v.svc with due := [1] } })
     let s := testBoard (some testPos) (some v)
     (s.ctx ⟨0, .n⟩).inv = some v ∧ v.svc.due = 1 :: [] ∧ devPlace 0x10000 4 = true ∧ s.poisoned 0x10000 4 = false ∧
      ∃ s1 bs, (taken s 0 .n [(0, 0x10000)]).agentRead 0x10000 4 = (s1, some bs)) := by
  have frame : ∀ f, frameFree { ((testFrame 0x10014 f 0).onMe (fun c => { c with run := .suspended })) with cur := ⟨0, .n⟩ }
      (loadBase + 0x1000) ∨ (f ≠ 0 ∧ f ≠ 1) := by
    intro f
    by_cases h : f ≠ 0 ∧ f ≠ 1
    · exact .inr h
    · left
      have h2 : f = 0 ∨ f = 1 := by omega
      rcases h2 with rfl | rfl <;>
        exact ⟨by decide, test_linesFree (by decide), ⟨testLeaf 0x1000, by decide, rfl⟩, test_bytesFree (by decide) (by decide),
          by decide⟩
  refine ⟨by decide, by decide, by decide, ⟨by decide, by decide, by decide, (frame 1).resolve_right (by decide), by decide, by decide,
      by decide, by decide⟩, ⟨by decide, (frame 0).resolve_right (by decide), by decide⟩,
    ⟨by decide, by decide, by decide, by decide, by decide, by decide, by decide, by decide, by decide, by decide +kernel, test_saved⟩,
    ⟨by decide, by decide, by decide, by decide, ?_⟩, by decide, by decide, by decide, ⟨by decide +kernel, rfl⟩, by decide,
    by decide, ⟨by decide, by decide, by decide, by decide, test_no_board⟩, ⟨rfl, rfl, by decide, by decide +kernel, test_agent_read (by decide +kernel)⟩⟩
  exact ⟨_, _, test_image, by decide +kernel, by decide +kernel, by decide +kernel, by decide +kernel, by decide +kernel, by decide +kernel, by decide⟩
theorem witness_SettingCommands :
    (testBase.portBusy 0 = false ∧
      ((testCtx (fun c => { c with preempt := some 1 })).onCore 0 (fun k => { k with busy := some (.stop .n) })).portBusy 0 = true) ∧
    (((testBase.core 0).handle 63).st = .free ∧ (taken testBase 0 .n [(0, 63), (1, 0)]).handleNamed 0 63 = false ∧
      (((testUnit .full 1 0 0).core 0).handle 1).st ≠ .free ∧ (((testUnit .full 1 0 0).core 0).handle 1).st ≠ .spent) ∧
    (let a : Word := 0x8000880000000200#64
     a.getLsbD 63 = true ∧ a.toNat / 2 ^ 43 % 4 = 1 ∧ 1 ≤ a.toNat / 2 ^ 9 % 2 ^ 15 ∧ a.toNat / 2 ^ 9 % 2 ^ 15 ≤ 16384 ∧
      a.toNat / 2 ^ 48 % 2 ^ 5 ≤ 16 ∧ 64 * (a.toNat / 2 ^ 24 % 2 ^ 14 + a.toNat / 2 ^ 9 % 2 ^ 15) ≤ bufSize .w) ∧
    (let a : Word := 0x8000800000000200#64
     a.getLsbD 63 = true ∧ a.toNat / 2 ^ 43 % 4 = 0) ∧
    (8192 ≤ (8192#64).toNat ∧ (8191#64).toNat < 8192 ∧ (0xE000000040000000#64).toNat / 2 ^ 52 % 2 ^ 8 = 0 ∧
      (0x0010000000000000#64).toNat / 2 ^ 52 % 2 ^ 8 ≠ 0 ∧ (testVec 0 0).me.vrt.Pairwise (fun p q => p.1 < q.1)) ∧
    ((testBase.core 0).notices = [] ∧ ((testBase.core 0).tail - (testBase.core 0).head).toNat < (1#32 - (testBase.core 0).head).toNat ∧
      (0#32 - (testBase.core 0).head).toNat ≤ ((testBase.core 0).tail - (testBase.core 0).head).toNat) ∧
    ((0x10000#64).toNat % 0x10000 = 0 ∧ populated (0x10000#64).toNat = true ∧ populated ((0x10000#64).toNat + 0xFFFF) = true ∧
      (0x8000#64).toNat % 0x10000 ≠ 0) ∧
    (1 < (2#64).toNat ∧ (1#64).toNat ≤ 1 ∧ 16 < (17#64).toNat ∧ (16#64).toNat < 17 ∧ (255#64).toNat < 256 ∧ testBase.slots = []) ∧
    (testBase.host.flips = [] ∧ testBase.host.bias = [] ∧ (0x1000#64).toNat % 4096 = 0 ∧ (0x1001#64).toNat % 4096 ≠ 0 ∧
      populated (0x1000#64).toNat = true ∧ populated ((0x1000#64).toNat + 0x100 + 256 * (0#64).toNat - 1) = true ∧
      Memory.wf memDefault testBase.mem = true ∧ BytesFree testBase 0x1000 256) ∧
    (let x := { testQueue with faulted := true }
     let l := testLaunch .running x testQueue
     let s := testWork l none false
     s.named 0 = some (0, l) ∧ l.queue (0#64).toNat = some x ∧ l.queue (1#64).toNat = some testQueue ∧ testQueue.faulted = false) ∧
    (let c := testBase.ctx ⟨0, (testBase.core 0).cmdCx⟩
     c.mxJobs = [] ∧ c.xfers = [] ∧ c.inv = none ∧ c.resumed = none) ∧
    (testCtx (fun c => { c with xfers := [Xfer.blank .copyl 0] })).me.xfers ≠ [] ∧
    (let s := testCtx (fun c => { c with mxJobs := [.row [1] 0 [] 0 0 0 true] })
     (taken s 0 .n [(0, 1), (1, 0)]).handleNamed 0 1 = true ∧ s.me.mxJobs ≠ []) ∧
    (testBoard (some testPos) (some (testInv id))).me.invRunning = true ∧
    (∀ r ∈ [Resumed.vector .paused 0 (List.replicate 8 1), .matrix .waits 8 7 true],
      let c := (testCtx (fun c => { c with resumed := some r })).ctx ⟨0, (testBase.core 0).cmdCx⟩
      c.run = .running ∧ ((∃ at_ a e, c.resumed = some (.vector at_ a e) ∧ at_ ≠ .given) ∨
        ∃ at_ n tag pip, c.resumed = some (.matrix at_ n tag pip) ∧ at_ ≠ .given)) ∧
    (∀ op, (((testCtx (fun c => { c with preempt := some 1 })).onCore 0 (fun k => { k with busy := some (.stop .n) })).core 0).busy ≠
      some (.command op)) ∧
    ((0x11#64).getLsbD 8 = decide (Cx.n = .u) ∧ (0x11#64).toNat % 256 = 0x11 ∧ (0x11F#64).getLsbD 8 = decide (Cx.u = .u) ∧
      (0x11F#64).toNat % 256 = 0x1F) ∧ testBase.plat.stuck = false := by
  refine ⟨by decide, by decide, by decide, by decide, by decide, by decide, by decide, by decide,
    ⟨by decide, by decide, by decide, by decide, by decide, by decide, by decide, test_bytesFree (by decide) (by decide)⟩, by decide, by decide, by decide,
    by decide, by decide, ?_, fun op h => (by cases h), by decide, by decide⟩
  intro r hr
  simp only [List.mem_cons, List.mem_nil_iff, or_false] at hr
  rcases hr with rfl | rfl
  · exact ⟨by decide, .inl ⟨_, _, _, rfl, by decide⟩⟩
  · exact ⟨by decide, .inr ⟨_, _, _, _, rfl, by decide⟩⟩

/-- The machine with the hosts' part changed. -/
def Sys2Proof.testHost (f : HostPorts → HostPorts) : State := { testBase with host := f testBase.host }

theorem test_host_record_ok : (match testRecord.readRecord none 0 0x2000 with
    | .done (s0, r) => (match s0.readSucc none 0 r.head with
      | .done (s1, _) => (s1.noticeWaits (0#2 ++ 0#4)).isNone
      | _ => false)
    | _ => false) = true := by decide +kernel

theorem test_host_record : ∃ s0 b s1 sc, testRecord.readRecord none 0 0x2000 = .done (s0, b) ∧ s0.readSucc none 0 b.head = .done (s1, sc) ∧
    s1.noticeWaits (0#2 ++ 0#4) = none := by
  have h := test_host_record_ok
  cases hm : testRecord.readRecord none 0 0x2000 with
  | done a =>
    rw [hm] at h
    cases hs : a.1.readSucc none 0 a.2.head with
    | done b => simp only [hs] at h; exact ⟨a.1, a.2, b.1, b.2, rfl, hs, Option.isNone_iff_eq_none.1 h⟩
    | wait s => simp only [hs] at h; cases h
    | fault c a => simp only [hs] at h; cases h
  | wait s => rw [hm] at h; cases h
  | fault c a => rw [hm] at h; cases h

/-- A launch whose port holds a write of host port 0 back. -/
def Sys2Proof.testHeldWrite : State := testWork (testLaunch .running { testQueue with heldStores := [(0, 0, .port 0)] } testQueue) none false

theorem test_full_free : testFull.holdsStore (.port 0) = false := by
  unfold State.holdsStore testFull
  rw [List.any_eq_false]
  intro p hp
  obtain ⟨n, _, rfl⟩ := List.mem_map.1 hp
  simp only [testLaunch]
  decide

/-- Lines that lie in device memory. -/
theorem test_near {ls : List Nat} (h : ls.all (fun l => !foreign (l * 128)) = true) : ∀ l ∈ ls, foreign (l * 128) = false :=
  fun l hl => by have := List.all_eq_true.1 h l hl; simpa using this

theorem witness_HostSteps :
    (testHeldWrite.holdsStore (.port 0) = true ∧ testBase.holdsStore (.port 0) = false ∧ testFull.holdsStore (.port 0) = false) ∧
    (testBase.reaches 0 1 = true ∧ testBase.holdsStore (.port 1) = false ∧ testBase.host.semOwn = 0 ∧ (5#64).toNat % 4 = 1 ∧ (4#64).toNat % 4 = 0) ∧
    (let s := testHost (fun h => { h with semOwn := 2 })
     s.host.semOwn = (1#1 : BitVec 1).zeroExtend 2 + 1 ∧ s.host.semOwn ≠ (0#1 : BitVec 1).zeroExtend 2 + 1 ∧ s.reaches 0 0 = true ∧
      populated ((0x1003#64).toNat / 2 ^ 12 * 2 ^ 12) = true ∧ s.host.semOwn ≠ 0) ∧
    ((16#5).toNat < 17 ∧ (16#5 : BitVec 5) ≠ 0) ∧
    (let s := testHost (fun h => { h with semOwn := 1, down := 1, modified := [0x100000000000 / 128] })
     s.reaches 0 0 = true ∧ s.host.semOwn = (0#1 : BitVec 1).zeroExtend 2 + 1 ∧ behind (.host 0) (0x100000000000 / 128) = true ∧
      0x100000000000 / 128 ∈ s.host.modified ∧ s.host.down.getLsbD (0#1 : BitVec 1).toNat = true) ∧
    (let s := testHost (fun h => { h with lres := [(0, List.replicate 16 5)] })
     s.reaches 0 0 = true ∧ 16 ≤ (Tbl.getD s.host.lres ((0#5).toNat * 8 + (0#1).toNat * 4 + (0#2).toNat) []).length) ∧
    (testFull.reaches 0 0 = true ∧ (Tbl.getD testFull.host.lres 0 []).length < 16) ∧
    (testBase.freeLaunchSlot = some 0 ∧ Tbl.getD testBase.host.lres 0 [] = [] ∧ (0x2000#64).toNat % 128 = 0 ∧
      (∃ s0 b s1 sc, testRecord.readRecord none 0 0x2000 = .done (s0, b) ∧ s0.readSucc none 0 b.head = .done (s1, sc) ∧
        s1.noticeWaits (0#2 ++ 0#4) = none)) ∧
    ((∃ f a, testBase.readRecord none 0 0x40000000 = .fault f a) ∧
      testBase.unreadLaunch 0x40000000 0 2 = .done (Launch.bare 0x40000000 0 2 testBase.accepts) ∧
      (Launch.bare 0x40000000 0 2 testBase.accepts).die = 2 ∧ testBase.noticeWaits (2#2 ++ 0#4) = none ∧ (0x2001#64).toNat % 128 ≠ 0 ∧
      testBase.launchAt 1 = none) ∧
    (let s := testHost (fun h => { h with lres := [(0, [5])] })
     Tbl.getD s.host.lres ((0#5).toNat * 8 + (0#1).toNat * 4 + (0#2).toNat) [] = 5 :: []) ∧
    (let s := testWork (testLaunch .running testQueue testQueue) none false
     let l := testLaunch .running testQueue testQueue
     s.reaches 0 0 = true ∧ s.holdsStore (.port 0) = false ∧ s.launchAt ((0x7F0#26).toNat / 0x10000) = some l ∧ l.tenant = 0 ∧ l.state.isFinal = false ∧
      l.queue ((0x7F0#26).toNat / 0x800 % 32) = some testQueue ∧ (0x7F0#26).toNat % 0x800 = 0x7F0 ∧
      (leBytes 8 1).length = 8 ∧ leNat (leBytes 8 1) = 1 ∧ (0xFE0#26).toNat % 0x800 % 16 = 0 ∧ (0xFE0#26).toNat % 0x800 + 16 ≤ 0x7F0 ∧
      l.queue ((0xFE0#26).toNat / 0x800 % 32) = some testQueue ∧ (leBytes 16 1).length = 16) ∧
    (testBase.plat.admits = true ∧ testBase.host.down.getLsbD 1 = false ∧ testBase.host.peerDown.getLsbD 3 = false ∧ deviceBytes testAddr.toNat 8 = true ∧
      BytesFree testBase testAddr.toNat 8 ∧ Memory.wf memDefault testBase.mem = true) ∧
    (let s := testHost (fun h => { h with bias := [(testAddr.toNat / 4096, 1)] })
     s.host.down.getLsbD 0 = false ∧ s.plat.admits = true ∧ populated testAddr.toNat = true ∧ s.flipping (testAddr.toNat / 4096) = false ∧
      (s.biasOf (testAddr.toNat / 4096)).getLsbD 0 = true ∧ Tbl.find s.host.lines (testAddr.toNat / 128) = none ∧
      s.owningLine (testAddr.toNat / 128) = false ∧ s.host.snoops.contains (testAddr.toNat / 128) = false ∧
      s.rivals none (testAddr.toNat / 128) true = []) ∧
    (let s := testHost (fun h => { h with
       bias := [(testAddr.toNat / 4096, 1)], lines := [(testAddr.toNat / 128, ⟨1, true, false, false⟩)] })
     Tbl.find s.host.lines (testAddr.toNat / 128) = some ⟨1, true, false, false⟩ ∧ (1#1 : BitVec 1) ≠ 0) ∧
    (∀ o, let s := testHost (fun h => { h with
       lines := [(testAddr.toNat / 128, ⟨0, o, false, false⟩)], snoops := [testAddr.toNat / 128] })
     Tbl.find s.host.lines (testAddr.toNat / 128) = some ⟨0, o, false, false⟩ ∧ s.host.snoops.contains (testAddr.toNat / 128) = true ∧
      s.flipping (testAddr.toNat / 128 / 32) = false) ∧
    (let s := testHost (fun h => { h with flips := [⟨testAddr.toNat / 4096, true, false, false, true⟩] })
     s.flipOf (BitVec.ofNat 40 (testAddr.toNat / 4096)).toNat = some ⟨testAddr.toNat / 4096, true, false, false, true⟩ ∧ s.owning = [] ∧
      s.dir = [] ∧ s.txs = [] ∧ LineFree s ((s.host.biasBase.toNat + (BitVec.ofNat 40 (testAddr.toNat / 4096)).toNat / 4) / 128)) ∧
    (let s := testHost (fun h => { h with flips := [⟨testAddr.toNat / 4096, false, false, false, true⟩] })
     s.flipOf (BitVec.ofNat 40 (testAddr.toNat / 4096)).toNat = some ⟨testAddr.toNat / 4096, false, false, false, true⟩ ∧ s.owning = [] ∧ s.txs = [] ∧
      LineFree s ((s.host.biasBase.toNat + (BitVec.ofNat 40 (testAddr.toNat / 4096)).toNat / 4) / 128) ∧
      s.host.lines = [] ∧ s.host.bias.Pairwise (fun p q => p.1 < q.1)) ∧
    (let s := testHost (fun h => { h with modified := [0x100000000000 / 128], orphanBase := 0x10000, orphanCap := 1 })
     s.host.modified.filter (behind (.host 0)) = [0x100000000000 / 128] ∧ s.num s.host.orphanBase.toNat 8 < s.host.orphanCap ∧
      s.txs = [] ∧ ∀ m ∈ linesOf 0x10000 256 ++ linesOf (0x10000 + 0x100 + 256 * 0) 256, LineFree s m ∧ foreign (m * 128) = false) ∧
    testBase.host.modified.filter (behind (.host 0)) = [] := by
  refine ⟨⟨by decide, by decide, test_full_free⟩, by decide, by decide, by decide, by decide, by decide, by decide, ⟨by decide, by decide, by decide, test_host_record⟩,
    ⟨test_fault (by decide +kernel), by rfl, by decide, by decide, by decide, by decide⟩, by decide, by decide,
    ⟨by decide, by decide, by decide, by decide, test_bytesFree (by decide) (by decide), by decide⟩, by decide, by decide,
    by decide, ⟨by decide, by decide, by decide, by decide, test_lineFree (by decide)⟩,
    ⟨by decide, by decide, by decide, test_lineFree (by decide), by decide, by decide⟩,
    ⟨by decide, by decide, by decide, fun m h => ⟨test_linesFree (by decide) m h, test_near (by decide) m h⟩⟩, by decide⟩

theorem test_full_slots : testFull.freeLaunchSlot = none := by
  unfold State.freeLaunchSlot
  rw [List.find?_eq_none]
  intro n hn
  have h := test_full n (List.mem_range.1 hn)
  simp only [Bool.not_eq_true]
  cases hl : (testFull.slot n).launch with
  | none => exact absurd hl h
  | some l => rfl

theorem witness_PlatformSteps :
    (let s := testHost (fun h => { h with semOwn := 1 })
     s.reaches 0 0 = true ∧ s.posts 0 0 = true ∧ s.host.semOwn = (0#1 : BitVec 1).zeroExtend 2 + 1 ∧ s.plat.opened ≠ some true ∧ s.plat.qbusy = false) ∧
    (testBase.posts 0 0 = true ∧ testBase.host.semOwn ≠ (0#1 : BitVec 1).zeroExtend 2 + 1 ∧ testHeldWrite.posts 0 0 = false ∧
      testHeldWrite.plat.admits = true ∧ State.reset.plat.admits = false) ∧
    (let s : State := { testHost (fun h => { h with semOwn := 1 }) with plat := { testBase.plat with opened := some false, qbusy := true } }
     s.posts 0 0 = true ∧ s.host.semOwn = (0#1 : BitVec 1).zeroExtend 2 + 1 ∧ s.plat.opened = some ((0#1 : BitVec 1) == 1) ∧
      s.plat.qbusy = true) ∧
    (let s : State := { testBase with plat := { testBase.plat with stuck := true, opened := some true, qbusy := true } }
     s.plat.stuck = true ∧ s.plat.opened = some ((1#1 : BitVec 1) == 1) ∧ s.plat.qbusy = true) ∧
    (800 ≤ (800#64).toNat ∧ (2800#64).toNat ≤ 2800 ∧ (0x200#16 : BitVec 16) ≠ 0x218 ∧ (114#8).toNat < 115 ∧ 105 ≤ (105#8).toNat ∧
      115 ≤ (115#8).toNat) ∧
    ((799#64).toNat < 800 ∧ 2800 < (2801#64).toNat) ∧
    (let s := State.reset
     1 ≤ (16#5).toNat ∧ (16#5).toNat ≤ 16 ∧ s.slots = [] ∧ s.owning = [] ∧ Tbl.find s.plat.flr 16 = none ∧
      ∀ u : Tid, ((s.ctx u).tenant = 16 → (s.ctx u).run = .free) ∧ (s.ctx u).parked = [] ∧
        ∀ n : Fin 16, ((s.ctx u).groups[n]).tenant = 16 → ((s.ctx u).groups[n]).isOpen = false) ∧
    (let s : State := { State.reset with plat := { State.reset.plat with flr := [(1, 0)] }, clock := 100000 }
     Tbl.find s.plat.flr (1#5).toNat = some 0 ∧ 0 + 100000 ≤ s.clock.toNat ∧ s.slots = [] ∧ s.owning = [] ∧
      s.plat.flr.Pairwise (fun p q => p.1 < q.1) ∧ ∀ u : Tid, ((s.ctx u).tenant = 1 → (s.ctx u).run = .free) ∧ (s.ctx u).parked = [] ∧
        ∀ n : Fin 16, ((s.ctx u).groups[n]).tenant = 1 → ((s.ctx u).groups[n]).isOpen = false) := by
  refine ⟨by decide, by decide, by decide, by decide, by decide, by decide, ⟨by decide, by decide, by decide, by decide, by decide, ?_⟩,
    by decide, by decide, by decide, by decide, by decide, ?_⟩
  · rintro ⟨c, x⟩
    cases x <;> revert c <;> decide +kernel
  · rintro ⟨c, x⟩
    cases x <;> revert c <;> decide +kernel

theorem witness_EveryStepKeepsSafe : Memory.wf memDefault State.reset.mem = true ∧ DirSorted State.reset ∧
    step State.reset = .next State.reset.tick := by
  refine ⟨by decide, by unfold DirSorted; decide, rfl⟩


/-! ### More of what the statements assume -/

/-- An instruction of a major that no transaction admits. -/
theorem test_not_admitted {i : Instr} (h : ((encode i).map (fun w => let m := w.first.toNat / 2 ^ 26
    decide (m ∈ [0x30, 0x31, 0x32, 0x33, 0x34, 0x35, 0x37]) || decide (m = 0x3E ∧ w.first.toNat / 2 ^ 20 % 2 ^ 6 ≠ 3))) = some true) :
    NotAdmitted i := by
  cases he : encode i with
  | none => rw [he] at h; cases h
  | some w => rw [he] at h; exact .inl ⟨w, he, by simpa only [Option.map_some, Option.some.injEq, Bool.or_eq_true, decide_eq_true_eq] using h⟩

theorem witness_TransactionResults_aborts :
    (let s := testInTx
     s.me.txa = true ∧ s.me.tstat = 0 ∧ s.txOf s.cur = some testTx ∧ s.me.run = .running ∧ s.me.pendTrap = none ∧
      s.me.resumed = none ∧ NotAdmitted (.wfi 0) ∧ NotAdmitted (.copy 1 2 3 4)) ∧
    (testInTx.onMe (fun c => { c with fabStop := some FabStop.none })).me.fabStop = some FabStop.none ∧
    (let d : Declined := ⟨Xfer.blank .copyl 0, 3, 0x100⟩
     let s := testInTx.onMe (fun c => { c with declined := [d] })
     s.me.fabStop = none ∧ s.me.declined = d :: []) ∧
    (let s := testInTx.onMe (fun c => { c with preempt := some 3 })
     s.me.fabStop = none ∧ s.me.declined = [] ∧ s.me.preempt = some 3) ∧
    (let s := testInTx
     let va : Word := s.G 0 + (0x101#13).signExtend 64
     va.toNat % widthBytes 6 ≠ 0) ∧
    (let s := testInTx.onMe (fun c => c.setG 1 tileVa)
     let va : Word := s.G 1 + (0#13).signExtend 64
     va.toNat % widthBytes 6 = 0 ∧ (regionOf va).isSome = true) ∧
    (let s := testInTx.onMe (fun c => c.setG 1 0x40000000)
     let va : Word := s.G 1 + (0#13).signExtend 64
     va.toNat % widthBytes 6 = 0 ∧ regionOf va = none ∧ (∀ m ∈ s.walkLines s.me.tenant va, LineFree s m ∧ ∀ p ∈ s.txs, p.2.wset.contains m = false) ∧
      s.translate s.me.tenant va .read = .error .page ∧ s.translate s.me.tenant va .write = .error .page) ∧
    (let s := (testInTx.put 0x2008 (leBytes 8 0x10000000000F)).onMe (fun c => c.setG 1 0x40000000)
     let va : Word := s.G 1 + (0#13).signExtend 64
     regionOf va = none ∧ (∀ m ∈ s.walkLines s.me.tenant va, LineFree s m ∧ ∀ p ∈ s.txs, p.2.wset.contains m = false) ∧
      s.translate s.me.tenant va .read = .ok ⟨0x100000000000, false, true, true, true, 0, 2⟩ ∧ foreign 0x100000000000 = true) ∧
    (let s : State := { testInTx with host := { testInTx.host with bias := [(0x800002 / 32, 1)] } }
     s.hostBias (loadBase + 0x100) = true ∧ s.translate s.me.tenant 0x100 .read = .ok (testLeaf 0x100)) ∧
    (let s := testInTx.setDir 0x800002 { DirEntry.none with st := .pipped, pips := 1 }
     s.pipped ((testLeaf 0x100).pa / 128) = true ∧ s.txOf s.cur = some testTx) ∧
    (let s := { testInTx with poison := [(loadBase + 0x100) / 32] }
     s.poisonedFor s.cur (loadBase + 0x100) 8 = true ∧ testInTx.poisonedFor testInTx.cur (loadBase + 0x100) 8 = false ∧
      foreign (testLeaf 0x100).pa = false ∧ s.hostBias (testLeaf 0x100).pa = false ∧ s.pipped ((testLeaf 0x100).pa / 128) = false) ∧
    (let x : Tx := { testTx with wset := List.range 32, rset := List.range' 100 64 }
     let s : State := { testInTx with txs := [(⟨0, .n⟩, x)] }
     s.txOf s.cur = some x ∧ 32 < (NatSet.add x.wset 0x800002).length ∧ 64 < (NatSet.add x.rset 0x800002).length ∧
      x.wset.contains 0x800002 = false ∧ (∀ p ∈ s.txs, p.1 = s.cur) ∧ LineFree s 0x800002) := by
  have walk : ∀ s : State, s.txs = [(⟨0, .n⟩, testTx)] → ∀ ls : List Nat, ls.all (fun l => !lineHeld s l) = true →
      ∀ m ∈ ls, LineFree s m ∧ ∀ p ∈ s.txs, p.2.wset.contains m = false := by
    intro s hs ls hl m hm
    refine ⟨test_linesFree hl m hm, fun p hp => ?_⟩
    rw [hs, List.mem_singleton] at hp
    rw [hp]
    rfl
  refine ⟨⟨by decide, by decide, by decide, by decide, by decide, by decide, .inr trivial, test_not_admitted (by decide)⟩,
    by decide, by decide, by decide, by decide, by decide, ⟨by decide, by decide, walk _ rfl _ (by decide), by decide, by decide⟩,
    ⟨by decide, walk _ rfl _ (by decide), by decide, by decide⟩, by decide, by decide, by decide,
    ⟨by decide, by decide, by decide, by decide, by decide, test_lineFree (by decide)⟩⟩

theorem witness_TrapReturn_left :
    (let v := testInv (fun v => { v with held := true })
     let s := (testFrame 0x10214 1 0).onMe (fun c => { c with
       board := some testPos, inv := some v, leftRows := [(0x1000, (0, 8, 7, true))] })
     let pa := loadBase + 0x1000
     s.num pa 8 / 2 ^ 8 % 16 = 2 ∧ s.me.inv = some v ∧ v.held = true ∧ BitVec.ofNat 64 (s.num (pa + 0x18) 8) &&& ~~~(3#64) = 0 ∧
      Tbl.find s.me.leftRows s.me.tframe.toNat = some (0, 8, 7, true) ∧ frameFree s pa) ∧
    Tbl.find (testFrame 0x10214 1 0).me.leftRows (testFrame 0x10214 1 0).me.tframe.toNat = none := by
  refine ⟨⟨by decide, rfl, rfl, by decide, by decide, ?_⟩, by decide⟩
  exact ⟨by decide, test_linesFree (by decide), ⟨testLeaf 0x1000, by decide, rfl⟩, test_bytesFree (by decide) (by decide), by decide⟩

theorem witness_WorkQueueInstructions_effects :
    (let e : BitVec 128 := 5
     let x := { testQueue with chip := List.replicate 16 e, spilled := 7, hwm := 24 }
     let l := testLaunch .running testQueue x
     let s := (testWork l none false).onCore 0 (fun k => { k with notices := [[]] })
     s.me.inst = some ⟨0, 0, 0, none, false, none⟩ ∧ s.launchAt 0 = some l ∧ l.stages[0]? = some testStage ∧
      testStage.outmask.getLsbD 1 = true ∧ l.queue 1 = some x ∧ s.me.pushWait = false ∧ l.cancelling = false ∧ x.closed = false ∧
      x.blocked = false ∧ ∃ s1, s.qfullWaits 0 1 = some s1) ∧
    (let e : BitVec 128 := 5
     let x := { testQueue with chip := List.replicate 16 e, waiting := List.replicate 8 e }
     let l := testLaunch .running testQueue x
     let s := testWork l none true
     s.launchAt 0 = some l ∧ l.queue 1 = some x ∧ s.me.pushWait = false ∧ x.blocked = true ∧ x.closed = false ∧ s.me.cancel = true) ∧
    (let l := { testLaunch .running { testQueue with reserved := 1 } testQueue with stages := [{ testStage with running := 2 }] }
     let s := testWork l (some 5) false
     s.me.inst = some ⟨0, 0, 0, some 5, false, none⟩ ∧ (0 : BitVec 22) = (s.slot 0).gen ∧ s.launchAt 0 = some l ∧
      l.stages[0]? = some { testStage with running := 2 } ∧ l.state = .running ∧ l.cancelling = false ∧
      l.queue testStage.inq = some { testQueue with reserved := 1 } ∧ (s.closeQueue 0 1).launchAt 0 ≠ none ∧
      ((s.closeQueue 0 1).launchAt 0).map (fun m => m.state.isFinal) = some false) ∧
    (let s := testWork (testLaunch .held testQueue testQueue) none false
     s.launchAt 0 = some (testLaunch .held testQueue testQueue) ∧ (testLaunch .held testQueue testQueue).flags.getLsbD 0 = false ∧
      s.launchAt 1 = none) ∧
    (let l : Launch := { testLaunch .running testQueue testQueue with flags := 1, succ := [1] }
     let s : State := { testWork l none false with slots := [(0, ⟨0, some l⟩), (1, ⟨0, some (testLaunch .held testQueue testQueue)⟩)] }
     s.launchAt 0 = some l ∧ l.flags.getLsbD 0 = true ∧ s.launchAt 1 = some (testLaunch .held testQueue testQueue)) ∧
    (let s := testWork (testLaunch .complete testQueue testQueue) none false
     s.launchAt 0 = some (testLaunch .complete testQueue testQueue) ∧ (testLaunch .complete testQueue testQueue).state.isFinal = true) ∧
    (let l := { testLaunch .running testQueue testQueue with stages := [{ testStage with running := 1 }] }
     let s := testWork l (some 5) false
     s.launchAt 0 = some l ∧ l.state = .running ∧ (∃ st ∈ l.stages, st.running ≠ 0) ∧ ⟨0, .n⟩ ∈ s.instances 0) ∧
    (let l := testLaunch .running testQueue testQueue
     (testWork l none false).launchAt 0 = some l ∧ (∀ st ∈ l.stages, st.running = 0) ∧ l.flags.getLsbD 0 = false) ∧
    (let s := testWork (testLaunch .running testQueue testQueue) none false
     (0, ⟨0, some (testLaunch .running testQueue testQueue)⟩) ∈ s.slots ∧ (s.named 0).isSome = true) ∧
    (let s := (testPipped 1 false false).onMe (fun c => { c with groups := c.groups.set 0 { c.groups[0] with isOpen := true } })
     DirSorted s ∧ (s.me.groups[0]).isOpen = true) := by
  refine ⟨⟨by decide, by decide, by decide, by decide, by decide, by decide, by decide, by decide, by decide, test_some (by decide)⟩,
    by decide, by decide, by decide, by decide, by decide, by decide, by decide, by decide, ⟨by unfold DirSorted; decide, by decide⟩⟩

/-- A running launch whose first entry is in its spill area, with a placement map. -/
def Sys2Proof.testAway : Launch :=
  { testLaunch .running { testQueue with spill := 0x1000, spilled := 1 } testQueue with pmap := [⟨0, 1, 0⟩] }

theorem witness_SchedulerSteps_looks :
    (∀ p ∈ (testSched testReady).slots, ∀ l, p.2.launch = some l → ∀ st ∈ l.stages, l.pmap = [] ∨ st.offered = true ∨
      (∀ x, l.queue st.inq = some x → x.head ≠ none)) ∧
    (let s := (testSched testReady).lookAll 0
     let k : Candidate := ⟨0, 0, 0, testReady, testStage⟩
     leastRank s 0 (s.candidates 0) = some k ∧ s.freeCtx 0 k.stage.cx = some ⟨0, .n⟩ ∧
      ((∃ s2, s.vacate ⟨0, .n⟩ k.launch.tenant = some s2) ∧ s.launchAt 0 = some k.launch)) ∧
    (let l := testAway
     let s0 : State := { testBase.onMe (fun _ => Ctx.reset) with slots := [(0, ⟨0, some l⟩)] }
     let s := s0.lookAll 0
     let k : Candidate := ⟨0, 0, 0, l, testStage⟩
     let x : Queue := { testQueue with spill := 0x1000, spilled := 1 }
     s.candidates 0 = [k] ∧ leastRank s 0 (s.candidates 0) = some k ∧ s.freeCtx 0 k.stage.cx = some ⟨0, .n⟩ ∧ k.launch.queue k.stage.inq = some x ∧ x.head = none ∧
      (∃ a, s.unitReads l.tenant (x.spill + BitVec.ofNat 64 (16 * (x.spillPos % x.spillcap))) 16 true = .done a)) ∧
    (∀ a ∈ [Standing.waits, .inside],
      let c := (testCtx (fun c => { c with fabStop := some FabStop.none, resumed := some (.vector a 3 (8192 :: List.replicate 7 9)) })).ctx ⟨0, .n⟩
      c.run = .running ∧ c.pendTrap = none ∧ c.resumed = some (.vector a 3 (8192 :: List.replicate 7 9)) ∧ (a = .waits ∨ a = .inside) ∧
        c.fabStop = some FabStop.none) ∧
    (let s := testCtx (fun c => { c with fabStop := some FabStop.none, resumed := some (.matrix .given 8 7 true) })
     let c := s.ctx ⟨0, .n⟩
     c.run = .running ∧ c.pendTrap = none ∧ c.resumed = some (.matrix .given 8 7 true) ∧ c.fabStop = some FabStop.none ∧
      (s.txOf ⟨0, .n⟩).isSome = false) := by
  refine ⟨?_, ⟨by decide +kernel, by decide +kernel, test_some (by decide +kernel), by decide +kernel⟩,
    ⟨by decide +kernel, by decide +kernel, by decide +kernel, by decide, by decide, test_done (by decide +kernel)⟩, by decide, by decide⟩
  intro p hp l hl st hs
  simp only [testSched, List.mem_singleton] at hp
  subst hp
  cases hl
  exact .inl rfl

/-- A latch of the other context that came to wait before the swap, and one that came after it. -/
theorem witness_PlaneLatchAndSwap_turns :
    (let s := testWaiter (testRegion .w 2 1) true
     s.otherCtx.planesWait = some ⟨0, true, some 5, 0⟩ ∧ (0 : Nat) < turnOf s) ∧
    (let s := ((testWaiter (testRegion .w 2 1) true).onCtx ⟨0, .u⟩ (fun c => { c with mxWait := some ⟨c.pc, true, none, 1⟩ })).onMe (fun c =>
       { c with waiting := true, mxWait := some ⟨c.pc, false, none, 0⟩ })
     s.otherCtx.planesWait = some ⟨0, true, none, 1⟩ ∧ ¬ 1 < turnOf s) := by decide

/-- A position of an image without pieces, tiles or entries. -/
def Sys2Proof.testPlain : Position :=
  { Position.ofImage ⟨0, 1024, 0x262C17C9, 0xFFFF, [], List.replicate 6 ⟨0xFFFF, []⟩, [], []⟩ 0x2000 [] with arrived := 8 }

theorem test_mapped_ctx {s : State} (h : testMapped s) (t : Tid) (f : Ctx → Ctx) : testMapped (s.onCtx t f) := h

theorem test_mapped_ways {s : State} (h : testMapped s) (t : Tid) : ∃ s2, s.emptyWays t = some s2 ∧ OnlyCaches s s2 := by
  unfold State.emptyWays
  have hn : (s.lentLines t).any s.owningLine = false := by
    rw [List.any_eq_false]
    intro l _
    unfold State.owningLine
    rw [h.2.2.1]
    simp
  dsimp only
  rw [hn]
  refine ⟨_, rfl, ?_⟩
  generalize s.lentLines t = ls
  clear hn h
  induction ls generalizing s with
  | nil => exact onlyCaches_refl s
  | cons l ls ih => exact onlyCaches_trans (onlyCaches_giveUp s l) ih

/-- The stopped thread with that position, and an area at 0x10000 in G(1). -/
def Sys2Proof.testHolder : State := testStopped (fun c => { c.setG 1 0x10000 with board := some testPlain })

/-- The same as a SAVE of it has been taken. -/
def Sys2Proof.testBoarded : State := taken testHolder 0 .n [(0, 0x8000), (1, 0x10000)]

theorem test_holder_length : testHolder.me.saveImage.length = 45184 := by decide +kernel

theorem test_boarded : testMapped (testBoarded.disownTiles ⟨0, .n⟩) :=
  ⟨by decide, by decide, by decide, by decide, by decide, by decide, by decide +kernel, by decide +kernel⟩

theorem test_saved_board : ∃ s1 s2, (testBoarded.disownTiles ⟨0, .n⟩).saveBoard ⟨0, .n⟩ 0x10000#64 = .done s1 ∧
    s1.frameReadWaits ⟨0, .n⟩ = none ∧
    (let bs := contextImage s1 ⟨0, .n⟩ (testBoarded.frameRpc ⟨0, .n⟩) 0x10000
     s1.imageWrite 0 (bs.length / 128 + 2) 0x8000#64 bs = .done s2) := by
  have hm : (testBoarded.disownTiles ⟨0, .n⟩).ctx ⟨0, .n⟩ = testHolder.me := by rfl
  have hs : (((testBoarded.disownTiles ⟨0, .n⟩).ctx ⟨0, .n⟩).saveImage).length = 45184 := by rw [hm]; exact test_holder_length
  obtain ⟨a, e1, h1⟩ := test_imageWrite (45184 / 128 + 2) (n := 0x10000) (((testBoarded.disownTiles ⟨0, .n⟩).ctx ⟨0, .n⟩).saveImage)
    test_boarded (by rw [hs]; decide)
  obtain ⟨b, e2, h2⟩ := test_mapped_ways h1 ⟨0, .n⟩
  have h3 : testMapped (b.onCtx ⟨0, .n⟩ (fun c => { c with board := none, inv := none })) :=
    test_mapped_ctx (test_mapped_caches h1 h2) _ _
  refine ⟨b.onCtx ⟨0, .n⟩ (fun c => { c with board := none, inv := none }), ?_⟩
  obtain ⟨w, e4, _⟩ := test_imageWrite (22016 / 128 + 2) (n := 0x8000) (contextImage (b.onCtx ⟨0, .n⟩ (fun c => { c with board := none, inv := none }))
    ⟨0, .n⟩ (testBoarded.frameRpc ⟨0, .n⟩) 0x10000) h3 (by rw [test_image_length]; decide)
  refine ⟨w, ?_, ?_, ?_⟩
  · unfold State.saveBoard
    have hc : (((testBoarded.disownTiles ⟨0, .n⟩).ctx ⟨0, .n⟩).board.map Position.comingIn).getD false = false := by decide
    have ht : ((testBoarded.disownTiles ⟨0, .n⟩).ctx ⟨0, .n⟩).tenant = 0 := by decide
    dsimp only
    rw [if_neg (by rw [hc]; decide), hs, ht, e1]
    dsimp only
    unfold State.setBoard
    rw [e2]
  · unfold State.frameReadWaits
    simp only [test_walk h3]
    split
    · rfl
    · cases (b.onCtx ⟨0, .n⟩ (fun c => { c with board := none, inv := none })).framePlace ⟨0, .n⟩ with
      | none => rfl
      | some pa => exact heldUp_free h3.2.1 (fun l _ => test_line h3 l)
  · dsimp only
    rw [test_image_length]
    exact e4

/-- The image that the bytes of `testImageBytes` describe. -/
def Sys2Proof.testParsed : Image :=
  ⟨0, 1024, 0x262C17C9, 0xFFFF, List.replicate 16 0, List.replicate 6 ⟨0xFFFF, []⟩, List.replicate 8 ⟨0, false, 0xFFFF, 0, 0, 0⟩, []⟩

/-- The header of a save image of its position, without an invocation; the rest of that image is zeros. -/
def Sys2Proof.testSaveHead : List Byte :=
  leBytes 4 0x53564C4D ++ [1, 0, 0, 1] ++ leBytes 8 0x2000 ++ leBytes 4 0x262C17C9 ++ leBytes 4 0xB080 ++ List.replicate 104 0

theorem test_read_save {p : Position} {bs : List Byte} (h : p.image.savedTiles = []) (h6 : numAt bs 6 1 = 0) :
    readSave p bs = (p.arriveAll, none) := by
  unfold readSave restoreTiles
  rw [if_pos h6, h]
  rfl

theorem test_save_body : saveBodyOk (Position.ofImage testParsed 0x2000#64 testImageBytes) (testSaveHead ++ List.replicate 45056 0) = true := by
  have hp : readSave (Position.ofImage testParsed 0x2000#64 testImageBytes) (testSaveHead ++ List.replicate 45056 0) =
      ((Position.ofImage testParsed 0x2000#64 testImageBytes).arriveAll, none) := by
    have h6 : numAt (testSaveHead ++ List.replicate 45056 0) 6 1 = 0 := by decide +kernel
    exact test_read_save (by decide +kernel) h6
  have hr : ∀ n < 44, recordBytes (Position.ofImage testParsed 0x2000#64 testImageBytes).arriveAll [] [] n = List.replicate 0x400 0 := by
    decide +kernel
  have hb : ∀ n < 44, ((testSaveHead ++ List.replicate 45056 0).drop (0x80 + 0x400 * n)).take 0x400 = List.replicate 0x400 (0 : Byte) := by
    intro n hn
    rw [List.drop_append, show testSaveHead.length = 128 by decide, List.drop_eq_nil_of_le (by rw [show testSaveHead.length = 128 by decide]; omega),
      List.nil_append, List.drop_replicate, List.take_replicate]
    congr 1
    omega
  unfold saveBodyOk recordsKept
  rw [hp]
  simp only [Bool.and_eq_true]
  refine ⟨⟨by decide +kernel, by decide +kernel⟩, ?_⟩
  rw [List.all_eq_true]
  intro n hn
  rw [hr n (List.mem_range.1 hn), hb n (List.mem_range.1 hn)]
  exact beq_self_eq_true _

theorem test_restores {s : State} (h : testMapped s) (t : Tid) (ht : (s.ctx t).tenant = 0) (table : Bool)
    (hh : s.bytes (loadBase + 0x10000) 128 = testSaveHead) (hi : s.bytes (loadBase + 0x2000) 1024 = testImageBytes)
    (hz : ∀ j < 45056, s.byte (loadBase + 0x10080 + j) = 0) (ho : (s.ctx ⟨t.core, Cx.other t.cx⟩).board = none) :
    ∃ s1, s.restoreBoard t 0x10000#64 table = .done (s1, 0) ∧ testMapped s1 := by
  have hl : s.loadImage t 0x2000#64 = .done (s, 0, some (Position.ofImage testParsed 0x2000#64 testImageBytes)) := by
    unfold State.loadImage
    have a := test_bytes_append s (loadBase + 0x2000) 64 960
    rw [hi] at a
    have b : s.bytes (loadBase + 0x2000) 64 = testImageBytes.take 64 := by
      rw [a, List.take_append_of_le_length (by unfold State.bytes; rw [readBytes_length]), List.take_of_length_le (by unfold State.bytes; rw [readBytes_length])]
    dsimp only
    rw [ht, test_imageBytes (n := 0x2000) 64 h (by decide), b]
    dsimp only
    rw [if_neg (by decide +kernel), show numAt (testImageBytes.take 64) 8 4 - 64 = 960 by decide +kernel,
      show (0x2000#64 + 64 : Word) = 0x2040#64 by decide, test_imageBytes (n := 0x2040) 960 h (by decide), ← b, show loadBase + 0x2040 = loadBase + 0x2000 + 64 by rfl]
    dsimp only
    rw [← a]
    rw [show parseImage testImageBytes = .ok testParsed by decide +kernel, ho]
    rfl
  have hs : s.bytes (loadBase + 0x10000) 45184 = testSaveHead ++ List.replicate 45056 0 := by
    rw [show 45184 = 128 + 45056 by rfl, test_bytes_append, hh, test_zeros 45056 _ hz]
  obtain ⟨b, e2, h2⟩ := test_mapped_ways h t
  refine ⟨b.onCtx t (fun c => c.restoreImage (Position.ofImage testParsed 0x2000#64 testImageBytes) (testSaveHead ++ List.replicate 45056 0) table),
    ?_, test_mapped_ctx (test_mapped_caches h h2) _ _⟩
  unfold State.restoreBoard
  dsimp only
  rw [ht, test_imageBytes (n := 0x10000) 128 h (by decide), hh]
  dsimp only
  rw [if_neg (by decide), show BitVec.ofNat 64 (numAt testSaveHead 8 8) = 0x2000#64 by decide, hl]
  dsimp only
  rw [if_neg (by decide +kernel), show (Position.ofImage testParsed 0x2000#64 testImageBytes).image.saveSize = 45184 by rfl,
    test_imageBytes (n := 0x10000) 45184 h (by decide), hs]
  dsimp only
  rw [test_save_body, if_neg (by decide), if_neg ?_]
  · unfold State.setBoard
    rw [e2]
  · unfold Ctx.crowded
    rw [show numAt (testSaveHead ++ List.replicate 45056 0) 6 1 = 0 by decide +kernel]
    generalize numAt (readSpare (testSaveHead ++ List.replicate 45056 0)) 16384 1 = z
    cases table <;> simp

theorem test_frame_waits {s : State} (h : testMapped s) (t : Tid) : s.frameReadWaits t = none := by
  unfold State.frameReadWaits
  simp only [test_walk h]
  split
  · rfl
  · cases s.framePlace t with
    | none => rfl
    | some pa => exact heldUp_free h.2.1 (fun l _ => test_line h l)

theorem test_numAt (s : State) (a k o n : Nat) (h : o + n ≤ k) : numAt (s.bytes a k) o n = s.num (a + o) n := by
  have e : s.bytes a k = s.bytes a o ++ (s.bytes (a + o) n ++ s.bytes (a + o + n) (k - o - n)) := by
    rw [← test_bytes_append, ← test_bytes_append]
    congr 1
    omega
  unfold numAt State.num
  rw [e, List.drop_left' (by unfold State.bytes; rw [readBytes_length]), List.take_left' (by unfold State.bytes; rw [readBytes_length])]

theorem test_bytes_same {s : State} (h : Memory.wf memDefault s.mem = true) (pa : Nat) (bs : List Byte) {n : Nat} (hn : bs.length = n) :
    (s.put pa bs).bytes pa n = bs := by
  have g : ∀ (m k : Nat), k + m = n → (s.put pa bs).bytes (pa + k) m = bs.drop k := by
    intro m
    induction m with
    | zero => intro k hk; rw [List.drop_eq_nil_of_le (by omega)]; rfl
    | succ m ih =>
      intro k hk
      have hk2 : k < bs.length := by omega
      show (s.put pa bs).byte (pa + k) :: (s.put pa bs).bytes (pa + k + 1) m = bs.drop k
      rw [Nat.add_assoc, ih (k + 1) (by omega), byte_put h, if_pos (by omega), Nat.add_sub_cancel_left, List.drop_eq_getElem_cons hk2]
      simp [List.getD_eq_getElem?_getD, hk2]
  have := g n 0 (by omega)
  simpa using this

/-- A free context with the image of a position at 0x2000 and its save image at 0x10000. -/
def Sys2Proof.testShelf : State :=
  ((testCtx (fun c => { c with run := .free })).put (loadBase + 0x2000) testImageBytes).put (loadBase + 0x10000) testSaveHead

theorem test_ground : testMapped (testCtx (fun c => { c with run := .free })) :=
  ⟨by decide, by decide, by decide, by decide, by decide, by decide, by decide +kernel, by decide +kernel⟩

theorem test_ground_zero {a : Nat} (h : loadBase + 0x3000 ≤ a) (ha : a < 2 ^ 39) : (testCtx (fun c => { c with run := .free })).byte a = 0 :=
  (test_above (testCtx (fun c => { c with run := .free })).mem (loadBase + 0x3000) a (by decide) h).trans (test_default (by omega))

theorem test_shelf : testMapped testShelf :=
  test_mapped_put (test_mapped_put test_ground (by decide) _) (by decide) _

/-- What is neither of them is as it was. -/
theorem test_shelf_apart (q n : Nat) (h : q + n ≤ loadBase + 0x2000 ∨ loadBase + 0x2400 ≤ q ∧ q + n ≤ loadBase + 0x10000 ∨ loadBase + 0x10080 ≤ q) :
    testShelf.bytes q n = (testCtx (fun c => { c with run := .free })).bytes q n := by
  have l1 : testImageBytes.length = 0x400 := by decide +kernel
  have l2 : testSaveHead.length = 0x80 := by decide
  have h2 : q + n ≤ loadBase + 0x10000 ∨ loadBase + 0x10000 + testSaveHead.length ≤ q := by
    rw [l2]; clear l1 l2; generalize loadBase = b at h ⊢; omega
  have h1 : q + n ≤ loadBase + 0x2000 ∨ loadBase + 0x2000 + testImageBytes.length ≤ q := by
    rw [l1]; clear l1 l2 h2; generalize loadBase = b at h ⊢; omega
  have m : testMapped ((testCtx (fun c => { c with run := .free })).put (loadBase + 0x2000) testImageBytes) := test_mapped_put test_ground (by decide) _
  exact (bytes_put_apart m.1 (loadBase + 0x10000) testSaveHead n q h2).trans
    (bytes_put_apart test_ground.1 (loadBase + 0x2000) testImageBytes n q h1)

theorem test_shelf_bytes : testShelf.bytes (loadBase + 0x10000) 128 = testSaveHead ∧ testShelf.bytes (loadBase + 0x2000) 1024 = testImageBytes ∧
    ∀ j, testShelf.byte (loadBase + 0x10080 + j) = (testCtx (fun c => { c with run := .free })).byte (loadBase + 0x10080 + j) := by
  have l2 : testSaveHead.length = 0x80 := by decide
  refine ⟨test_bytes_same (test_mapped_put test_ground (by decide) _).1 _ _ l2, ?_, fun j => ?_⟩
  · unfold testShelf
    rw [bytes_put_apart (test_mapped_put test_ground (by decide) _).1 _ _ _ _ (by omega)]
    exact test_bytes_same test_ground.1 _ _ (by decide +kernel)
  · have := test_shelf_apart (loadBase + 0x10080 + j) 1 (by omega)
    simpa [State.bytes, Memory.readBytes, State.byte] using this

/-- The same with a context image at 0x8000 that names a board's image. -/
def Sys2Proof.testRestoring (at_ : Nat) : State := taken (testShelf.put (loadBase + 0x8388) (leBytes 8 at_)) 0 .n [(0, 0x8000)]

theorem test_mapped_core {s : State} (h : testMapped s) (c : BitVec 6) (f : Core → Core) : testMapped (s.onCore c f) := h

theorem test_restoring (at_ : Nat) : testMapped (testRestoring at_) := by
  unfold testRestoring taken
  exact test_mapped_core (test_mapped_put test_shelf (by decide) _) _ _

theorem test_restoring_apart (at_ q n : Nat) (h : q + n ≤ loadBase + 0x8388 ∨ loadBase + 0x8390 ≤ q) :
    (testRestoring at_).bytes q n = testShelf.bytes q n := by
  show (testShelf.put (loadBase + 0x8388) (leBytes 8 at_)).bytes q n = _
  exact bytes_put_apart test_shelf.1 _ _ _ _ (by rw [leBytes_length]; omega)

theorem test_restoring_ctx (at_ : Nat) (x : Cx) :
    (testRestoring at_).ctx ⟨0, x⟩ = (testCtx (fun c => { c with run := .free })).ctx ⟨0, x⟩ := by
  unfold testRestoring taken testShelf State.ctx
  rw [core_onCore]
  cases x <;> rfl

/-- The state in which a RESTORE of that image has restored the registers. -/
def Sys2Proof.testReloaded (s : State) : State :=
  ((s.emptyWays ⟨0, .n⟩).getD s).onCtx ⟨0, .n⟩ (fun c => c.reload (s.bytes (loadBase + 0x8000) 0x5600))

theorem test_reloaded {s : State} (h : testMapped s) (h2 : numAt (s.bytes (loadBase + 0x8000) 0x5600) 0x382 1 = 0)
    (ho : (s.ctx ⟨0, .u⟩).board = none) :
    testMapped (testReloaded s) ∧ (testReloaded s).mem = s.mem ∧ ((testReloaded s).ctx ⟨0, .n⟩).tenant = 0 ∧
      ((testReloaded s).ctx ⟨0, .u⟩).board = none := by
  obtain ⟨b, e, k⟩ := test_mapped_ways h ⟨0, .n⟩
  unfold testReloaded
  rw [e]
  refine ⟨test_mapped_ctx (test_mapped_caches h k) _ _, by rw [show (Option.getD (some b) s) = b from rfl]; show b.mem = s.mem; rw [k.1], ?_, ?_⟩
  · rw [ctx_onCtx]
    simp only [Ctx.reload, h2]
    rfl
  · rw [ctx_onCtx_ne _ _ (by decide)]
    show (b.ctx ⟨0, .u⟩).board = none
    rw [onlyCaches_ctx k]
    exact ho

theorem test_restoring_image (at_ : Nat) :
    (testRestoring at_).imageBytes 0 0x8000 0x5600 = .done (testRestoring at_, (testRestoring at_).bytes (loadBase + 0x8000) 0x5600) :=
  test_imageBytes (n := 0x8000) 0x5600 (test_restoring at_) (by decide)

theorem test_restoring_fields (at_ : Nat) (ha : at_ < 2 ^ 64) : (testRestoring at_).num (loadBase + 0x8000 + 0x380) 1 = 0 ∧
    (testRestoring at_).num (loadBase + 0x8000 + 0x381) 1 = 0 ∧ (testRestoring at_).num (loadBase + 0x8000 + 0x382) 1 = 0 ∧
    (testRestoring at_).num (loadBase + 0x8000 + 0x398) 8 = 0 ∧ (testRestoring at_).num (loadBase + 0x8000 + 0x388) 8 = at_ := by
  have g : ∀ x ∈ [(0x380, 1), (0x381, 1), (0x382, 1), (0x398, 8)], (testRestoring at_).num (loadBase + 0x8000 + x.1) x.2 = 0 := by
    intro x hx
    have hb : loadBase + 0x8380 ≤ loadBase + 0x8000 + x.1 ∧ loadBase + 0x8000 + x.1 + x.2 ≤ loadBase + 0x83A0 ∧
        (loadBase + 0x8000 + x.1 + x.2 ≤ loadBase + 0x8388 ∨ loadBase + 0x8390 ≤ loadBase + 0x8000 + x.1) := by
      revert x; decide
    have hc : loadBase + 0x2400 ≤ loadBase + 0x8000 + x.1 ∧ loadBase + 0x8000 + x.1 + x.2 ≤ loadBase + 0x10000 := by revert x; decide
    unfold State.num
    rw [test_restoring_apart at_ _ _ hb.2.2, test_shelf_apart _ _ (.inr (.inl hc))]
    revert x; decide +kernel
  refine ⟨g (0x380, 1) (by decide), g (0x381, 1) (by decide), g (0x382, 1) (by decide), g (0x398, 8) (by decide), ?_⟩
  unfold State.num
  rw [show (testRestoring at_).bytes (loadBase + 0x8000 + 0x388) 8 = leBytes 8 at_ from test_bytes_same test_shelf.1 _ _ (leBytes_length 8 at_),
    leNat_leBytes, Nat.mod_eq_of_lt (by omega)]

theorem test_restoring_head {at_ : Nat} (ha : at_ < 2 ^ 64) :
    testMapped (testReloaded (testRestoring at_)) ∧ (testReloaded (testRestoring at_)).mem = (testRestoring at_).mem ∧
      ((testReloaded (testRestoring at_)).ctx ⟨0, .n⟩).tenant = 0 ∧ ((testReloaded (testRestoring at_)).ctx ⟨0, .u⟩).board = none :=
  test_reloaded (test_restoring at_) (by rw [test_numAt _ _ _ _ _ (by decide)]; exact (test_restoring_fields at_ ha).2.2.1)
    (by rw [test_restoring_ctx]; decide)

theorem test_restoring_fine : ∃ s4, (testReloaded (testRestoring 0x10000)).restoreBoard ⟨0, .n⟩ 0x10000#64 true = .done (s4, 0) ∧
    s4.frameReadWaits ⟨0, .n⟩ = none := by
  obtain ⟨r1, r2, r3, r4⟩ := test_restoring_head (at_ := 0x10000) (by decide)
  obtain ⟨b1, b2, b3⟩ := test_shelf_bytes
  have hb : ∀ q n, q + n ≤ loadBase + 0x8388 ∨ loadBase + 0x8390 ≤ q → (testReloaded (testRestoring 0x10000)).bytes q n = testShelf.bytes q n := by
    intro q n h
    have e := test_restoring_apart 0x10000 q n h
    unfold State.bytes at e ⊢
    rw [r2]; exact e
  obtain ⟨s4, e, h4⟩ := test_restores r1 ⟨0, .n⟩ r3 true ((hb _ _ (by omega)).trans b1) ((hb _ _ (by omega)).trans b2)
    (fun j hj => by
      have e := hb (loadBase + 0x10080 + j) 1 (by omega)
      simp only [State.bytes, Memory.readBytes, List.cons.injEq, and_true] at e
      refine (e.trans (b3 j)).trans ?_
      exact test_ground_zero (by omega) (by unfold loadBase; omega)) r4
  exact ⟨s4, e, test_frame_waits h4 _⟩

theorem test_restoring_zeros : (testReloaded (testRestoring 0x20000)).bytes (loadBase + 0x20000) 128 = List.replicate 128 0 := by
  have e := (test_restoring_apart 0x20000 (loadBase + 0x20000) 128 (by omega)).trans (test_shelf_apart _ _ (by omega))
  have r2 := (test_restoring_head (at_ := 0x20000) (by decide)).2.1
  unfold State.bytes at e ⊢
  rw [r2, e]
  exact test_zeros 128 _ (fun j hj => test_ground_zero (by omega) (by unfold loadBase; omega))

theorem test_restores_none {s : State} (h : testMapped s) (ht : (s.ctx ⟨0, .n⟩).tenant = 0)
    (hz : s.bytes (loadBase + 0x20000) 128 = List.replicate 128 0) : ∃ s4, s.restoreBoard ⟨0, .n⟩ 0x20000#64 true = .done (s4, 13) := by
  have hi : s.imageBytes 0 0x20000#64 128 = .done (s, List.replicate 128 0) := hz ▸ test_imageBytes (n := 0x20000) 128 h (by decide)
  have h1 : numAt (List.replicate 128 0) 8 8 = 0 := by decide
  have h2 : saveHeadOk (List.replicate 128 0) = false := by decide
  refine ⟨s.onCtx ⟨0, .n⟩ (fun c => c.noteLoad 13), ?_⟩
  simp only [State.restoreBoard, ht, hi, h1, h2, Bool.not_false, if_true]

theorem test_restoring_bad : ∃ s4, (testReloaded (testRestoring 0x20000)).restoreBoard ⟨0, .n⟩ 0x20000#64 true = .done (s4, 13) := by
  have r := test_restoring_head (at_ := 0x20000) (by decide)
  exact test_restores_none r.1 r.2.2.1 test_restoring_zeros

theorem witness_ContextCommands_boards :
    (let c := testBoarded.ctx ⟨0, .n⟩
     c.run = .suspended ∧ c.board.isSome = true ∧ (0x10000#64).toNat % 128 = 0 ∧ (0x8000#64).toNat % 256 = 0 ∧ c.ld = 0 ∧ c.st = 0 ∧
      c.mxJobs = [] ∧ c.invRunning = false ∧ c.tenant = 0 ∧ c.xfers.length ≤ 64 ∧
      ∃ s1 s2, (testBoarded.disownTiles ⟨0, .n⟩).saveBoard ⟨0, .n⟩ 0x10000#64 = .done s1 ∧ s1.frameReadWaits ⟨0, .n⟩ = none ∧
        (let bs := contextImage s1 ⟨0, .n⟩ (testBoarded.frameRpc ⟨0, .n⟩) 0x10000
         s1.imageWrite 0 (bs.length / 128 + 2) 0x8000#64 bs = .done s2)) ∧
    (testBase.me.run ≠ .free ∧ (∀ r, testBase.me.fillOf r ≤ 512) ∧ testBase.me.xfers = []) ∧
    (∀ at_ ∈ [0x10000, 0x20000],
      let s := testRestoring at_
      let p := (s.ctx ⟨0, .n⟩).parkedIn 0x8000
      let b := s.bytes (loadBase + 0x8000) 0x5600
      (s.ctx ⟨0, .n⟩).run = .free ∧ p.tenant = 0 ∧ p.tpcs = [] ∧ p.rerun = false ∧ (s.ctx ⟨0, .n⟩).xfers = [] ∧
      s.imageBytes 0 0x8000 0x5600 = .done (s, b) ∧ numAt b 0x380 1 = 0 ∧ numAt b 0x381 1 = 0 ∧ numAt b 0x382 1 = 0 ∧
      numAt b 0x398 8 = 0 ∧ numAt b 0x388 8 = at_ ∧ ∀ l ∈ s.lentLines ⟨0, .n⟩, s.owningLine l = false) ∧
    (let restored (at_ : Nat) : State :=
       let s := testRestoring at_
       let b := s.bytes (loadBase + 0x8000) 0x5600
       (((s.emptyWays ⟨0, .n⟩).getD s).onCtx ⟨0, .n⟩ (fun c => c.reload b)).reissueTable ⟨0, .n⟩ b [] 0 0
     (∃ s4, (restored 0x10000).restoreBoard ⟨0, .n⟩ 0x10000#64 true = .done (s4, 0) ∧ s4.frameReadWaits ⟨0, .n⟩ = none) ∧
      ∃ s4, (restored 0x20000).restoreBoard ⟨0, .n⟩ 0x20000#64 true = .done (s4, 13)) := by
  refine ⟨⟨by decide, by decide, by decide, by decide, by decide, by decide, by decide, by decide, by decide, by decide, test_saved_board⟩,
    ⟨by decide, ?_, by decide⟩, ?_, test_restoring_fine, test_restoring_bad⟩
  · intro r
    exact (by decide : ∀ k : Fin 32, testBase.me.fill[k] ≤ 512) ⟨r % 32, Nat.mod_lt _ (by decide)⟩
  intro at_ ha
  have hl : at_ < 2 ^ 64 := by revert at_; decide
  obtain ⟨q1, q2, q3, q4, q5⟩ := test_restoring_fields at_ hl
  dsimp only
  simp only [test_numAt _ _ 0x5600 0x380 1 (by decide), test_numAt _ _ 0x5600 0x381 1 (by decide), test_numAt _ _ 0x5600 0x382 1 (by decide),
    test_numAt _ _ 0x5600 0x398 8 (by decide), test_numAt _ _ 0x5600 0x388 8 (by decide)]
  rw [test_restoring_ctx]
  refine ⟨by decide, by decide, by decide, by decide, by decide, test_restoring_image at_, q1, q2, q3, q4, q5, ?_⟩
  intro l _
  unfold State.owningLine
  rw [(test_restoring at_).2.2.1]
  simp

theorem test_holder_saves : ∃ s1 s2, testHolder.saveBoard testHolder.cur 0x10000#64 = .done s1 ∧
    testHolder.imageWrite testHolder.me.tenant (testHolder.me.saveImage.length / 128 + 2) 0x10000#64 testHolder.me.saveImage = .done s2 := by
  have h : testMapped testHolder := ⟨by decide, by decide, by decide, by decide, by decide, by decide, by decide +kernel, by decide +kernel⟩
  have hs := test_holder_length
  have hc : (testHolder.me.board.map Position.comingIn).getD false = false := by decide
  have ht : testHolder.me.tenant = 0 := by decide
  obtain ⟨a, e1, h1⟩ := test_imageWrite (45184 / 128 + 2) (n := 0x10000) testHolder.me.saveImage h (by rw [hs]; decide)
  obtain ⟨b, e2, _⟩ := test_mapped_ways h1 testHolder.cur
  refine ⟨b.onCtx testHolder.cur (fun c => { c with board := none, inv := none }), a, ?_, by rw [ht, hs]; exact e1⟩
  unfold State.saveBoard
  dsimp only
  change (testHolder.me.board.map Position.comingIn).getD false = false at hc
  change testHolder.me.saveImage.length = 45184 at hs
  rw [show testHolder.ctx testHolder.cur = testHolder.me from rfl, if_neg (by rw [hc]; decide), hs, ht, e1]
  dsimp only
  unfold State.setBoard
  rw [e2]

theorem test_shelf_restores : let s := testShelf.onMe (fun c => c.setG 1 0x10000)
    (∃ s1, s.restoreBoard s.cur 0x10000#64 false = .done (s1, 0)) ∧ s.imageBytes s.me.tenant 0x10000#64 128 = .done (s, testSaveHead) := by
  have h : testMapped (testShelf.onMe (fun c => c.setG 1 0x10000)) := test_mapped_ctx test_shelf _ _
  obtain ⟨b1, b2, b3⟩ := test_shelf_bytes
  have ht : ∀ x, ((testShelf.onMe (fun c => c.setG 1 0x10000)).ctx ⟨0, x⟩).tenant = 0 ∧
      ((testShelf.onMe (fun c => c.setG 1 0x10000)).ctx ⟨0, x⟩).board = none := by
    intro x
    cases x <;> exact ⟨by rfl, by rfl⟩
  obtain ⟨s1, e, _⟩ := test_restores h ⟨0, .n⟩ (ht .n).1 false b1 b2
    (fun j hj => (b3 j).trans (test_ground_zero (by omega) (by unfold loadBase; omega))) (ht .u).2
  refine ⟨⟨s1, e⟩, ?_⟩
  have e2 := test_imageBytes (n := 0x10000) 128 h (by decide)
  rw [show (testShelf.onMe (fun c => c.setG 1 0x10000)).bytes (loadBase + 0x10000) 128 = testSaveHead from b1] at e2
  exact e2

/-- A position of a BUF tile, and an invocation of it that was cut off. -/
def Sys2Proof.testCut : Invocation := testInv (fun v => { v with held := true, cut := some FabStop.none })

theorem witness_BoardInstructions_images :
    (testHolder.me.txa = false ∧ testHolder.me.inv = none ∧ testHolder.me.xfers = [] ∧ testHolder.G 1 = 0x10000#64 ∧
      (0x10000#64).toNat % 128 = 0 ∧ testHolder.me.board = some testPlain) ∧
    (∃ s1 s2, testHolder.saveBoard testHolder.cur 0x10000#64 = .done s1 ∧
      testHolder.imageWrite testHolder.me.tenant (testHolder.me.saveImage.length / 128 + 2) 0x10000#64 testHolder.me.saveImage = .done s2) ∧
    (let s := testSaved
     s.me.board = none ∧ (s.G 1).toNat % 128 = 0 ∧ Lies s s.me.tenant (s.G 1) 128 .write (loadBase + 0x2000) ∧ Memory.wf memDefault s.mem = true) ∧
    ((let s := testShelf.onMe (fun c => c.setG 1 0x10000)
      (∃ s1, s.restoreBoard s.cur 0x10000#64 false = .done (s1, 0)) ∧ s.imageBytes s.me.tenant 0x10000#64 128 = .done (s, testSaveHead)) ∧
      numAt testSaveHead 8 8 ≠ 0 ∧ numAt testSaveHead 6 1 = 0) ∧
    (let c := (testBoard (some testFabric) (some testCut)).me
     c.board = some testFabric ∧ c.inv = some testCut ∧ testCut.fields.length = 6 ∧ testCut.fields[5]? = some none ∧
      testCut.cut = some FabStop.none ∧ (Tbl.find testFabric.pieces 0).isSome = true ∧
      (∀ q, Tbl.find testFabric.pieces 0 = some q → (∀ j : Fin 4, q.ins[j].skid.length ≤ 2) ∧ q.ins[0].skid[0]? = some 3) ∧
      testFabric.image.savedTiles[0]? = some 0 ∧ testFabric.image.role 0 = 2 ∧ (testFabric.image.srtOf 0).isNone = true ∧
      (testFabric.tile 0).fifo.length ≤ 32768 ∧ (testFabric.tile 0).fifo[0]? = some 5) ∧
    (testPos.image.savedTiles[0]? = some 0 ∧ testPos.image.role 0 = 1) := by
  refine ⟨⟨by decide, by decide, by decide, by decide, by decide, rfl⟩, test_holder_saves, ⟨by decide, by decide, ?_, by decide⟩, ⟨test_shelf_restores, by decide, by decide⟩,
    ⟨rfl, rfl, by decide, by decide, rfl, by decide, ?_, by decide, by decide, by decide, by decide, by decide⟩, by decide⟩
  · exact ⟨by decide, test_linesFree (by decide), ⟨testLeaf 0x2000, by decide, rfl⟩, test_bytesFree (by decide) (by decide), fun h => by cases h⟩
  · intro q hq
    have e : Tbl.find testFabric.pieces 0 = some { Piece.fresh .plain with
      ins := (Vector.replicate 4 ⟨[], true⟩).set 0 ⟨[3], false⟩ |>.set 1 ⟨[4], false⟩ } := rfl
    rw [e] at hq
    cases hq
    decide

/-- Bytes that the transfer unit may reach at once. -/
theorem test_lies {s : State} {ten : BitVec 5} {va : Word} {n pa : Nat} {k : Need} (h : regionOf va = none ∧
    (s.walkLines ten va).all (fun m => !lineHeld s m) = true ∧ (s.translate ten va k).toOption.map (·.pa) = some pa ∧ s.txs = [] ∧
    (linesOf pa n).all (fun m => !lineHeld s m) = true ∧ s.poisoned pa n = false) : Lies s ten va n k pa := by
  refine ⟨h.1, test_linesFree h.2.1, ?_, test_bytesFree h.2.2.2.1 h.2.2.2.2.1, fun _ => h.2.2.2.2.2⟩
  cases ht : s.translate ten va k with
  | error e => rw [ht] at h; cases h.2.2.1
  | ok l => rw [ht] at h; exact ⟨l, rfl, Option.some.inj h.2.2.1⟩

theorem witness_MemorySystemSteps_transfers :
    (∀ a ∈ [(0x180#64, false), (0x1C0#64, true)],
      let s := testXfer .copyl 0x100 a.1
      ∃ x, (s.ctx ⟨0, .n⟩).xfer 3 = some x ∧ x.faulted = none ∧ x.op = .copyl ∧ x.done < x.count ∧ s.syncOk 0 x = true ∧
        s.syncWaits 0 x = false ∧ s.noticeWaits 0 = none ∧ Memory.wf memDefault s.mem = true ∧
        (∃ bs, SourceBytes s 0 (x.src + BitVec.ofNat 64 x.done) 128 bs) ∧
        Lies s 0 (x.dst + BitVec.ofNat 64 x.done) 128 .write (loadBase + 0x100) ∧
        (a.2 = true → Min.min 128 (128 - x.src.toNat % 128) < 128)) ∧
    (let x : Xfer := { Xfer.blank .copy 0 with id := 3, handle := some 1, src := 0x180, count := 128 }
     let s := (testRegion .a 2 0).onMe (fun c => { c with xfers := [x] })
     let hd := (s.core 0).handle 1
     (s.ctx ⟨0, .n⟩).xfer 3 = some x ∧ x.handle = some 1 ∧ x.op = .copy ∧ x.done < x.count ∧ s.syncOk 0 x = true ∧ s.syncWaits 0 x = false ∧
      (∃ bs, SourceBytes s 0 (x.src + BitVec.ofNat 64 x.done) 128 bs) ∧ hd.buf = some .a ∧ Memory.wf zeroByte ((s.core 0).buf .a) = true) ∧
    (∀ op ∈ [XferOp.drain, .drainR],
      let x : Xfer := { Xfer.blank op 0 with id := 3, handle := some 1, dst := 0x100, count := 128 }
      let s := (testRegion .a 2 0).onMe (fun c => { c with xfers := [x] })
      let hd := (s.core 0).handle 1
      (s.ctx ⟨0, .n⟩).xfer 3 = some x ∧ x.handle = some 1 ∧ (x.op = .drain ∨ x.op = .drainR) ∧ x.done < x.count ∧
        Lies s 0 (x.dst + BitVec.ofNat 64 x.done) 128 .write (loadBase + 0x100) ∧
        ((s.core 0).regionBytes hd (x.off + x.done) 128).length = 128) ∧
    (let x : Xfer := { Xfer.blank .copyl 0 with id := 3, dst := 0x100, src := 0x180, count := 128, sync := 0xFFFFFD0000000000#64 }
     let g : Image := { testImage with tiles := [⟨1, true, 0xFFFF, 0, 0, 0⟩] }
     let s := testCtx (fun c => { c with xfers := [x], board := some { Position.ofImage g 0x1000 [] with arrived := 8 } })
     x.sync ≠ 0 ∧ remotePlace x.sync = some (0, 0, 0) ∧ s.remoteOwner 0 0 0 = some .n ∧ s.syncOk 0 x = true ∧ s.syncWaits 0 x = false) ∧
    (let x : Xfer := { Xfer.blank .copyl 0 with id := 3, dst := 0x100, src := 0x180, count := 128, sync := 0xFFFFFD0004000000#64 }
     let s := testCtx (fun c => { c with xfers := [x] })
     (s.ctx ⟨0, .n⟩).xfer 3 = some x ∧ x.done < x.count ∧ x.done = 0 ∧ s.syncOk 0 x = false) ∧
    (∀ op ∈ [XferOp.copy, .drain, .drainR, .copyl],
      let x : Xfer := { Xfer.blank op 0 with id := 3, handle := some 1, count := 128, done := 128 }
      let s := (testRegion .a 2 0).onMe (fun c => { c with xfers := [x] })
      (s.ctx ⟨0, .n⟩).xfer 3 = some x ∧ x.faulted = none ∧ x.op ≠ .fill ∧ x.count ≤ x.done ∧ x.xreq = false) ∧
    (let d : DirEntry := { DirEntry.none with st := .pipped, pips := 1, pending := true, saved := List.replicate 128 0 }
     let s := testXfer .fill 0x100 0x100
     let t := testXfer .fill 0x100 0x180
     let d0 := s.setDir 0x800002 d
     let d1 := t.setDir 0x800002 d
     ∃ x y, (d0.ctx ⟨0, .n⟩).xfer 3 = some x ∧ (d1.ctx ⟨0, .n⟩).xfer 3 = some y ∧ x.op = .fill ∧ x.done < x.count ∧ x.sync = 0 ∧ y.sync = 0 ∧
      x.lines[x.done / 128]? = some 0x800002 ∧ y.lines[y.done / 128]? = some 0x800002 ∧
      ¬((s.dirOf 0x800002).st = .pipped ∧ (s.dirOf 0x800002).pending = true) ∧
      (d0.dirOf 0x800002).st = .pipped ∧ (d0.dirOf 0x800002).pending = true ∧
      Lies d0 0 (x.src + BitVec.ofNat 64 x.done) 128 .read (0x800002 * 128) ∧
      (∃ bs, SourceBytes d1 0 (y.src + BitVec.ofNat 64 y.done) 128 bs) ∧
      (∃ l, d1.translate 0 (y.src + BitVec.ofNat 64 y.done) .read = .ok l ∧ l.pa = loadBase + 0x180) ∧ loadBase + 0x180 ≠ 0x800002 * 128 ∧
      Memory.wf memDefault d1.mem = true ∧ DirSorted d1) ∧
    (let s : State := { testBank [] 3 with poison := [((testBank [] 3).bank 0 0 0).base.toNat / 32] }
     let b := s.bank 0 0 0
     b.chip.length < 64 ∧ 0 < b.used ∧ s.poisoned (b.base.toNat + 8 * (b.used - Min.min 128 b.used)) (8 * Min.min 128 b.used) = true) := by
  refine ⟨?_, ⟨rfl, rfl, rfl, by decide, by decide, by decide, ⟨_, ⟨loadBase + 0x180, test_lies (by decide), fun _ => rfl, fun h => absurd h (by decide)⟩⟩, by decide, by decide⟩,
    ?_, by decide, ⟨rfl, by decide, by decide, by decide⟩, ?_, ?_, by decide⟩
  · intro a ha
    simp only [List.mem_cons, List.mem_nil_iff, or_false] at ha
    rcases ha with rfl | rfl
    · exact ⟨_, rfl, rfl, rfl, by decide, by decide, by decide, by decide, by decide,
        ⟨_, ⟨loadBase + 0x180, test_lies (by decide), fun _ => rfl, fun h => absurd h (by decide)⟩⟩, test_lies (by decide), fun h => by cases h⟩
    · exact ⟨_, rfl, rfl, rfl, by decide, by decide, by decide, by decide, by decide,
        ⟨_, ⟨loadBase + 0x1C0, test_lies (by decide), fun h => absurd h (by decide), fun _ => ⟨loadBase + 0x200, test_lies (by decide), rfl⟩⟩⟩,
        test_lies (by decide), fun _ => by decide⟩
  · intro op ho
    simp only [List.mem_cons, List.mem_nil_iff, or_false] at ho
    rcases ho with rfl | rfl <;> exact ⟨rfl, rfl, by decide, by decide, test_lies (by decide), by decide⟩
  · intro op ho
    simp only [List.mem_cons, List.mem_nil_iff, or_false] at ho
    rcases ho with rfl | rfl | rfl | rfl <;> exact ⟨rfl, rfl, by decide, by decide, rfl⟩
  · exact ⟨_, _, rfl, rfl, rfl, by decide, rfl, rfl, by decide, by decide, by decide, by decide, by decide, test_lies (by decide),
      ⟨_, ⟨loadBase + 0x180, test_lies (by decide), fun _ => rfl, fun h => absurd h (by decide)⟩⟩, ⟨testLeaf 0x180, by decide, rfl⟩, by decide, by decide, by unfold DirSorted; decide⟩

theorem witness_ContextCommands_resumes :
    (∀ x ∈ [(0x10014, 0), (0x10114, 0), (0x10114, 5), (0x10214, 0), (0x10314, 0), (0x10414, 0), (0x10514, 0), (0x10614, 0), (0x14, 0)],
      let s := (testFrame x.1 1 x.2).onMe (fun c => { c with run := .suspended })
      let s0 : State := { taken s 0 .n [] with cur := ⟨0, .n⟩ }
      let pa := loadBase + 0x1000
      s.portBusy 0 = false ∧ s.plat.stuck = false ∧ (s.ctx ⟨0, .n⟩).run = .suspended ∧ Memory.wf memDefault s.mem = true ∧
        frameFree s0 pa ∧ s0.num pa 8 / 2 ^ 8 % 16 = x.1 / 256 % 16 ∧ s0.num pa 8 / 2 ^ 16 % 2 = x.1 / 65536 % 2 ∧
        s0.wordsWait s0.cur (BitVec.ofNat 64 (s0.num (pa + 0x18) 8) &&& ~~~(3#64)) = none ∧
        s0.fetchWords s0.cur (BitVec.ofNat 64 (s0.num (pa + 0x18) 8) &&& ~~~(3#64)) = .ok (0, 0) ∧ s0.num (pa + 0x50) 4 = x.2) ∧
    (let y : Tx := { testTx with writes := [(loadBase + 0x100, 7)], wset := [0x800002] }
     let s : State := { testInTx with txs := [(⟨0, .n⟩, y)] }
     (∃ p ∈ s.txs, (s.ctx p.1).tenant = (0#64).truncate 5 ∧ p.2.writes.isEmpty = false) ∧ (0#64).toNat ≤ 16 ∧ s.portBusy 0 = false) ∧
    testBase.txs = [] := by
  refine ⟨?_, ⟨⟨_, .head _, by decide, by decide⟩, by decide, by decide⟩, by decide⟩
  intro x hx
  simp only [List.mem_cons, List.not_mem_nil, or_false] at hx
  rcases hx with rfl | rfl | rfl | rfl | rfl | rfl | rfl | rfl | rfl <;>
    exact ⟨by decide, by decide, by decide, by decide,
      ⟨by decide, test_linesFree (by decide), ⟨testLeaf 0x1000, by decide, rfl⟩, test_bytesFree (by decide) (by decide), by decide⟩,
      by decide, by decide, by decide, by decide, by decide⟩

theorem witness_SettingCommands_refusals :
    (let s := testHost (fun h => { h with bias := [(5, 2)] })
     s.host.flips = [] ∧ (∀ p ∈ s.host.bias, p.2.getLsbD 0 = false) ∧ (0x10000#64).toNat % 4096 = 0 ∧ populated (0x10000#64).toNat = true ∧
      ∃ s1, ({ taken s 0 .n [(0, 0x10000)] with host := { s.host with biasBase := 0x10000 } } : State).writeBias 0x10000 s.host.bias = (s1, true)) ∧
    (testHost (fun h => { h with flips := [⟨0, false, false, false, true⟩] })).host.flips ≠ [] ∧
    (∃ p ∈ (testHost (fun h => { h with bias := [(5, 1)] })).host.bias, p.2.getLsbD 0 = true) ∧
    ((0x1001#64).toNat % 4096 ≠ 0 ∧ (0x7000000000000000#64).toNat % 4096 = 0 ∧ populated (0x7000000000000000#64).toNat = false) ∧
    (populated (0x1000#64).toNat = true ∧ populated ((0x1000#64).toNat + 0x100 + 256 * (0xFFFFFFFFFFFF#64).toNat - 1) = false) ∧
    (testBase.named 5 = none ∧ (let s := testWork (testLaunch .running testQueue testQueue) none false
      ∃ n l, s.named 0 = some (n, l) ∧ l.queue (31#64).toNat = none)) ∧
    (let s := testWork (testLaunch .running testQueue testQueue) none false
     ∃ p ∈ s.slots, ∃ l, p.2.launch = some l ∧ l.job.toNat = (0#64).toNat ∧ l.state.isFinal = false) ∧
    256 ≤ (256#64).toNat := by
  refine ⟨⟨by decide, by decide, by decide, by decide, ?_⟩, by decide, ⟨_, .head _, by decide⟩, by decide, by decide, ⟨by decide, ⟨0, _, rfl, by decide⟩⟩,
    ⟨_, .head _, ⟨_, rfl, by decide, by decide⟩⟩, by decide⟩
  have h : (({ taken (testHost (fun h => { h with bias := [(5, 2)] })) 0 .n [(0, 0x10000)] with
      host := { (testHost (fun h => { h with bias := [(5, 2)] })).host with biasBase := 0x10000 } } : State).writeBias 0x10000 [(5, 2)]).2 = true := by
    decide +kernel
  exact ⟨_, Prod.ext rfl h⟩

theorem witness_HostSteps_more :
    (populated ((0x7000000000000003#64).toNat / 2 ^ 12 * 2 ^ 12) = false) ∧
    (let s := testHost (fun h => { h with modified := [0x300000000000 / 128] })
     behind (.peer 0) (0x300000000000 / 128) = true ∧ 0x300000000000 / 128 ∈ s.host.modified ∧ Memory.wf memDefault s.mem = true) := by
  decide

end Slice0Tests
end

section
/-! PROOFS. The results of the integer operations (R96) as arithmetic on the values that words hold, general register 0
(R44) at the level of the state, and the statement that puts them together. -/

namespace Sys2Proof

open Sys2Proof.Machine

/-! ### Operations on words as arithmetic on their values -/

/-- A left shift multiplies by a power of two. -/
theorem shiftLeft_eq_ofNat {w : Nat} (x : BitVec w) (k : Nat) : x <<< k = BitVec.ofNat w (x.toNat * 2 ^ k) := by
  apply BitVec.eq_of_toNat_eq
  rw [BitVec.toNat_shiftLeft, Nat.shiftLeft_eq, BitVec.toNat_ofNat]

/-- A logical right shift divides the unsigned value by a power of two. -/
theorem ushiftRight_eq_ofNat {w : Nat} (x : BitVec w) (k : Nat) : x >>> k = BitVec.ofNat w (x.toNat / 2 ^ k) := by
  have hk : x.toNat / 2 ^ k < 2 ^ w := (Nat.div_le_self _ _).trans_lt x.isLt
  apply BitVec.eq_of_toNat_eq
  rw [BitVec.toNat_ushiftRight, Nat.shiftRight_eq_div_pow, BitVec.toNat_ofNat, Nat.mod_eq_of_lt hk]

/-- An arithmetic right shift divides the signed value by a power of two, rounding down. -/
theorem sshiftRight_eq_ofInt {w : Nat} (x : BitVec w) (k : Nat) : x.sshiftRight k = BitVec.ofInt w (x.toInt / 2 ^ k) := by
  rw [BitVec.sshiftRight, Int.shiftRight_eq_div_pow, Nat.cast_pow, Nat.cast_ofNat]

/-- The shift amount of a register is its value modulo 64 (R96). -/
theorem shiftAmount_eq_mod (y : Word) : (y.extractLsb' 0 6).toNat = y.toNat % 64 := by
  rw [BitVec.extractLsb'_toNat, Nat.shiftRight_zero]

/-- A signed comparison as a word. -/
theorem boolWord_slt {w : Nat} (x y : BitVec w) : boolWord (x.slt y) = if x.toInt < y.toInt then 1 else 0 := by
  simp only [boolWord, BitVec.slt_iff_toInt_lt]

/-- An unsigned comparison as a word. -/
theorem boolWord_ult {w : Nat} (x y : BitVec w) : boolWord (x.ult y) = if x.toNat < y.toNat then 1 else 0 := by
  simp only [boolWord, BitVec.ult_iff_toNat_lt]

/-- The smaller of two signed words. -/
theorem smin_eq_ofInt {w : Nat} (x y : BitVec w) :
    (if x.slt y then x else y) = BitVec.ofInt w (Min.min x.toInt y.toInt) := by
  simp only [BitVec.slt_iff_toInt_lt]
  split
  case isTrue h => rw [min_eq_left h.le, BitVec.ofInt_toInt]
  case isFalse h => rw [min_eq_right (not_lt.mp h), BitVec.ofInt_toInt]

/-- The larger of two signed words. -/
theorem smax_eq_ofInt {w : Nat} (x y : BitVec w) :
    (if x.slt y then y else x) = BitVec.ofInt w (Max.max x.toInt y.toInt) := by
  simp only [BitVec.slt_iff_toInt_lt]
  split
  case isTrue h => rw [max_eq_right h.le, BitVec.ofInt_toInt]
  case isFalse h => rw [max_eq_left (not_lt.mp h), BitVec.ofInt_toInt]

/-- The smaller of two unsigned words. -/
theorem umin_eq_ofNat {w : Nat} (x y : BitVec w) :
    (if x.ult y then x else y) = BitVec.ofNat w (Min.min x.toNat y.toNat) := by
  simp only [BitVec.ult_iff_toNat_lt]
  split
  case isTrue h => rw [min_eq_left h.le, BitVec.ofNat_toNat, BitVec.setWidth_eq]
  case isFalse h => rw [min_eq_right (not_lt.mp h), BitVec.ofNat_toNat, BitVec.setWidth_eq]

/-- The larger of two unsigned words. -/
theorem umax_eq_ofNat {w : Nat} (x y : BitVec w) :
    (if x.ult y then y else x) = BitVec.ofNat w (Max.max x.toNat y.toNat) := by
  simp only [BitVec.ult_iff_toNat_lt]
  split
  case isTrue h => rw [max_eq_right h.le, BitVec.ofNat_toNat, BitVec.setWidth_eq]
  case isFalse h => rw [max_eq_left (not_lt.mp h), BitVec.ofNat_toNat, BitVec.setWidth_eq]

/-- The low bits of a word, sign-extended. -/
theorem sextW_low (x : Word) {n : Nat} (h : n ≤ 64) : sextW (x.extractLsb' 0 n) = (x.truncate n).signExtend 64 := by
  rw [sextW, ← BitVec.setWidth_eq_extractLsb' h]

/-- The low bits of a word, zero-extended. -/
theorem zeroExtend_low (x : Word) {n : Nat} (h : n ≤ 64) :
    (x.extractLsb' 0 n).zeroExtend 64 = (x.truncate n).zeroExtend 64 := by
  rw [← BitVec.setWidth_eq_extractLsb' h]

/-! ### General registers of the moving thread (R44) -/

@[simp] theorem stateG_zero (s : State) : s.G 0#5 = 0 := G_zero s.me

@[simp] theorem stateSetG_zero (s : State) (z : Word) : s.setG 0#5 z = s := onMe_id s

theorem stateG_setG (s : State) {d : BitVec 5} (z : Word) (h : d ≠ 0) : (s.setG d z).G d = z := by
  rw [State.G, State.setG, me_onMe, G_setG s.me z h]

theorem stateG_setG_ne (s : State) {d q : BitVec 5} (z : Word) (h : q ≠ d) : (s.setG d z).G q = s.G q := by
  rw [State.G, State.setG, me_onMe, G_setG_ne s.me z h, State.G]

/-! ### The answers of the ALU operations (R96) -/

/-- An instruction that is the write of an integer result answers as `wroteG` says with every equal result. -/
theorem exec_eq_wroteG {i : Instr} {s : State} {d : BitVec 5} {r x : Word} (hi : exec i s = writeInt d r s) (hx : r = x) :
    exec i s = wroteG s d x := by
  rw [hi, writeInt_eq, hx]

/-- Settles O7: each operation is one `writeInt`, and its word operation is the arithmetic that R96 states. -/
theorem aluResults : Obligations.AluResults := by
  intro s d a b x y
  have amount : (y.extractLsb' 0 6).toNat = y.toNat % 64 := shiftAmount_eq_mod y
  refine ⟨fun z => ⟨stateG_zero s, stateSetG_zero s z, stateG_setG s z, fun q => stateG_setG_ne s z⟩, ?add, ?sub, ?and, ?or,
    ?xor, ?andn, ?sll, ?srl, ?sra, ?slt, ?sltu, ?min, ?max, ?minu, ?maxu, ?sextB, ?sextH, ?sextW, ?zextW⟩
  case add | sub | and | or | xor | andn => exact exec_eq_wroteG rfl rfl
  case sll => exact exec_eq_wroteG rfl (amount ▸ shiftLeft_eq_ofNat x _)
  case srl => exact exec_eq_wroteG rfl (amount ▸ ushiftRight_eq_ofNat x _)
  case sra => exact exec_eq_wroteG rfl (amount ▸ sshiftRight_eq_ofInt x _)
  case slt => exact exec_eq_wroteG rfl (boolWord_slt x y)
  case sltu => exact exec_eq_wroteG rfl (boolWord_ult x y)
  case min => exact exec_eq_wroteG rfl (smin_eq_ofInt x y)
  case max => exact exec_eq_wroteG rfl (smax_eq_ofInt x y)
  case minu => exact exec_eq_wroteG rfl (umin_eq_ofNat x y)
  case maxu => exact exec_eq_wroteG rfl (umax_eq_ofNat x y)
  case sextB | sextH | sextW => exact exec_eq_wroteG rfl (sextW_low x (by decide))
  case zextW => exact exec_eq_wroteG rfl (zeroExtend_low x (by decide))

end Sys2Proof
end

section
/-! PROOFS. Bit counts, immediate forms, products and quotients (R96 to R101) as arithmetic on the values that words hold,
jumps (R108, R109), and the statements that put them together. -/

namespace Sys2Proof

open Sys2Proof.Machine

/-! ### Bit counts (R96) -/

/-- The count of leading zero bits is the number of zero bits above the highest one bit. -/
theorem clzWord_spec (x : Word) :
    ∃ k ≤ 64, clzWord x = BitVec.ofNat 64 k ∧ (∀ j, 64 - k ≤ j → x.getLsbD j = false) ∧
      (k < 64 → x.getLsbD (63 - k) = true) := by
  by_cases hx : x = 0
  case pos =>
    refine ⟨64, le_rfl, by rw [clzWord, if_pos hx]; rfl, fun j _ => ?_, fun h => absurd h (lt_irrefl _)⟩
    rw [hx, BitVec.ofNat_eq_ofNat, BitVec.getLsbD_zero]
  case neg =>
    have hne : x.toNat ≠ 0 := fun h => hx (BitVec.eq_of_toNat_eq h)
    have htop : x.toNat.log2 < 64 := (Nat.log2_lt hne).mpr x.isLt
    refine ⟨63 - x.toNat.log2, by omega, by rw [clzWord, if_neg hx], fun j hj => ?_, fun _ => ?_⟩
    · exact Nat.testBit_lt_two_pow ((Nat.log2_lt hne).mp (by omega))
    · rw [show 63 - (63 - x.toNat.log2) = x.toNat.log2 by omega]
      exact Nat.testBit_log2 hne

/-- The count of trailing zero bits is the position of the lowest one bit, or 64. -/
theorem ctzWord_spec (x : Word) :
    ∃ k ≤ 64, ctzWord x = BitVec.ofNat 64 k ∧ (∀ j < k, x.getLsbD j = false) ∧ (k < 64 → x.getLsbD k = true) := by
  unfold ctzWord
  cases h : (List.range 64).find? (fun i => x.getLsbD i) with
  | none =>
    have zeros := List.find?_range_eq_none.mp h
    exact ⟨64, le_rfl, rfl, fun j hj => by simpa using zeros j hj, fun h => absurd h (lt_irrefl _)⟩
  | some k =>
    obtain ⟨hone, hk, hzeros⟩ := List.find?_range_eq_some.mp h
    exact ⟨k, (List.mem_range.mp hk).le, rfl, fun j hj => by simpa using hzeros j hj, fun _ => hone⟩

/-- The count of one bits is the size of the set of their positions. -/
theorem popWord_eq_card (x : Word) :
    popWord x = BitVec.ofNat 64 (Finset.card ((Finset.range 64).filter (fun j => x.getLsbD j = true))) := by
  have count : (List.range 64).countP (fun j => decide (x.getLsbD j = true)) =
      ((Finset.range 64).filter (fun j => x.getLsbD j = true)).card :=
    Multiset.countP_eq_card_filter _ (Multiset.range 64)
  rw [popWord, ← count]
  simp only [Bool.decide_eq_true]

/-! ### Immediates and displacements (R57, R99) -/

/-- A field followed by zero bits and sign-extended is its signed value times a power of two. -/
theorem signExtend_append_zero {n m w : Nat} (i : BitVec n) :
    (i ++ 0#m).signExtend w = BitVec.ofInt w (i.toInt * 2 ^ m) := by
  rw [BitVec.signExtend, BitVec.toInt_append_zero, mul_comm]

/-- The upper immediate is the signed value times 65,536. -/
theorem upper_eq_ofInt (i : BitVec 16) : upper i = BitVec.ofInt 64 (i.toInt * 65536) := signExtend_append_zero i

/-- A displacement counts words of four bytes from the PC. -/
theorem target_eq_add_ofInt {n : Nat} (pc : Word) (disp : BitVec n) (h : n ≤ 62) :
    target pc disp = pc + BitVec.ofInt 64 (disp.toInt * 4) := by
  have bytes : (disp.signExtend 62 ++ 0#2).toInt = disp.toInt * 4 := by
    rw [BitVec.toInt_append_zero, BitVec.toInt_signExtend_of_le h, mul_comm]; rfl
  rw [target, ← bytes, BitVec.ofInt_toInt]

/-- A sign-extended immediate keeps its signed value. -/
theorem toInt_sextW {n : Nat} (i : BitVec n) (h : n ≤ 64) : (sextW i).toInt = i.toInt := BitVec.toInt_signExtend_of_le h

/-- Settles O8: each form is one `writeInt`; the counts have the value that the bits force, and shifts and upper immediates are
products and quotients by powers of two. -/
theorem countsAndImmediateResults : Obligations.CountsAndImmediateResults := by
  intro s d a i n x k
  refine ⟨?clz, ?ctz, ?pop, ?addi, ?andi, ?ori, ?xori, ?slti, ?sltiu, ?slli, ?srli, ?srai, ?lui, ?pchi⟩
  case clz =>
    obtain ⟨k, hk, hcount, hbits⟩ := clzWord_spec x
    exact ⟨k, hk, exec_eq_wroteG rfl hcount, hbits⟩
  case ctz =>
    obtain ⟨k, hk, hcount, hbits⟩ := ctzWord_spec x
    exact ⟨k, hk, exec_eq_wroteG rfl hcount, hbits⟩
  case pop => exact exec_eq_wroteG rfl (popWord_eq_card x)
  case addi | andi | ori | xori => exact exec_eq_wroteG rfl rfl
  case slti => exact exec_eq_wroteG rfl (toInt_sextW i (by decide) ▸ boolWord_slt x (sextW i))
  case sltiu => exact exec_eq_wroteG rfl (boolWord_ult x k)
  case slli => exact exec_eq_wroteG rfl (shiftLeft_eq_ofNat x _)
  case srli => exact exec_eq_wroteG rfl (ushiftRight_eq_ofNat x _)
  case srai => exact exec_eq_wroteG rfl (sshiftRight_eq_ofInt x _)
  case lui => exact exec_eq_wroteG rfl (upper_eq_ofInt i)
  case pchi => exact exec_eq_wroteG rfl (congrArg (s.pc + ·) (upper_eq_ofInt i))

/-! ### Products and quotients (R100, R101) -/

/-- The high half of an exact product of naturals. -/
theorem highOf_natCast (p : Nat) : highOf p = BitVec.ofNat 64 (p / 2 ^ 64) := by
  rw [highOf, ← BitVec.ofInt_natCast, Int.natCast_ediv, Nat.cast_pow, Nat.cast_ofNat]

/-- The quotient of the most negative number by -1 does not fit and wraps to itself. -/
theorem divWord_eq (x y : Word) : divWord x y =
    if y = 0 then -1 else if x = BitVec.intMin 64 ∧ y = -1 then x else BitVec.ofInt 64 (x.toInt.tdiv y.toInt) := by
  refine if_congr Iff.rfl BitVec.neg_one_eq_allOnes.symm (ite_eq_right_iff.mpr ?wraps).symm
  case wraps =>
    rintro ⟨rfl, rfl⟩
    decide

/-- The remainder of the most negative number by -1 is 0. -/
theorem remWord_eq (x y : Word) : remWord x y =
    if y = 0 then x else if x = BitVec.intMin 64 ∧ y = -1 then 0 else BitVec.ofInt 64 (x.toInt.tmod y.toInt) := by
  refine if_congr Iff.rfl rfl (ite_eq_right_iff.mpr ?vanishes).symm
  case vanishes =>
    rintro ⟨rfl, rfl⟩
    decide

/-- All ones, the quotient by zero, is -1. -/
theorem divuWord_eq (x y : Word) :
    divuWord x y = if y = 0 then -1 else BitVec.ofNat 64 (x.toNat / y.toNat) :=
  if_congr Iff.rfl BitVec.neg_one_eq_allOnes.symm rfl

/-- Settles O9: each form is one `writeInt` of the model's word operation, whose value at the edges of R101 is the stated one. -/
theorem multiplyDivideResults : Obligations.MultiplyDivideResults := by
  intro s d a b x y
  refine ⟨?mul, ?mulh, ?mulhu, ?mulhsu, ?div, ?divu, ?rem, ?remu⟩
  case mul | mulh | mulhsu | remu => exact exec_eq_wroteG rfl rfl
  case mulhu => exact exec_eq_wroteG rfl (highOf_natCast _)
  case div => exact exec_eq_wroteG rfl (divWord_eq x y)
  case divu => exact exec_eq_wroteG rfl (divuWord_eq x y)
  case rem => exact exec_eq_wroteG rfl (remWord_eq x y)

/-! ### Jumps (R108, R109) -/

/-- A jump writes the link and the PC of the moving thread in one update of its context. -/
theorem jump_eq_onMe (s : State) (d : BitVec 5) (t : Word) :
    s.jump d t = s.onMe (fun c => { c.setG d (s.pc + 4) with pc := t, waiting := false }) := onMe_onMe s _ _

/-- The alignment check of a jump target reads its two low bits. -/
theorem lowBits_ne_zero_iff (t : Word) : (t.extractLsb' 0 2 != 0) = true ↔ t.toNat % 4 ≠ 0 := by
  rw [bne_iff_ne, ne_eq, ← BitVec.toNat_inj, BitVec.extractLsb'_toNat, Nat.shiftRight_zero]
  rfl

/-- `jalr` to an aligned target jumps. -/
theorem execJalr_aligned (s : State) (d a : BitVec 5) (i : BitVec 16) (h : (s.G a + sextW i).toNat % 4 = 0) :
    execJalr d a i s = .next (s.jump d (s.G a + sextW i)) := by
  have hlow := mt (lowBits_ne_zero_iff _).mp (not_not_intro h)
  rw [execJalr, if_neg hlow, finish_ok]

/-- `jalr` to a misaligned target traps before it writes anything. -/
theorem execJalr_misaligned (s : State) (d a : BitVec 5) (i : BitVec 16) (h : (s.G a + sextW i).toNat % 4 ≠ 0) :
    execJalr d a i s = .next (s.raise s.cur (trapAt s 2 (s.G a + sextW i) false)) := by
  rw [execJalr, if_pos ((lowBits_ne_zero_iff _).mpr h)]
  rfl

/-- Settles O11: both jumps are the one update of `jump_eq_onMe`, and `jalr` checks its target before it writes the link. -/
theorem jumpsLinkAndTrap : Obligations.JumpsLinkAndTrap := by
  intro s d a j i go t
  refine ⟨?jal, fun h => ?aligned, fun h => ?misaligned⟩
  case jal =>
    have jumps : exec (.jal d j) s = .next (s.jump d (target s.pc j)) := rfl
    rw [jumps, jump_eq_onMe, target_eq_add_ofInt s.pc j (by decide)]
  case aligned => exact (execJalr_aligned s d a i h).trans (congrArg _ (jump_eq_onMe s d t))
  case misaligned => exact execJalr_misaligned s d a i h

end Sys2Proof
end

section
/-! PROOFS. Solves against a factor tile (R286, R287): the tile as the upper triangle of its entries, back substitution over
lists as the steps that the rule states, the write of a result vector into a group, and the statement that puts them together. -/

namespace Sys2Proof

open Sys2Proof.Machine

/-! ### Entries of a tile (R279) -/

/-- The upper triangle of order n with entries F, row by row from the diagonal on. -/
def triangle (n : Nat) (F : Nat → Nat → Nat) : List (List Nat) :=
  (List.range n).map (fun i => (List.range' i (n - i)).map (F i))

/-- The pieces of a cut list are its slices. -/
theorem cut_eq_map_slices {α : Type} (w k : Nat) (bs : List α) :
    cut w bs k = (List.range k).map (fun j => (bs.drop (w * j)).take w) := by
  induction k generalizing bs with
  | zero => rfl
  | succ k ih =>
    rw [cut, ih, List.range_succ_eq_map, List.map_cons, List.map_map]
    simp only [List.drop_drop, Function.comp_def, Nat.mul_zero, List.drop_zero, Nat.mul_succ, Nat.add_comm]

/-- A slice of the bytes read is the bytes read at its place. -/
theorem readBytes_slice (d : Nat → Byte) (m : Memory) (a : Nat) {k l n : Nat} (h : k + l ≤ n) :
    ((Memory.readBytes d m a n).drop k).take l = Memory.readBytes d m (a + k) l := by
  apply List.ext_getElem?
  intro i
  rw [List.getElem?_take]
  split
  case isTrue hi => rw [List.getElem?_drop, readBytes_get m n a (k + i) (by omega), readBytes_get m l _ i hi, Nat.add_assoc]
  case isFalse hi => rw [List.getElem?_eq_none (by rw [readBytes_length]; omega)]

/-- The tile that an instruction reads holds the entries of its region's bytes. -/
theorem tile_eq_triangle {s : State} {h : BitVec 6} {ga : Word} (hb : (s.handle s.cur h).buf = some .c) :
    s.tile (s.handle s.cur h) ga = triangle (tileOrder ga) (tileEntry s h (tileOrder ga) (tileOff ga)) := by
  refine List.map_congr_left (fun i _ => ?_)
  simp only [cut_eq_map_slices, List.range'_eq_map_range, List.map_map]
  refine List.map_congr_left (fun j hj => ?_)
  have hj := List.mem_range.mp hj
  simp only [Function.comp_apply, Core.regionBytes, hb, Core.bufBytes]
  rw [readBytes_slice _ _ _ (by omega)]
  unfold tileEntry
  simp only [Core.bufBytes, Handle.off, State.handle, State.myCore]
  congr 2
  ring

theorem triangle_getD (n : Nat) (F : Nat → Nat → Nat) {i : Nat} (h : i < n) :
    (triangle n F).getD i [] = (List.range' i (n - i)).map (F i) := by
  simp [triangle, h]

/-- Entry (i, j) of an upper triangle. -/
theorem triAt_triangle (n : Nat) (F : Nat → Nat → Nat) {i j : Nat} (hij : i ≤ j) (hj : j < n) :
    triAt (triangle n F) i j = F i j := by
  have hi : i < n := by omega
  have hlt : j - i < n - i := by omega
  rw [triAt, triangle_getD n F hi]
  simp [hlt, Nat.add_sub_cancel' hij]

/-- The rows of an upper triangle begin on the diagonal. -/
theorem triangle_heads (n : Nat) (F : Nat → Nat → Nat) :
    (triangle n F).map (fun r => r.headD 0) = (List.range n).map (fun i => F i i) := by
  rw [triangle, List.map_map]
  refine List.map_congr_left (fun i hi => ?_)
  have hpos : n - i = n - i - 1 + 1 := by have := List.mem_range.mp hi; omega
  rw [Function.comp_apply, hpos, List.range'_succ]
  rfl

/-- With no ±0 on the diagonal the check before a solve passes (R286). -/
theorem checkDiag_triangle {n : Nat} {F : Nat → Nat → Nat} (h : ∀ i < n, F i i % 2 ^ 31 ≠ 0) :
    checkDiag (triangle n F) = .ok () := by
  have none : (triangle n F).zipIdx.find? (fun p => zero32 (p.1.headD 0)) = none := by
    rw [List.find?_eq_none]
    intro p hp
    have head : p.1.headD 0 ∈ (triangle n F).map (fun r => r.headD 0) :=
      List.mem_map_of_mem (List.fst_mem_of_mem_zipIdx hp)
    rw [triangle_heads] at head
    obtain ⟨i, hi, hF⟩ := List.mem_map.mp head
    rw [← hF, zero32, beq_iff_eq]
    exact h i (List.mem_range.mp hi)
  rw [checkDiag, none]

/-! ### Back substitution (R286) -/

/-- The numerator of y(i) in `fsolt`. -/
def numeratorT (F : Nat → Nat → Nat) (y z : Nat → Nat) (i : Nat) : Nat :=
  (List.range i).foldl (fun x m => rdFma (neg32 (F m i)) (y m) x) (z i)

/-- The numerator of y(i) in `fsoln`, of order n. -/
def numeratorN (n : Nat) (F : Nat → Nat → Nat) (y z : Nat → Nat) (i : Nat) : Nat :=
  (List.range' (i + 1) (n - 1 - i)).reverse.foldl (fun x m => rdFma (neg32 (F i m)) (y m) x) (z i)

/-- y is the vector that a solve gives from its numerators, with no failure (R286). -/
def Solves (n : Nat) (F : Nat → Nat → Nat) (num y : Nat → Nat) : Prop :=
  ∀ i < n, F i i % 2 ^ 31 ≠ 0 ∧ y i % 2 ^ 31 < 0x7F800000 ∧ y i = rdDiv (num i) (F i i)

/-- A finite quotient by the diagonal entry is the solution's element. -/
theorem solved_of_solves {n : Nat} {F : Nat → Nat → Nat} {num y : Nat → Nat} (h : Solves n F num y) {i : Nat} (hi : i < n) :
    solved (triangle n F) i (num i) = .ok (y i) := by
  obtain ⟨-, hfin, hy⟩ := h i hi
  have good : bad32 (y i) = false := decide_eq_false (Nat.not_le.mpr hfin)
  rw [solved, triAt_triangle n F le_rfl hi, ← hy, checkNum]
  simp [good, bind, Except.bind]

/-- One row of `fsolt`: the elements so far and the next one. -/
def solveRowT (f : List (List Nat)) (z ys : List Nat) (i : Nat) : Except FtlFail (List Nat) := do
  let y ← solved f i ((List.range i).foldl (fun a m => rdFma (neg32 (triAt f m i)) (ys.getD m 0) a) (z.getD i 0))
  .ok (ys ++ [y])

/-- One row of `fsoln`: the next element and those so far. -/
def solveRowN (f : List (List Nat)) (z ys : List Nat) (i : Nat) : Except FtlFail (List Nat) := do
  let y ← solved f i
    ((((f.getD i []).drop 1).zip ys).reverse.foldl (fun a p => rdFma (neg32 p.1) p.2 a) (z.getD i 0))
  .ok (y :: ys)

theorem solveT_eq_foldlM {f : List (List Nat)} (h : checkDiag f = .ok ()) (z : List Nat) :
    solveT f z = (List.range z.length).foldlM (solveRowT f z) [] := by
  rw [solveT, h]
  rfl

theorem solveN_eq_foldlM {f : List (List Nat)} (h : checkDiag f = .ok ()) (z : List Nat) :
    solveN f z = (List.range z.length).reverse.foldlM (solveRowN f z) [] := by
  rw [solveN, h]
  rfl

theorem getD_map_range (n : Nat) (x : Nat → Nat) {i : Nat} (h : i < n) : ((List.range n).map x).getD i 0 = x i := by
  simp [h]

/-- After the elements below i, row i of `fsolt` adds y(i). -/
theorem solveRowT_triangle {n : Nat} {F : Nat → Nat → Nat} {y z : Nat → Nat} (h : Solves n F (numeratorT F y z) y)
    {i : Nat} (hi : i < n) :
    solveRowT (triangle n F) ((List.range n).map z) ((List.range i).map y) i = .ok ((List.range (i + 1)).map y) := by
  have num : (List.range i).foldl
      (fun a m => rdFma (neg32 (triAt (triangle n F) m i)) (((List.range i).map y).getD m 0) a)
      (((List.range n).map z).getD i 0) = numeratorT F y z i := by
    rw [getD_map_range n z hi]
    refine List.foldl_ext _ _ _ (fun a m hm => ?_)
    have hm := List.mem_range.mp hm
    rw [triAt_triangle n F hm.le hi, getD_map_range i y hm]
  rw [solveRowT, num, solved_of_solves h hi, List.range_succ, List.map_append]
  rfl

/-- After the elements above i, row i of `fsoln` adds y(i). -/
theorem solveRowN_triangle {n : Nat} {F : Nat → Nat → Nat} {y z : Nat → Nat} (h : Solves n F (numeratorN n F y z) y)
    {i : Nat} (hi : i < n) :
    solveRowN (triangle n F) ((List.range n).map z) ((List.range' (i + 1) (n - 1 - i)).map y) i =
      .ok ((List.range' i (n - i)).map y) := by
  have split : List.range' i (n - i) = i :: List.range' (i + 1) (n - 1 - i) := by
    rw [show n - i = n - 1 - i + 1 by omega, List.range'_succ]
  have num : ((((triangle n F).getD i []).drop 1).zip ((List.range' (i + 1) (n - 1 - i)).map y)).reverse.foldl
      (fun a p => rdFma (neg32 p.1) p.2 a) (((List.range n).map z).getD i 0) = numeratorN n F y z i := by
    rw [getD_map_range n z hi, triangle_getD n F hi, split, List.map_cons, List.drop_one, List.tail_cons, List.zip_map',
      ← List.map_reverse, List.foldl_map, numeratorN]
  rw [solveRowN, num, solved_of_solves h hi, split]
  rfl

/-- Forward over the rows, `fsolt` gathers y(0), y(1) and so on. -/
theorem solveT_triangle {n : Nat} {F : Nat → Nat → Nat} {y z : Nat → Nat} (h : Solves n F (numeratorT F y z) y) :
    solveT (triangle n F) ((List.range n).map z) = .ok ((List.range n).map y) := by
  rw [solveT_eq_foldlM (checkDiag_triangle (fun i hi => (h i hi).1)), List.length_map, List.length_range]
  suffices rows : ∀ k ≤ n, (List.range k).foldlM (solveRowT (triangle n F) ((List.range n).map z)) [] =
      .ok ((List.range k).map y) from rows n le_rfl
  intro k hk
  induction k with
  | zero => rfl
  | succ k ih =>
    conv_lhs => rw [List.range_succ, List.foldlM_append, ih (by omega)]
    exact (bind_pure _).trans (solveRowT_triangle h hk)

/-- Backward over the rows, `fsoln` gathers y(n - 1), y(n - 2) and so on. -/
theorem solveN_triangle {n : Nat} {F : Nat → Nat → Nat} {y z : Nat → Nat} (h : Solves n F (numeratorN n F y z) y) :
    solveN (triangle n F) ((List.range n).map z) = .ok ((List.range n).map y) := by
  rw [solveN_eq_foldlM (checkDiag_triangle (fun i hi => (h i hi).1)), List.length_map, List.length_range]
  suffices rows : ∀ k i, i + k = n → (List.range' i k).reverse.foldlM
      (solveRowN (triangle n F) ((List.range n).map z)) [] = .ok ((List.range' i k).map y) by
    have all := rows n 0 (Nat.zero_add n)
    rwa [← List.range_eq_range'] at all
  intro k
  induction k with
  | zero => exact fun i _ => rfl
  | succ k ih =>
    intro i hk
    have row := solveRowN_triangle h (i := i) (by omega)
    rw [show n - 1 - i = k by omega, show n - i = k + 1 by omega] at row
    rw [← row, List.range'_succ, List.reverse_cons, List.foldlM_append, ih (i + 1) (by omega)]
    exact bind_pure (m := Except FtlFail) _

/-! ### A result vector in a group (R153) -/

/-- An instruction of four bytes has written elements 0 to n - 1 of group d at values x and set the group's fill to n elements;
nothing else has changed. -/
def WroteElems (s : State) (d : BitVec 5) (n : Nat) (x : Nat → Nat) (o : Host.Outcome State Fault Refusal) : Prop :=
  ∃ t, o = .next t ∧ t = s.setCtx s.cur t.me ∧
    t.me = { s.me with v := t.me.v, fill := t.me.fill, pc := s.pc + 4, waiting := false } ∧
    GroupWrote s t d (fun k => decide (k < n)) x ∧ GroupFilled s t d n

/-- Elements written in order are the loop over the elements of a group. -/
theorem setElems_eq_setEls (c : Ctx) (d : BitVec 5) (n : Nat) (x : Nat → Nat) :
    c.setElems d ((List.range n).map x) =
      (setEls 32 d.toNat (fun _ => true) x c (List.range n)).fillGroup d n := by
  have pairs : ((List.range n).map x).zipIdx = (List.range n).map (fun k => (x k, k)) :=
    List.ext_getElem (by simp) (by simp)
  rw [Ctx.setElems, pairs, List.foldl_map, List.length_map, List.length_range]
  rfl

/-- Elements written change vector registers and fill counts alone. -/
theorem setElems_frame (c : Ctx) (d : BitVec 5) (n : Nat) (x : Nat → Nat) :
    let e := c.setElems d ((List.range n).map x)
    e = { c with v := e.v, fill := e.fill } := by
  intro e
  have fills : e = { setEls 32 d.toNat (fun _ => true) x c (List.range n) with fill := e.fill } := by
    simp only [e, setElems_eq_setEls]
    exact fillGroup_eq _ d n
  rw [setEls_eq] at fills
  rw [fills]

theorem vreg_fillGroup (c : Ctx) (d : BitVec 5) (n r : Nat) : (c.fillGroup d n).vreg r = c.vreg r := by
  rw [fillGroup_eq]
  rfl

theorem el_fillGroup (c : Ctx) (d : BitVec 5) (n ew r k : Nat) : (c.fillGroup d n).el ew r k = c.el ew r k := by
  rw [Ctx.el, vreg_fillGroup, Ctx.el]

/-- The fill counts after elements 0 to n - 1 are written. -/
theorem setElems_fillOf {c : Ctx} {d : BitVec 5} (hd : c.group d = true) (n : Nat) (x : Nat → Nat) {r : Nat} (hr : r < 32) :
    (c.setElems d ((List.range n).map x)).fillOf r =
      if d.toNat ≤ r ∧ r < d.toNat + c.gf then Nat.min (n * c.ew / 8 - 512 * (r - d.toNat)) 512 else c.fillOf r := by
  have group : (setEls 32 d.toNat (fun _ => true) x c (List.range n)).group d = true := by
    rw [setEls_eq]
    exact hd
  rw [setElems_eq_setEls, fillGroup_fill group n r hr, setEls_eq]
  rfl

/-- An element of the group after elements 0 to n - 1 are written. -/
theorem setElems_el {c : Ctx} {n : Nat} (hew : c.ew = 32) (hn : n ≤ c.vlmax) (d : BitVec 5) (x : Nat → Nat) {k : Nat}
    (hk : k < c.vlmax) :
    (c.setElems d ((List.range n).map x)).el 32 d.toNat k = if k < n then x k % 2 ^ 32 else c.el 32 d.toNat k := by
  have reg (j : Nat) (hj : j < c.vlmax) : j / (4096 / 32) < 32 := by
    have hj := el_reg hj
    have := gf_le c
    rw [hew] at hj
    omega
  have width : IsEw 32 := isEw_ewOf 2
  rw [setElems_eq_setEls, el_fillGroup, el_setEls width d.toNat _ x _ c k List.nodup_range
    (fun j hj => reg j (by have := List.mem_range.mp hj; omega)) (reg k hk)]
  simp only [List.mem_range, and_true]

/-- A register outside the group after elements are written. -/
theorem setElems_vreg {c : Ctx} {d : BitVec 5} {n : Nat} (hew : c.ew = 32) (hd : c.group d = true) (hn : n ≤ c.vlmax)
    (x : Nat → Nat) {r : Nat} (hr : r < 32) (hout : r < d.toNat ∨ d.toNat + c.gf ≤ r) :
    (c.setElems d ((List.range n).map x)).vreg r = c.vreg r := by
  rw [setElems_eq_setEls, vreg_fillGroup]
  refine vreg_setEls d.toNat r _ x _ c (fun k hk => ?_)
  have hreg := el_reg (c := c) (k := k) (by have := List.mem_range.mp hk; omega)
  have hfit := group_fits hd
  rw [hew] at hreg
  omega

/-- A result vector is written into its group. -/
theorem vecOrTrap_wrote {s : State} {d : BitVec 5} {n : Nat} (hew : s.me.ew = 32) (hd : s.me.group d = true)
    (hn : n ≤ s.me.vlmax) (x : Nat → Nat) :
    WroteElems s d n x (finish (vecOrTrap s d (.ok ((List.range n).map x)))) := by
  have frame := setElems_frame s.me d n x
  have went : vecOrTrap s d (.ok ((List.range n).map x)) =
      .ok (s.onMe (fun c => { c.setElems d ((List.range n).map x) with pc := s.pc + 4, waiting := false })) := by
    rw [vecOrTrap, State.advance, onMe_onMe]
    refine congrArg Except.ok (onMe_congr s ?_)
    rw [frame]
    rfl
  refine ⟨_, by rw [went, finish_ok], by rw [me_onMe]; rfl, ?ctx, ⟨?els, ?regs⟩, ⟨?fill, ?fills⟩⟩
  case ctx =>
    rw [me_onMe]
    conv_lhs => rw [frame]
  case els =>
    intro k hk
    rw [me_onMe, hew]
    simp only [decide_eq_true_eq]
    exact setElems_el hew hn d x hk
  case regs =>
    intro r hr hout
    rw [me_onMe]
    exact setElems_vreg hew hd hn x hr hout
  case fill =>
    intro j hj
    have hfit := group_fits hd
    rw [me_onMe]
    refine (setElems_fillOf hd n x (r := d.toNat + j) (by omega)).trans ?_
    rw [if_pos (by omega), Nat.add_sub_cancel_left]
  case fills =>
    intro r hr hout
    rw [me_onMe]
    exact (setElems_fillOf hd n x hr).trans (if_neg (by omega))

/-! ### The instructions (R279, R280) -/

/-- A factor tile that may be worked on passes the checks of its word, and of a vector operand's length. -/
theorem factorTile_ready {s : State} {ga : Word} {h : BitVec 6} {n o : Nat} (ready : tileReady s ga h n o)
    (hn : n ≤ s.me.vlmax) :
    tileOrder ga = n ∧ tileOff ga = o ∧ (s.handle s.cur h).buf = some .c ∧
      factorTile s ga h true = .ok (s.handle s.cur h) := by
  obtain ⟨horder, hoff, halign, hlow, hhigh, hpos, hmax, ⟨hbuf, hten⟩, hfits, hfill, hdrain, hjobs, -⟩ := ready
  have order : tileOrder ga = n := by rw [tileOrder, BitVec.extractLsb'_toNat, Nat.shiftRight_eq_div_pow, horder]
  have off : tileOff ga = o := by rw [tileOff, BitVec.extractLsb'_toNat, Nat.shiftRight_zero, hoff]
  have low : ga.extractLsb' 19 13 = 0 := by
    rw [← BitVec.toNat_inj, BitVec.extractLsb'_toNat, Nat.shiftRight_eq_div_pow, hlow]
    rfl
  have high : ga.extractLsb' 41 23 = 0 := by
    rw [← BitVec.toNat_inj, BitVec.extractLsb'_toNat, Nat.shiftRight_eq_div_pow, hhigh]
    rfl
  have names : (s.handle s.cur h).names s.me.tenant = true := by
    rw [Handle.names, State.handle, hbuf, hten]
    exact beq_self_eq_true _
  have row : rowWait s h = .ok () := by
    simp [rowWait, State.handle, hfill, hdrain]
  have buf : (s.handle s.cur h).buf = some .c := hbuf
  have size : o + 4 * n * n ≤ (s.handle s.cur h).size := hfits
  refine ⟨order, off, buf, ?_⟩
  simp [factorTile, order, off, halign, low, high, hpos, hmax, names, buf, size, hn, row, hjobs, bind, Except.bind]

/-- What `fdiag`, `fsolt` and `fsoln` share: the checks, and a result computed from the tile and group d. -/
def factorRun (i : Instr) (d a : BitVec 5) (h : BitVec 6) (result : List (List Nat) → List Nat → Except FtlFail (List Nat))
    (s : State) : Run State := do
  notInTx s
  legal s i (s.me.factorVec d)
  let hd ← factorTile s (s.G a) h true
  vecOrTrap s d (result (s.tile hd (s.G a)) (s.me.elems d (tileOrder (s.G a))))

theorem exec_fdiag (d a : BitVec 5) (h : BitVec 6) (s : State) :
    exec (.fdiag d a h) s = finish (factorRun (.fdiag d a h) d a h (fun f _ => .ok (f.map (fun r => r.headD 0))) s) := rfl

theorem exec_fsolt (d a : BitVec 5) (h : BitVec 6) (s : State) :
    exec (.fsolt d a h) s = finish (factorRun (.fsolt d a h) d a h solveT s) := rfl

theorem exec_fsoln (d a : BitVec 5) (h : BitVec 6) (s : State) :
    exec (.fsoln d a h) s = finish (factorRun (.fsoln d a h) d a h solveN s) := rfl

/-- Where the instruction may execute, the result is computed from the tile's entries and written into the group. -/
theorem factorRun_wrote {s : State} {d a : BitVec 5} {h : BitVec 6} {n o : Nat} (ready : tileReady s (s.G a) h n o)
    (hew : s.me.ew = 32) (hd : s.me.group d = true) (hn : n ≤ s.me.vlmax) (i : Instr)
    {result : List (List Nat) → List Nat → Except FtlFail (List Nat)} {x : Nat → Nat}
    (hx : result (triangle n (tileEntry s h n o)) ((List.range n).map (s.me.el 32 d.toNat)) = .ok ((List.range n).map x)) :
    WroteElems s d n x (finish (factorRun i d a h result s)) := by
  obtain ⟨order, off, hbuf, hrun⟩ := factorTile_ready ready hn
  obtain ⟨-, -, -, -, -, -, -, -, -, -, -, -, htx⟩ := ready
  have operand : s.me.factorVec d = true := by rw [Ctx.factorVec, hew, hd]; rfl
  have tile := tile_eq_triangle (ga := s.G a) hbuf
  rw [order, off] at tile
  have ran : factorRun i d a h result s = vecOrTrap s d (.ok ((List.range n).map x)) := by
    rw [factorRun, notInTx_out htx, operand, hrun, order]
    simp only [bind, Except.bind, legal, if_true, tile, Ctx.elems, hx]
  rw [ran]
  exact vecOrTrap_wrote hew hd hn x

/-- Settles O46: the group's result is the tile's diagonal, or the vector that back substitution on the tile's upper triangle
gives. -/
theorem factorSolves : Obligations.FactorSolves := by
  intro s d a h n o y ready hew hd hn F z fine neg fma wrote
  refine ⟨?fdiag, fun solves => ?fsolt, fun solves => ?fsoln⟩
  case fdiag =>
    have diagonal := congrArg (Except.ok (ε := FtlFail)) (triangle_heads n F)
    have written := factorRun_wrote ready hew hd hn (.fdiag d a h)
      (result := fun f _ => .ok (f.map (fun r => r.headD 0))) diagonal
    rwa [← exec_fdiag] at written
  case fsolt =>
    have written := factorRun_wrote ready hew hd hn (.fsolt d a h) (solveT_triangle solves)
    rwa [← exec_fsolt] at written
  case fsoln =>
    have written := factorRun_wrote ready hew hd hn (.fsoln d a h) (solveN_triangle solves)
    rwa [← exec_fsoln] at written

end Sys2Proof
end
